-- ==== Sys2Proof/Word.lean ====
section
/-! DEFINITION. Tokens, predicate tokens and the plain words they are made of (02_encoding.md R33-R43). -/

namespace Sys2Proof

/-- One lane of a token's payload (00_scope.md R10). -/
abbrev Lane := BitVec 32

/-- One byte of memory. -/
abbrev Byte := BitVec 8

/-- A 64-bit instruction or header word (02_encoding.md R47, R51). -/
abbrev IWord := BitVec 64

/-- A format tag as a token or an instruction carries it (R36). -/
abbrev Fmt := BitVec 5

namespace Fmt

abbrev raw : Fmt := 0x00#5
abbrev fp32 : Fmt := 0x01#5
abbrev bf16 : Fmt := 0x02#5
abbrev fp16 : Fmt := 0x03#5
abbrev e4m3 : Fmt := 0x04#5
abbrev e5m2 : Fmt := 0x05#5
abbrev e3m2 : Fmt := 0x06#5
abbrev e2m3 : Fmt := 0x07#5
abbrev e2m1 : Fmt := 0x08#5
abbrev cb4 : Fmt := 0x09#5
abbrev int32 : Fmt := 0x0A#5
abbrev int16 : Fmt := 0x0B#5
abbrev int8 : Fmt := 0x0C#5
abbrev uint8 : Fmt := 0x0D#5
abbrev int4 : Fmt := 0x0E#5
abbrev uint4 : Fmt := 0x0F#5
abbrev e4m3s : Fmt := 0x10#5
abbrev e5m2s : Fmt := 0x11#5
abbrev e2m1s : Fmt := 0x12#5
abbrev cb4s : Fmt := 0x13#5
abbrev int8s : Fmt := 0x14#5
abbrev pred : Fmt := 0x15#5
abbrev int64 : Fmt := 0x16#5
abbrev e3m2s : Fmt := 0x17#5
abbrev uint32 : Fmt := 0x18#5
abbrev keyval : Fmt := 0x19#5
abbrev bitmap : Fmt := 0x1A#5
abbrev ptr : Fmt := 0x1B#5
/-- In an instruction's `FT`: take the format from the operand (R58). -/
abbrev fromOperand : Fmt := 0x1F#5

end Fmt

/-- Token kinds (R34). -/
abbrev Kind := BitVec 3

namespace Kind

abbrev data : Kind := 0b000#3
abbrev marker : Kind := 0b001#3
abbrev endOfReduction : Kind := 0b010#3
abbrev steering : Kind := 0b011#3
abbrev codebook : Kind := 0b100#3
abbrev teardown : Kind := 0b101#3

end Kind

/-- A data token: 512 bits of payload in 16 lanes, the sideband (R33), and the bounds half that
travels beside a PTR token (15_isolation.md R380; zero for every other tag). -/
structure Token where
  lanes : Vector Lane 16
  valid : BitVec 16
  fmt : Fmt
  kind : Kind
  poison : Bool
  bhead : Bool
  scale : BitVec 8
  tag : BitVec 8
  seq : BitVec 22
  bounds : Vector (BitVec 64) 8
  deriving DecidableEq, Repr

/-- A predicate token (R42). -/
structure PredToken where
  poison : Bool
  seq : BitVec 22
  scalar : Bool
  lp : BitVec 16
  deriving DecidableEq, Repr

/-- A stream command as `SSET` or `SIDX` sends it to a tile's command port (07_arith_streams.md R202).
`bound` and `vbound` are the bounds words of a PTR base and value base; `cell` and `task` name the issuer. -/
structure StreamCmd where
  indirect : Bool
  fmt : Fmt
  base : Nat
  bound : Option (BitVec 64)
  vbase : Nat
  vbound : Option (BitVec 64)
  stride : Int
  len : Nat
  write : Bool
  eos : Bool
  join : Bool
  part : Nat
  idxSlot : Nat
  cell : Nat
  task : Nat
  poison : Bool
  deriving DecidableEq, Repr

/-- What an arc carries: data tokens or predicate tokens (R44).
`control` is a marker or a teardown token on a predicate arc (R34, R338), where no payload travels;
`command` is a stream command on the arc to a tile's command port (R201). -/
inductive Item where
  | data (t : Token)
  | pred (p : PredToken)
  | control (kind : Kind) (lane0 : Lane) (seq : BitVec 22)
  | command (c : StreamCmd) (seq : BitVec 22)
  deriving DecidableEq, Repr

/-- A 64-byte granule's bytes, or any run of bytes, lowest address first. -/
abbrev Bytes := List Byte

end Sys2Proof
end

