-- ==== Sys2Proof/Syntax.lean ====
section
/-! DEFINITION. The instruction word's fields and the one inductive of all rows of the opcode table. -/

namespace Sys2Proof

/-- The fields of an instruction word below its opcode (02_encoding.md R51). -/
structure Fields where
  pr : BitVec 3
  ft : Fmt
  mod : BitVec 3
  t0 : BitVec 10
  t1 : BitVec 10
  imm : BitVec 24
  deriving DecidableEq, Repr

/-- What a member package asks of the collective sequencer (13_progress_watch.md R356-R369). -/
inductive SeqReqKind where
  | join (index size : Nat)
  | leave
  | number (callSite inst : BitVec 32)
  | cancel (number : BitVec 32)
  | post (number : BitVec 32) (card : Vector Lane 16)
  | query (q : Nat)
  deriving DecidableEq, Repr

/-- A request on its way to the sequencer: `pkg` and `asid` name the member's context, `cell`, `task` and `ins` the instruction that
waits for the answer. `late` says of one that a rollback left behind: the firing that made it is undone, and the
answer is kept for the firing that asks again (16 R423). -/
structure SeqReq where
  pkg : Nat
  asid : BitVec 8
  cell : Nat
  task : Nat
  ins : Nat
  group : BitVec 12
  kind : SeqReqKind
  late : Bool
  deriving DecidableEq, Repr

/-- What the sequencer sends a package on its ordered channel (R359): announcements, of numbers that a member's loss has
failed too (R365), answers and refusals. -/
inductive SeqMsg where
  | announce (number : BitVec 32) (group : BitVec 12) (failed : Bool)
  | answer (cell task ins : Nat) (value : BitVec 32)
  | refuse (cell task ins : Nat)
  deriving DecidableEq, Repr

structure SeqGroup where
  size : Nat
  members : List (Nat × Nat × BitVec 8)
  deriving DecidableEq, Repr

structure SeqKey where
  group : BitVec 12
  site : BitVec 32
  inst : BitVec 32
  number : BitVec 32
  askers : List (Nat × BitVec 8)
  deriving DecidableEq, Repr

/-- A number as the sequencer's records hold it; `failed` says that a member's loss has failed it (R365). -/
structure SeqNumber where
  number : BitVec 32
  group : BitVec 12
  posts : List (Nat × BitVec 8 × Vector Lane 16)
  go : Bool
  cancelled : Bool
  failed : Bool
  deriving DecidableEq, Repr

/-- The records the primary keeps and the standby copies (R358, R367). -/
structure SeqRecords where
  next : BitVec 32
  groups : List (BitVec 12 × SeqGroup)
  keys : List SeqKey
  numbers : List SeqNumber
  takeovers : BitVec 32
  waiting : List SeqReq
  deriving DecidableEq, Repr

/-- Where an uncorrectable error is found (16_recovery.md R404, R406). -/
inductive ErrorSite where
  /-- A held or offered token of an arc: the k-th of its queue; `sideband` when not the payload. -/
  | slot (arc k : Nat) (sideband : Bool)
  | tile (page granule : Nat)
  | memory (granule : Nat)
  | store (cell word : Nat)
  | constant (cell k : Nat)
  | sreg (cell task k : Nat)
  | modeWord (cell task : Nat)
  | flagState (cell task : Nat)
  | accumulator (cell task : Nat)
  /-- A token of a task's release queue: the k-th. -/
  | release (cell task k : Nat)
  | plane (cell : Nat) (shadow : Bool)
  | codebook (cell : Nat) (bSide : Bool)
  | spillway (asid : BitVec 8) (queue k : Nat)
  | cutBuffer (page : Nat)
  /-- An item of a frozen page where it stands in the saved image of its freeze (R424, R425). -/
  | saved (item : ErrorSite)
  deriving DecidableEq, Repr

/-- What an event of the part is told from outside or by the turn: which cell, page or context it concerns, and
what arrives.  Each event reads the fields that its constructor of `Instr` names. -/
structure Args where
  i : Nat
  j : Nat
  k : Nat
  l : Nat
  asid : BitVec 8
  n32 : BitVec 32
  w0 : BitVec 64
  w1 : BitVec 64
  flag : Bool
  item : Option Item
  msg : Option SeqMsg
  req : Option SeqReq
  site : Option ErrorSite
  data : List Byte
  others : List (Nat × List Byte × List Nat)
  records : SeqRecords
  deriving DecidableEq, Repr

abbrev Args.none : Args :=
  { i := 0, j := 0, k := 0, l := 0, asid := 0, n32 := 0, w0 := 0, w1 := 0, flag := false, item := Option.none
    msg := Option.none, req := Option.none, site := Option.none, data := [], others := []
    records := ⟨0, [], [], [], 0, []⟩ }

/-- The rows of the opcode table: the instructions of 03_opcode_map.md R71-R80, each with the fields of its
word, and the part's indivisible events (95_what_each_step_holds.md), which read what they are told in the
state's `args`. -/
inductive Instr where
  | rdp (f : Fields)
  | rds (f : Fields)
  | rdk (f : Fields)
  | imm (f : Fields)
  | wrp (f : Fields)
  | wrs (f : Fields)
  | sendt (f : Fields)
  | mov (f : Fields)
  | exit (f : Fields)
  | steer (f : Fields)
  | steerl (f : Fields)
  | merge (f : Fields)
  | carry (f : Fields)
  | invar (f : Fields)
  | nullt (f : Fields)
  | settag (f : Fields)
  | sbget (f : Fields)
  | nop (f : Fields)
  | add (f : Fields)
  | sub (f : Fields)
  | mul (f : Fields)
  | mulh (f : Fields)
  | div (f : Fields)
  | rem (f : Fields)
  | neg (f : Fields)
  | abs (f : Fields)
  | min (f : Fields)
  | max (f : Fields)
  | and (f : Fields)
  | or (f : Fields)
  | xor (f : Fields)
  | not (f : Fields)
  | andn (f : Fields)
  | shl (f : Fields)
  | shr (f : Fields)
  | sra (f : Fields)
  | rol (f : Fields)
  | ror (f : Fields)
  | clz (f : Fields)
  | popc (f : Fields)
  | brev (f : Fields)
  | cmpeq (f : Fields)
  | cmpne (f : Fields)
  | cmplt (f : Fields)
  | cmple (f : Fields)
  | cmpgt (f : Fields)
  | cmpge (f : Fields)
  | sel (f : Fields)
  | imad (f : Fields)
  | sext (f : Fields)
  | zext (f : Fields)
  | bfx (f : Fields)
  | bfi (f : Fields)
  | lea (f : Fields)
  | laneid (f : Fields)
  | vmask (f : Fields)
  | pfxsum (f : Fields)
  | pfxpop (f : Fields)
  | shuf (f : Fields)
  | lrot (f : Fields)
  | bcast (f : Fields)
  | compact (f : Fields)
  | expand (f : Fields)
  | redadd (f : Fields)
  | redmin (f : Fields)
  | redmax (f : Fields)
  | redand (f : Fields)
  | redor (f : Fields)
  | redxor (f : Fields)
  | pand (f : Fields)
  | por (f : Fields)
  | pxor (f : Fields)
  | pnot (f : Fields)
  | pany (f : Fields)
  | pall (f : Fields)
  | absd (f : Fields)
  | avg (f : Fields)
  | clamp (f : Fields)
  | dot4 (f : Fields)
  | dot2 (f : Fields)
  | fadd (f : Fields)
  | fsub (f : Fields)
  | fmul (f : Fields)
  | fma (f : Fields)
  | fms (f : Fields)
  | fnma (f : Fields)
  | fnms (f : Fields)
  | fdiv (f : Fields)
  | fsqrt (f : Fields)
  | frcp (f : Fields)
  | frsq (f : Fields)
  | fmin (f : Fields)
  | fmax (f : Fields)
  | fabs (f : Fields)
  | fneg (f : Fields)
  | fcmpeq (f : Fields)
  | fcmplt (f : Fields)
  | fcmple (f : Fields)
  | fcmpun (f : Fields)
  | fclass (f : Fields)
  | fscale (f : Fields)
  | fexp2 (f : Fields)
  | flog2 (f : Fields)
  | fsin (f : Fields)
  | fcos (f : Fields)
  | ftanh (f : Fields)
  | fsigm (f : Fields)
  | fredadd (f : Fields)
  | fredmax (f : Fields)
  | fredmin (f : Fields)
  | faddx (f : Fields)
  | fsubx (f : Fields)
  | fmulx (f : Fields)
  | dwadd (f : Fields)
  | dwsub (f : Fields)
  | dwmul (f : Fields)
  | dwfma (f : Fields)
  | dwnorm (f : Fields)
  | dwred (f : Fields)
  | dwtof (f : Fields)
  | fcvt (f : Fields)
  | ftoi (f : Fields)
  | itof (f : Fields)
  | cbdec (f : Fields)
  | cbenc (f : Fields)
  | pack (f : Fields)
  | unpack (f : Fields)
  | bscl (f : Fields)
  | bscalc (f : Fields)
  | setmode (f : Fields)
  | getflags (f : Fields)
  | clrflags (f : Fields)
  | frnd (f : Fields)
  | fcopysgn (f : Fields)
  | fdot2 (f : Fields)
  | getmode (f : Fields)
  | fcmpne (f : Fields)
  | mlds (f : Fields)
  | mswap (f : Fields)
  | mrow (f : Fields)
  | mrowc (f : Fields)
  | mcbl (f : Fields)
  | acc (f : Fields)
  | accn (f : Fields)
  | eor (f : Fields)
  | accrel (f : Fields)
  | route (f : Fields)
  | mstat (f : Fields)
  | mclr (f : Fields)
  | accrd (f : Fields)
  | rtset (f : Fields)
  | ld (f : Fields)
  | st (f : Fields)
  | stm (f : Fields)
  | lds (f : Fields)
  | sts (f : Fields)
  | ldg (f : Fields)
  | stsc (f : Fields)
  | pref (f : Fields)
  | aadd (f : Fields)
  | amin (f : Fields)
  | amax (f : Fields)
  | aand (f : Fields)
  | aor (f : Fields)
  | axor (f : Fields)
  | axchg (f : Fields)
  | acas (f : Fields)
  | atas (f : Fields)
  | afadd (f : Fields)
  | ainc (f : Fields)
  | fence (f : Fields)
  | acq (f : Fields)
  | rel (f : Fields)
  | bktake (f : Fields)
  | bkgive (f : Fields)
  | tfpush (f : Fields)
  | tfpop (f : Fields)
  | chapp (f : Fields)
  | chtail (f : Fields)
  | chseq (f : Fields)
  | adec (f : Fields)
  | ldnt (f : Fields)
  | stnt (f : Fields)
  | ldb (f : Fields)
  | afmin (f : Fields)
  | afmax (f : Fields)
  | sset (f : Fields)
  | sidx (f : Fields)
  | spop (f : Fields)
  | spush (f : Fields)
  | sint (f : Fields)
  | suni (f : Fields)
  | ssub (f : Fields)
  | smadd (f : Fields)
  | bmand (f : Fields)
  | bmpfx (f : Fields)
  | hprobe (f : Fields)
  | hins (f : Fields)
  | contract (f : Fields)
  | sstat (f : Fields)
  | clnum (f : Fields)
  | clpost (f : Fields)
  | clcancel (f : Fields)
  | clstat (f : Fields)
  | cljoin (f : Fields)
  | clleave (f : Fields)
  | clquery (f : Fields)
  | grpid (f : Fields)
  | role (f : Fields)
  | spawn (f : Fields)
  | tear (f : Fields)
  | bal (f : Fields)
  | time (f : Fields)
  | firecnt (f : Fields)
  | evt (f : Fields)
  | svcl (f : Fields)
  | yield (f : Fields)
  | prio (f : Fields)
  | ctxid (f : Fields)
  | psetb (f : Fields)
  | psetp (f : Fields)
  | padd (f : Fields)
  | pchk (f : Fields)
  | pget (f : Fields)
  | pseal (f : Fields)
  | punseal (f : Fields)
  | pmint (f : Fields)
  | mark (f : Fields)
  | trap (f : Fields)
  | brk (f : Fields)
  | sluice (f : Fields)
  | replay (f : Fields)
  | guard (f : Fields)
  | cutstat (f : Fields)
  | resumeq (f : Fields)
  /-- R311. Args: cell = i. -/
  | arbiterChoice
  /-- R55. Args: cell = i, task = j. -/
  | blockRetire
  /-- R40. Args: arc = i, arrival = item. -/
  | tokenAccept
  /-- R345. Args: asid, queue = i. -/
  | spillwayPass
  /-- R411. Args: arc = i. -/
  | replaySend
  /-- R184. Args: cell = i, row = j. -/
  | rowChainTake
  /-- R183. Args: cell = i, row = j. -/
  | rowOutputSend
  /-- R197. Args: cell = i, task = j. -/
  | releaseQueueSend
  /-- R200. Args: cell = i, slot = j. -/
  | streamCommandAccept
  /-- R204. Args: cell = i, slot = j. -/
  | streamReadTokenSend
  /-- R205. Args: cell = i, slot = j. -/
  | indirectStreamGather
  /-- R207. Args: cell = i, slot = j. -/
  | streamPushTake
  /-- R209. Args: cell = i, slot = j. -/
  | coiterationStep
  /-- R327. Args: cell = i, slot = j. -/
  | streamSlotTeardown
  /-- R237. Args: cell = i, task = j, k. -/
  | homeAccessApply
  /-- R251. Args: cell = i, task = j, k. -/
  | atomicApply
  /-- R245. Args: cell = i, task = j. -/
  | releaseComplete
  /-- R249. Args: dest = i. -/
  | remoteOutboundSend
  /-- R388. Args: die = i, asid, va = j. -/
  | translationWalk
  /-- R294. Args: chain = i. -/
  | chainJobIssue
  /-- R255. Args: chain = i, job = j. -/
  | engineJobComplete
  /-- R291. Args: asid, fifo = i. -/
  | fifoPendingPush
  /-- R359. Args: fromRemote = msg. -/
  | collectiveAnnounce
  /-- R362. Args: number = n32. -/
  | collectiveGo
  /-- R363. Args: others. -/
  | collectiveExecute
  /-- R361. -/
  | collectiveFinish
  /-- R364. Args: number = n32. -/
  | collectiveCancelNotice
  /-- R358. Args: fromRemote = req. -/
  | seqNumberRequest
  /-- R356. Args: fromRemote = req. -/
  | seqJoinRequest
  /-- R357. Args: fromRemote = req. -/
  | seqLeaveRequest
  /-- R364. Args: fromRemote = req. -/
  | seqCancelRequest
  /-- R362. Args: fromRemote = req. -/
  | seqPostNotice
  /-- R369. Args: fromRemote = req. -/
  | seqQueryRequest
  /-- R367. -/
  | standbyTakeover
  /-- R367. Args: highest = n32. -/
  | takeoverNotice
  /-- R365. Args: package = i. -/
  | memberUnreachable
  /-- R428. Args: link = i. -/
  | reachLinkFail
  /-- R404. -/
  | flitCrcRetry
  /-- R16. Args: die = i, edge = j, module = k. -/
  | ucieModuleExclude
  /-- R344. Args: asid. -/
  | contextSilent
  /-- R347. Args: page = i. -/
  | pageSilent
  /-- R322. Args: inst = n32, stage = i. -/
  | balancerInterval
  /-- R323. Args: inst = n32, stage = i, replica = j. -/
  | replicaParked
  /-- R327. Args: cell = i, task = j. -/
  | taskDrain
  /-- R337. Args: k = i. -/
  | spawnArrive
  /-- R330. Args: page = i. -/
  | pageReturn
  /-- R330. Args: inst = n32. -/
  | instanceEnd
  /-- R449. -/
  | endRecordWrite
  /-- R404. Args: at_ = site, lasting = flag. -/
  | uncorrectableError
  /-- R417. Args: page = i. -/
  | faultyPageRelocate
  /-- R422. Args: inst = n32. -/
  | rollback
  /-- R418. Args: inst = n32. -/
  | cutOrder
  /-- R419. Args: page = i. -/
  | pageCutSave
  /-- R421. Args: inst = n32. -/
  | cutComplete
  /-- R424. -/
  | freezeComplete
  /-- R430. Args: asid. -/
  | trapRecordWrite
  /-- R389. -/
  | invalidationComplete
  /-- R375. Reads the mailbox (18 R447). -/
  | mbCreateContext
  /-- R377. Reads the mailbox (18 R447). -/
  | mbEndContext
  /-- R324. Reads the mailbox (18 R447). -/
  | mbLaunch
  /-- R331. Reads the mailbox (18 R447). -/
  | mbEndInstance
  /-- R432. Reads the mailbox (18 R447). -/
  | mbTrapRetry
  /-- R432. Reads the mailbox (18 R447). -/
  | mbTrapContinue
  /-- R432. Reads the mailbox (18 R447). -/
  | mbTrapRollback
  /-- R432. Reads the mailbox (18 R447). -/
  | mbTrapEnd
  /-- R389. Reads the mailbox (18 R447). -/
  | mbInvalidateTranslation
  /-- R439. Reads the mailbox (18 R447). -/
  | mbSluiceArm
  /-- R439. Reads the mailbox (18 R447). -/
  | mbSluiceOpen
  /-- R424. Reads the mailbox (18 R447). -/
  | mbFreeze
  /-- R426. Reads the mailbox (18 R447). -/
  | mbResume
  /-- R418. Reads the mailbox (18 R447). -/
  | mbCut
  /-- R451. Reads the mailbox (18 R447). -/
  | mbSetTime
  /-- R368. Reads the mailbox (18 R447). -/
  | mbSequencerDesignate
  /-- R367. Reads the mailbox (18 R447). -/
  | mbSequencerTakeover
  /-- R458. Reads the mailbox (18 R447). -/
  | mbAddImageKey
  /-- R456. Reads the mailbox (18 R447). -/
  | mbFullService
  /-- R449. Args: mask = w0. -/
  | notifyClear
  /-- R449. Args: value = w0. -/
  | endRingReadIndexWrite
  /-- R445. Args: asid, trapRing = flag, value = w0. -/
  | contextRingReadIndexWrite
  /-- R452. Args: value = w0. -/
  | pwrcapWrite
  /-- R453. Args: entry = i, value = w0. -/
  | scheduleEntryCommit
  /-- R453. Args: entry = i. -/
  | scheduleEntryDue
  /-- R452. Args: watts = w0. -/
  | powerCapControl
  /-- R454. Args: die = i. -/
  | diepwrFull
  /-- R454. Args: die = i. -/
  | diepwrBalanced
  /-- R454. Args: die = i. -/
  | diepwrNearThreshold
  /-- R454. Args: die = i. -/
  | diepwrGate
  /-- R454. Args: die = i. -/
  | diepwrRefClear
  /-- R454. Args: die = i. -/
  | diepwrChangeDone
  /-- R445. Args: offset = i, bytes = j, value = w0. -/
  | registerWrite
  /-- R446. Args: pa = i, write = data, flag, bytes = j. -/
  | hostMemoryAccess
  /-- R456. -/
  | packageReset
  /-- R456. Args: die = i, x = j, y = k, passed = flag. -/
  | frameSelfTestDone
  /-- R457. Args: stage = w0, its bytes = data, version = i. -/
  | bootStageVerify
  /-- R457. Args: bytes = data, version = i, build = j. -/
  | firmwareUpdate
  /-- R367. -/
  | sequencerFailNoStandby
  /-- R391. Args: die = i, x = j, y = k, bad = flag. -/
  | frameScrubComplete
  deriving DecidableEq, Repr

/-- How an instruction executes in a turn: plainly; with a Guard mode comparison of it that mismatches once (transient) or
twice (lasting, 16_recovery.md R415); or with only the next of its accesses performed (09_order_model.md R231, R232). -/
inductive GuardHit where
  | ok
  | once
  | twice
  | piece
  deriving DecidableEq, Repr

/-- One turn of the part: which agent moves next (00_scope.md R4 leaves the order of independent agents
open; LOG 1, DESIGN CHOICE).  `fire` executes instruction `ins` of the firing in flight of a task, as `guardBad` says.
`event` is one indivisible event of the part.  `elapse` lets the always-on counter advance (18 R451). -/
inductive Turn where
  | fire (cell task ins : Nat) (guardBad : GuardHit)
  | event (i : Instr) (a : Args)
  | elapse (ticks : Nat)
  deriving DecidableEq, Repr, Inhabited

end Sys2Proof
end

