-- ==== Sys2Proof/Image.lean ====
section
/-! DEFINITION. What a launch knows of an image (02_encoding.md R60-R65, 15_isolation.md R384, R390): the declarations of the
graph as plain data, first as its graph section records them, with launch parameters and expressions, then with every
expression evaluated. Numbers that name a declaration are its place in its list. -/

namespace Sys2Proof

/-- The kinds of cell (01_machine.md R21). -/
inductive CellKind where
  | v | m | t
  deriving DecidableEq, Repr

/-- `.role`: the group, whether it is a cell role, and the member count. -/
structure GRole where
  group : Nat
  isCell : Bool
  count : Nat
  deriving DecidableEq, Repr

/-- `.cell` with its `.const` registers and the words of its instruction store, native or rebuilt. `role` and `member`
name its page, `bind` its place in a cell role. -/
structure GCell where
  kind : CellKind
  role : Nat
  member : Nat
  site : Option (Nat × Nat)
  bind : Option (Nat × Nat)
  consts : Vector (BitVec 32) 16
  hasConsts : Bool
  words : List (Nat × IWord)
  deriving DecidableEq, Repr

structure GStage where
  id : Nat
  min : Nat
  max : Nat
  deriving DecidableEq, Repr

/-- `.task`; `entry` and `blocks` are word addresses of headers, `chains` places in the list of symbols, `banks` pairs
of a tile and a bank. -/
structure GTask where
  cell : Nat
  ports : List Nat
  prio : Nat
  sregs : Nat
  stage : Option Nat
  entry : Nat
  blocks : List Nat
  chains : List Nat
  banks : List (Nat × Nat)
  seals : List Nat
  deriving DecidableEq, Repr

structure GArc where
  pCell : Nat
  pPort : Nat
  cCell : Nat
  cPort : Nat
  slots : Nat
  burst : Nat
  isPred : Bool
  weir : Option Nat
  deriving DecidableEq, Repr

/-- `.range`: over a data region, or with a base, limit and offset of its own. -/
structure GRange where
  data : Option Nat
  base : Nat
  lim : Nat
  off : Nat
  fmt : Fmt
  codebook : Option Nat
  scales : Option Nat
  readable : Bool
  writable : Bool
  deriving DecidableEq, Repr

/-- The directives that have a symbol, in declaration order across the three kinds (R390). -/
inductive GSym where
  | data (fmt : Fmt) (at_ : Option Nat) (align : Nat) (bytes : List Byte)
  | codebook (entries : List (BitVec 16))
  | range (r : GRange)
  deriving DecidableEq, Repr

/-! ### The graph as it is recorded (R60, R62, R63) -/

/-- An expression of a directive; `param` is a launch parameter by its place (R60). -/
inductive Expr where
  | lit (n : Int)
  | param (k : Nat)
  | add (a b : Expr)
  | sub (a b : Expr)
  | mul (a b : Expr)
  | div (a b : Expr)
  deriving DecidableEq, Repr

/-- An initial value (R60): a real literal, which stands as the bits that it was converted to, `raw(e)`, or an expression,
which is a number where its directive names a floating-point format, else bits. -/
inductive Init where
  | real (bits : Nat)
  | raw (e : Expr)
  | value (e : Expr)
  deriving DecidableEq, Repr

structure SRole where
  group : Nat
  isCell : Bool
  count : Expr
  deriving DecidableEq, Repr

/-- `.cell`. `guards` are the guards whose index is an expression: the header's address, the expression, and the two numbers
that make `GIDX` of it, a factor and what is added (R48). -/
structure SCell where
  kind : CellKind
  role : Nat
  member : Expr
  site : Option (Expr × Expr)
  bind : Option (Nat × Expr)
  consts : List (Nat × Option Fmt × Init)
  words : List (Nat × IWord)
  guards : List (Nat × Expr × Nat × Nat)
  deriving DecidableEq, Repr

structure SStage where
  id : Option Expr
  min : Expr
  max : Expr
  deriving DecidableEq, Repr

/-- `.task`: as it is evaluated, but for its register count. -/
structure STask where
  task : GTask
  sregs : Expr
  deriving DecidableEq, Repr

/-- `.arc`: as it is evaluated, but for its slots and its burst length. -/
structure SArc where
  arc : GArc
  slots : Expr
  burst : Expr
  deriving DecidableEq, Repr

/-- `.range`: as it is evaluated, but for the three expressions and a format not named. -/
structure SRange where
  range : GRange
  base : Expr
  lim : Expr
  off : Expr
  fmt : Option Fmt
  deriving DecidableEq, Repr

inductive SSym where
  | data (fmt : Fmt) (count : Expr) (at_ : Option Expr) (align : Option Expr) (values : List Init)
  | codebook (entries : List Init)
  | range (r : SRange)
  deriving DecidableEq, Repr

/-- A graph as its section records it: `params` holds the launch parameters' default values. -/
structure Source where
  params : List (BitVec 32)
  groups : List (Option Expr)
  roles : List SRole
  cells : List SCell
  stages : List SStage
  tasks : List STask
  arcs : List SArc
  weirs : List Expr
  sluices : List (Nat × Bool)
  symbols : List SSym
  deriving DecidableEq, Repr

/-! ### The graph with its expressions evaluated -/

/-- A graph. `groups` holds the groups' ids, `weirs` their levels, `sluices` an arc and whether it starts armed, and
`params` is the number of launch parameters. -/
structure Graph where
  params : Nat
  groups : List Nat
  roles : List GRole
  cells : List GCell
  stages : List GStage
  tasks : List GTask
  arcs : List GArc
  weirs : List Nat
  sluices : List (Nat × Bool)
  symbols : List GSym
  deriving DecidableEq, Repr

end Sys2Proof
end

