-- ==== Sys2Proof/Config.lean ====
section
/-! DEFINITION. What the manual leaves open (00_scope.md R7): free values without a body, which no proof can see. -/

namespace Sys2Proof.Config

/-- The agent that moves next, where the agenda names none: independent agents of the part are not ordered
among themselves (00_scope.md R4). The n-th such choice (LOG 1, DESIGN CHOICE). -/
opaque nextTurn : Nat → Turn

/-- 09_order_model.md R233: a plain load whose line is held may be served from it or go to the home.
The choice for a granule in the n-th load (LOG 2, DESIGN CHOICE). -/
opaque lineHit : Nat → Nat → Bool

/-- R233: the line a full line buffer replaces is of the device's choosing.
The choice for a granule in the n-th load (LOG 2, DESIGN CHOICE). -/
opaque lineVictim : Nat → Nat → Nat

/-- 15_isolation.md R387: where the entries of a group differ, any one of them translates.
The choice for an address in the n-th such access (LOG 2, DESIGN CHOICE). -/
opaque groupEntry : Nat → Nat → Nat

/-- 18_surroundings.md R452: above the cap, with every region at its floor, arbiters leave block frames idle for whole choices.
Whether the n-th one is left idle (LOG 2, DESIGN CHOICE). -/
opaque choiceIdle : Nat → Bool

/-- 13_progress_watch.md R363: each element of the output of a failed collective is old or new.
The n-th such choice (LOG 2, DESIGN CHOICE). -/
opaque failedElementNew : Nat → Bool

/-- 15_isolation.md R396: whether the two signatures of an image verify against one key pair of the
store; P-384, LMS and SHA-384 are not spelt out in the spec (LOG 8, DESIGN CHOICE). -/
opaque imageSigned : List (BitVec 8) → List (BitVec 64) → Bool

/-- 18_surroundings.md R458: whether a key record is signed by a pair of the store or the owner key (LOG 8, DESIGN CHOICE). -/
opaque keyRecordSigned : List (BitVec 64) → List (BitVec 64) → Bool

/-- R457: whether the ECDSA signature of a firmware stage, given as its bytes, verifies against the fused root key hashes;
P-384 and SHA-384 are not spelt out in the spec (LOG 8, DESIGN CHOICE). -/
opaque ecdsaVerified : List (BitVec 8) → List (BitVec 384) → Bool

/-- R457: whether its LMS signature does (LOG 8, DESIGN CHOICE). -/
opaque lmsVerified : List (BitVec 8) → List (BitVec 384) → Bool

/-- R458: the bytes that a key record takes, which the spec does not give (LOG 8, DESIGN CHOICE). -/
opaque keyRecordLen : Nat

/-- R88: the image is signed as the loader's own (LOG 8, DESIGN CHOICE). -/
opaque imageByLoader : List (BitVec 8) → Bool

/-- 15_isolation.md R393, R395, 02_encoding.md R63: the graph that an image's sections record, its words those of the native
artefact where the flag is set, else rebuilt. The spec does not spell out the bytes of these sections (LOG 8, DESIGN CHOICE). -/
opaque readGraph : List (BitVec 8) → Bool → Option Source

/-- R395: the image's native artefact names the part and the running firmware build (LOG 8, DESIGN CHOICE). -/
opaque nativeMatches : List (BitVec 8) → Nat → Bool

/-- R395: the erratum is corrected in the running part or firmware build (LOG 8, DESIGN CHOICE). -/
opaque erratumCorrected : BitVec 32 → Nat → Bool

/-- 02 R62: the virtual address that the loader of an instance chooses for a symbol (LOG 8, DESIGN CHOICE). -/
opaque symbolPlace : Nat → Nat → Nat

/-- 02 R62, 15 R384: the offset from virtual to physical addresses that it chooses for a `.range` over a data region (LOG 8, DESIGN CHOICE). -/
opaque rangeOffset : Nat → Nat → Nat

/-- 15_isolation.md R398: the exponent and the two distances of the bounds of `n` bytes from `a`, bits [47:0] of the bounds word,
where no exponent up to 36 fits them (LOG 17, DESIGN CHOICE). -/
opaque wideBounds : Nat → Nat → BitVec 48

/-- 04_arith_formats.md R99: the code that a number takes in a codebook whose entries are all NaN, which the spec does not
state. For the number: its sign, and its magnitude `m` * 2^`e`, or infinity where there is none (LOG 31, DESIGN CHOICE). -/
opaque nanBookCode : Bool → Option (Nat × Int) → Nat

/-- R99: the flags that it raises (LOG 31, DESIGN CHOICE). -/
opaque nanBookFlags : Bool → Option (Nat × Int) → BitVec 7

/-- 05_arith_vector.md R162: the scale for magnitude `m` * 2^`e` where the codebook has no finite entry (LOG 31, DESIGN CHOICE). -/
opaque noMaxScale : Nat → Int → Nat

end Sys2Proof.Config
end

