-- ==== Sys2Proof/Machine/Opcodes.lean ====
section
/-! DEFINITION. The assigned opcodes with the classes of their fields (03_opcode_map.md R66-R80), the slots and
the number of results that each description gives, and the layout of `IMM` (02_encoding.md R56). -/

namespace Sys2Proof

/-- `OP`, bits [63:55]. -/
def opOf (w : IWord) : Nat := (w.extractLsb' 55 9).toNat

end Sys2Proof

namespace Sys2Proof.Machine

/-- PR classes (R67). -/
inductive PrClass where
  | all | plain | steer | never
  deriving DecidableEq, Repr

/-- FT classes (R68); `one` and `two` are single codes. -/
inductive FtClass where
  | none | any | mem | float | fp32 | int | atomic | conv | scl | toint | matrix | cb | cbany | pred | kv
  | bitmap | ptr | one (c : Fmt) | two (c d : Fmt)
  deriving DecidableEq, Repr

/-- MOD classes (R69). -/
inductive ModClass where
  | zero | round | roundSat | sat | order | var (n : Nat)
  deriving DecidableEq, Repr

/-- Which cells may hold an opcode (R70). -/
inductive CellUse where
  | v | m | both
  deriving DecidableEq, Repr

/-- The layouts of `IMM` that the descriptions give, named by what they hold. -/
inductive Layout where
  | zero | free | port | state | pair | konst | exit | low3 | low4 | low5 | low8 | low12 | low16 | low23
  | immOp | fill | ext | field | pfxpop | part | pack | mrow | mrowc | tile | tileRel
  | memOff | memBare | memLvl | memScope | mem5 | mem4 | mem2 | hash
  | query | role | spawn | tear | event | seal
  deriving DecidableEq, Repr

/-- One assigned opcode. `req` and `opt` are the slots it uses always and optionally, as bits:
bit 0 slot A, bit 1 slot B, bit 2 slot P (never listed), bit 3 slot C. `mo`: carries a memory-order index (R57). -/
structure OpRow where
  code : Nat
  pr : PrClass
  ft : FtClass
  md : ModClass
  cell : CellUse
  results : Nat
  req : Nat
  opt : Nat
  layout : Layout
  mo : Bool
  make : Fields → Instr

/-- R71, 05_arith_vector.md R125. -/
def rowsDataflow : List OpRow := [
  ⟨0x001, .all, .any, .zero, .both, 1, 0, 0, .port, false, .rdp⟩,
  ⟨0x002, .all, .any, .zero, .both, 1, 0, 0, .state, false, .rds⟩,
  ⟨0x003, .all, .any, .zero, .both, 1, 0, 0, .konst, false, .rdk⟩,
  ⟨0x004, .all, .int, (.var 2), .both, 1, 0, 1, .immOp, false, .imm⟩,
  ⟨0x005, .plain, .any, .zero, .both, 0, 1, 0, .port, false, .wrp⟩,
  ⟨0x006, .plain, .any, .zero, .both, 0, 1, 0, .state, false, .wrs⟩,
  ⟨0x007, .plain, .none, (.var 3), .both, 0, 1, 0, .port, false, .sendt⟩,
  ⟨0x008, .all, .any, .zero, .both, 1, 1, 0, .zero, false, .mov⟩,
  ⟨0x009, .plain, .none, .zero, .both, 0, 0, 0, .exit, false, .exit⟩,
  ⟨0x00A, .steer, .any, .zero, .both, 1, 1, 0, .zero, false, .steer⟩,
  ⟨0x00B, .steer, .any, .zero, .both, 2, 1, 0, .zero, false, .steerl⟩,
  ⟨0x00C, .all, .any, .zero, .both, 1, 3, 0, .zero, false, .merge⟩,
  ⟨0x00D, .all, .any, .zero, .both, 1, 1, 0, .state, false, .carry⟩,
  ⟨0x00E, .all, .any, .zero, .both, 1, 1, 0, .state, false, .invar⟩,
  ⟨0x00F, .all, .none, .zero, .both, 1, 1, 0, .zero, false, .nullt⟩,
  ⟨0x010, .all, .any, .zero, .both, 1, 1, 0, .low8, false, .settag⟩,
  ⟨0x011, .all, (.one 0x18), (.var 4), .both, 1, 1, 0, .zero, false, .sbget⟩,
  ⟨0x012, .plain, .none, .zero, .both, 0, 0, 0, .zero, false, .nop⟩]

/-- R72, 05 R134-R144. -/
def rowsInteger : List OpRow := [
  ⟨0x020, .all, .int, .sat, .v, 1, 1, 2, .fill, false, .add⟩,
  ⟨0x021, .all, .int, .sat, .v, 1, 1, 2, .fill, false, .sub⟩,
  ⟨0x022, .all, .int, .sat, .v, 1, 1, 2, .fill, false, .mul⟩,
  ⟨0x023, .all, .int, .zero, .v, 1, 1, 2, .fill, false, .mulh⟩,
  ⟨0x024, .all, .int, .zero, .v, 1, 1, 2, .fill, false, .div⟩,
  ⟨0x025, .all, .int, .zero, .v, 1, 1, 2, .fill, false, .rem⟩,
  ⟨0x026, .all, .int, .sat, .v, 1, 1, 0, .zero, false, .neg⟩,
  ⟨0x027, .all, .int, .sat, .v, 1, 1, 0, .zero, false, .abs⟩,
  ⟨0x028, .all, .int, .zero, .v, 1, 1, 2, .fill, false, .min⟩,
  ⟨0x029, .all, .int, .zero, .v, 1, 1, 2, .fill, false, .max⟩,
  ⟨0x02A, .all, .any, .zero, .v, 1, 1, 2, .fill, false, .and⟩,
  ⟨0x02B, .all, .any, .zero, .v, 1, 1, 2, .fill, false, .or⟩,
  ⟨0x02C, .all, .any, .zero, .v, 1, 1, 2, .fill, false, .xor⟩,
  ⟨0x02D, .all, .any, .zero, .v, 1, 1, 0, .zero, false, .not⟩,
  ⟨0x02E, .all, .any, .zero, .v, 1, 1, 2, .fill, false, .andn⟩,
  ⟨0x02F, .all, .int, .zero, .v, 1, 1, 2, .fill, false, .shl⟩,
  ⟨0x030, .all, .int, .zero, .v, 1, 1, 2, .fill, false, .shr⟩,
  ⟨0x031, .all, .int, .zero, .v, 1, 1, 2, .fill, false, .sra⟩,
  ⟨0x032, .all, .int, .zero, .v, 1, 1, 2, .fill, false, .rol⟩,
  ⟨0x033, .all, .int, .zero, .v, 1, 1, 2, .fill, false, .ror⟩,
  ⟨0x034, .all, .int, .zero, .v, 1, 1, 0, .zero, false, .clz⟩,
  ⟨0x035, .all, .int, .zero, .v, 1, 1, 0, .zero, false, .popc⟩,
  ⟨0x036, .all, .int, .zero, .v, 1, 1, 0, .zero, false, .brev⟩,
  ⟨0x037, .all, .int, .zero, .v, 1, 1, 2, .fill, false, .cmpeq⟩,
  ⟨0x038, .all, .int, .zero, .v, 1, 1, 2, .fill, false, .cmpne⟩,
  ⟨0x039, .all, .int, .zero, .v, 1, 1, 2, .fill, false, .cmplt⟩,
  ⟨0x03A, .all, .int, .zero, .v, 1, 1, 2, .fill, false, .cmple⟩,
  ⟨0x03B, .all, .int, .zero, .v, 1, 1, 2, .fill, false, .cmpgt⟩,
  ⟨0x03C, .all, .int, .zero, .v, 1, 1, 2, .fill, false, .cmpge⟩,
  ⟨0x03D, .all, .any, .zero, .v, 1, 11, 0, .zero, false, .sel⟩,
  ⟨0x03E, .all, .int, .sat, .v, 1, 3, 8, .fill, false, .imad⟩,
  ⟨0x03F, .all, .int, .zero, .v, 1, 1, 0, .ext, false, .sext⟩,
  ⟨0x040, .all, .int, .zero, .v, 1, 1, 0, .ext, false, .zext⟩,
  ⟨0x041, .all, .int, .zero, .v, 1, 1, 0, .field, false, .bfx⟩,
  ⟨0x042, .all, .int, .zero, .v, 1, 3, 0, .field, false, .bfi⟩,
  ⟨0x043, .all, (.two 0x16 0x1B), (.var 4), .v, 1, 3, 0, .zero, false, .lea⟩,
  ⟨0x044, .all, (.one 0x0A), .zero, .v, 1, 0, 0, .zero, false, .laneid⟩,
  ⟨0x045, .all, .any, .zero, .v, 1, 3, 0, .zero, false, .vmask⟩,
  ⟨0x046, .all, .int, (.var 2), .v, 1, 1, 0, .zero, false, .pfxsum⟩,
  ⟨0x047, .all, .int, (.var 2), .v, 1, 1, 0, .pfxpop, false, .pfxpop⟩,
  ⟨0x048, .all, .any, .zero, .v, 1, 3, 0, .zero, false, .shuf⟩,
  ⟨0x049, .all, .any, .zero, .v, 1, 1, 0, .low4, false, .lrot⟩,
  ⟨0x04A, .all, .any, .zero, .v, 1, 1, 0, .low4, false, .bcast⟩,
  ⟨0x04B, .all, .any, .zero, .v, 1, 3, 0, .zero, false, .compact⟩,
  ⟨0x04C, .all, .any, .zero, .v, 1, 3, 0, .zero, false, .expand⟩,
  ⟨0x04D, .all, .int, .zero, .v, 1, 1, 0, .zero, false, .redadd⟩,
  ⟨0x04E, .all, .int, .zero, .v, 1, 1, 0, .zero, false, .redmin⟩,
  ⟨0x04F, .all, .int, .zero, .v, 1, 1, 0, .zero, false, .redmax⟩,
  ⟨0x050, .all, .int, .zero, .v, 1, 1, 0, .zero, false, .redand⟩,
  ⟨0x051, .all, .int, .zero, .v, 1, 1, 0, .zero, false, .redor⟩,
  ⟨0x052, .all, .int, .zero, .v, 1, 1, 0, .zero, false, .redxor⟩,
  ⟨0x053, .all, .pred, .zero, .v, 1, 3, 0, .zero, false, .pand⟩,
  ⟨0x054, .all, .pred, .zero, .v, 1, 3, 0, .zero, false, .por⟩,
  ⟨0x055, .all, .pred, .zero, .v, 1, 3, 0, .zero, false, .pxor⟩,
  ⟨0x056, .all, .pred, .zero, .v, 1, 1, 0, .zero, false, .pnot⟩,
  ⟨0x057, .all, .pred, .zero, .v, 1, 1, 0, .zero, false, .pany⟩,
  ⟨0x058, .all, .pred, .zero, .v, 1, 1, 0, .zero, false, .pall⟩,
  ⟨0x059, .all, .int, .zero, .v, 1, 1, 2, .fill, false, .absd⟩,
  ⟨0x05A, .all, .int, .zero, .v, 1, 1, 2, .fill, false, .avg⟩,
  ⟨0x05B, .all, .int, .zero, .v, 1, 3, 8, .fill, false, .clamp⟩,
  ⟨0x05C, .all, (.one 0x0A), .sat, .v, 1, 3, 8, .fill, false, .dot4⟩,
  ⟨0x05D, .all, (.one 0x0A), .sat, .v, 1, 3, 8, .fill, false, .dot2⟩]

/-- R73, 05 R145-R165. -/
def rowsFloat : List OpRow := [
  ⟨0x080, .all, .float, .roundSat, .v, 1, 3, 0, .zero, false, .fadd⟩,
  ⟨0x081, .all, .float, .roundSat, .v, 1, 3, 0, .zero, false, .fsub⟩,
  ⟨0x082, .all, .float, .roundSat, .v, 1, 3, 0, .zero, false, .fmul⟩,
  ⟨0x083, .all, .float, .roundSat, .v, 1, 11, 0, .zero, false, .fma⟩,
  ⟨0x084, .all, .float, .roundSat, .v, 1, 11, 0, .zero, false, .fms⟩,
  ⟨0x085, .all, .float, .roundSat, .v, 1, 11, 0, .zero, false, .fnma⟩,
  ⟨0x086, .all, .float, .roundSat, .v, 1, 11, 0, .zero, false, .fnms⟩,
  ⟨0x087, .all, .float, .round, .v, 1, 3, 0, .zero, false, .fdiv⟩,
  ⟨0x088, .all, .float, .round, .v, 1, 1, 0, .zero, false, .fsqrt⟩,
  ⟨0x089, .all, .float, .round, .v, 1, 1, 0, .zero, false, .frcp⟩,
  ⟨0x08A, .all, .float, .round, .v, 1, 1, 0, .zero, false, .frsq⟩,
  ⟨0x08B, .all, .float, .zero, .v, 1, 3, 0, .zero, false, .fmin⟩,
  ⟨0x08C, .all, .float, .zero, .v, 1, 3, 0, .zero, false, .fmax⟩,
  ⟨0x08D, .all, .float, .zero, .v, 1, 1, 0, .zero, false, .fabs⟩,
  ⟨0x08E, .all, .float, .zero, .v, 1, 1, 0, .zero, false, .fneg⟩,
  ⟨0x08F, .all, .float, .zero, .v, 1, 3, 0, .zero, false, .fcmpeq⟩,
  ⟨0x090, .all, .float, .zero, .v, 1, 3, 0, .zero, false, .fcmplt⟩,
  ⟨0x091, .all, .float, .zero, .v, 1, 3, 0, .zero, false, .fcmple⟩,
  ⟨0x092, .all, .float, .zero, .v, 1, 3, 0, .zero, false, .fcmpun⟩,
  ⟨0x093, .all, .float, .zero, .v, 1, 1, 0, .zero, false, .fclass⟩,
  ⟨0x094, .all, .float, .roundSat, .v, 1, 3, 0, .zero, false, .fscale⟩,
  ⟨0x095, .all, .float, .zero, .v, 1, 1, 0, .zero, false, .fexp2⟩,
  ⟨0x096, .all, .float, .zero, .v, 1, 1, 0, .zero, false, .flog2⟩,
  ⟨0x097, .all, .float, .zero, .v, 1, 1, 0, .zero, false, .fsin⟩,
  ⟨0x098, .all, .float, .zero, .v, 1, 1, 0, .zero, false, .fcos⟩,
  ⟨0x099, .all, .float, .zero, .v, 1, 1, 0, .zero, false, .ftanh⟩,
  ⟨0x09A, .all, .float, .zero, .v, 1, 1, 0, .zero, false, .fsigm⟩,
  ⟨0x09B, .all, .float, .round, .v, 1, 1, 0, .zero, false, .fredadd⟩,
  ⟨0x09C, .all, .float, .round, .v, 1, 1, 0, .zero, false, .fredmax⟩,
  ⟨0x09D, .all, .float, .round, .v, 1, 1, 0, .zero, false, .fredmin⟩,
  ⟨0x09E, .plain, .float, .sat, .v, 2, 3, 0, .zero, false, .faddx⟩,
  ⟨0x09F, .plain, .float, .sat, .v, 2, 3, 0, .zero, false, .fsubx⟩,
  ⟨0x0A0, .plain, .float, .sat, .v, 2, 3, 0, .zero, false, .fmulx⟩,
  ⟨0x0A1, .plain, .fp32, .zero, .v, 2, 3, 0, .pair, false, .dwadd⟩,
  ⟨0x0A2, .plain, .fp32, .zero, .v, 2, 3, 0, .pair, false, .dwmul⟩,
  ⟨0x0A3, .plain, .fp32, .zero, .v, 2, 3, 0, .pair, false, .dwfma⟩,
  ⟨0x0A4, .plain, .fp32, .zero, .v, 2, 3, 0, .zero, false, .dwnorm⟩,
  ⟨0x0A5, .plain, .fp32, .zero, .v, 2, 3, 0, .zero, false, .dwred⟩,
  ⟨0x0A6, .all, .fp32, .round, .v, 1, 3, 0, .zero, false, .dwtof⟩,
  ⟨0x0A7, .all, .conv, .roundSat, .v, 1, 1, 0, .part, false, .fcvt⟩,
  ⟨0x0A8, .all, .toint, .round, .v, 1, 1, 0, .part, false, .ftoi⟩,
  ⟨0x0A9, .all, .conv, .round, .v, 1, 1, 0, .part, false, .itof⟩,
  ⟨0x0AA, .all, (.one 0x02), .zero, .v, 1, 3, 0, .part, false, .cbdec⟩,
  ⟨0x0AB, .all, .cb, .zero, .v, 1, 3, 0, .part, false, .cbenc⟩,
  ⟨0x0AC, .all, .any, .zero, .v, 1, 1, 0, .pack, false, .pack⟩,
  ⟨0x0AD, .all, .any, .zero, .v, 1, 1, 0, .pack, false, .unpack⟩,
  ⟨0x0AE, .all, .scl, .roundSat, .v, 1, 3, 0, .part, false, .bscl⟩,
  ⟨0x0AF, .all, .scl, (.var 2), .v, 1, 1, 0, .zero, false, .bscalc⟩,
  ⟨0x0B0, .plain, .none, .zero, .v, 0, 0, 1, .low3, false, .setmode⟩,
  ⟨0x0B1, .all, (.one 0x18), .zero, .v, 1, 0, 0, .zero, false, .getflags⟩,
  ⟨0x0B2, .plain, .none, .zero, .v, 0, 0, 1, .low23, false, .clrflags⟩,
  ⟨0x0B3, .all, .float, .round, .v, 1, 1, 0, .zero, false, .frnd⟩,
  ⟨0x0B4, .all, .float, .zero, .v, 1, 3, 0, .zero, false, .fcopysgn⟩,
  ⟨0x0B5, .all, .fp32, .round, .v, 1, 3, 8, .zero, false, .fdot2⟩,
  ⟨0x0B6, .all, (.one 0x18), .zero, .v, 1, 0, 0, .zero, false, .getmode⟩,
  ⟨0x0B7, .plain, .fp32, .zero, .v, 2, 3, 0, .pair, false, .dwsub⟩,
  ⟨0x0B8, .all, .float, .zero, .v, 1, 3, 0, .zero, false, .fcmpne⟩]

/-- R74, 06_arith_matrix.md. -/
def rowsMatrix : List OpRow := [
  ⟨0x0E0, .plain, .matrix, .zero, .m, 0, 1, 0, .zero, false, .mlds⟩,
  ⟨0x0E1, .plain, .none, .zero, .m, 0, 0, 0, .zero, false, .mswap⟩,
  ⟨0x0E2, .plain, .matrix, .zero, .m, 0, 1, 0, .mrow, false, .mrow⟩,
  ⟨0x0E3, .plain, .matrix, .zero, .m, 0, 1, 0, .mrowc, false, .mrowc⟩,
  ⟨0x0E4, .plain, .cb, (.var 2), .m, 0, 1, 0, .zero, false, .mcbl⟩,
  ⟨0x0E5, .plain, .fp32, .round, .v, 0, 1, 0, .tile, false, .acc⟩,
  ⟨0x0E6, .plain, .fp32, .round, .v, 0, 1, 0, .tile, false, .accn⟩,
  ⟨0x0E7, .plain, .none, .zero, .v, 0, 1, 0, .low3, false, .eor⟩,
  ⟨0x0E8, .plain, (.two 0x01 0x02), .roundSat, .v, 0, 1, 0, .tileRel, false, .accrel⟩,
  ⟨0x0E9, .plain, .any, .zero, .m, 0, 1, 0, .zero, false, .route⟩,
  ⟨0x0EA, .all, (.one 0x18), (.var 4), .m, 1, 0, 0, .zero, false, .mstat⟩,
  ⟨0x0EB, .plain, .none, .zero, .m, 0, 0, 0, .zero, false, .mclr⟩,
  ⟨0x0EC, .all, .fp32, .zero, .v, 1, 1, 0, .tile, false, .accrd⟩,
  ⟨0x0ED, .plain, .none, .zero, .m, 0, 1, 0, .zero, false, .rtset⟩]

/-- R75, 10_order_instructions.md. -/
def rowsMemory : List OpRow := [
  ⟨0x100, .all, .mem, .order, .v, 1, 1, 10, .memOff, true, .ld⟩,
  ⟨0x101, .plain, .mem, .order, .v, 0, 3, 8, .memOff, true, .st⟩,
  ⟨0x102, .plain, .mem, .order, .v, 0, 11, 0, .memOff, true, .stm⟩,
  ⟨0x103, .all, .mem, .zero, .v, 1, 9, 0, .memOff, true, .lds⟩,
  ⟨0x104, .plain, .mem, .zero, .v, 0, 11, 0, .memOff, true, .sts⟩,
  ⟨0x105, .all, .mem, .zero, .v, 1, 3, 0, .memBare, true, .ldg⟩,
  ⟨0x106, .plain, .mem, .zero, .v, 0, 11, 0, .memBare, true, .stsc⟩,
  ⟨0x107, .plain, .none, (.var 2), .v, 0, 1, 8, .memOff, true, .pref⟩,
  ⟨0x108, .all, .atomic, .order, .v, 1, 3, 0, .memLvl, true, .aadd⟩,
  ⟨0x109, .all, .atomic, .order, .v, 1, 3, 0, .memLvl, true, .amin⟩,
  ⟨0x10A, .all, .atomic, .order, .v, 1, 3, 0, .memLvl, true, .amax⟩,
  ⟨0x10B, .all, .atomic, .order, .v, 1, 3, 0, .memLvl, true, .aand⟩,
  ⟨0x10C, .all, .atomic, .order, .v, 1, 3, 0, .memLvl, true, .aor⟩,
  ⟨0x10D, .all, .atomic, .order, .v, 1, 3, 0, .memLvl, true, .axor⟩,
  ⟨0x10E, .all, .atomic, .order, .v, 1, 3, 0, .memLvl, true, .axchg⟩,
  ⟨0x10F, .all, .atomic, .order, .v, 1, 11, 0, .memLvl, true, .acas⟩,
  ⟨0x110, .all, .atomic, .order, .v, 1, 1, 0, .memLvl, true, .atas⟩,
  ⟨0x111, .all, .float, .order, .v, 1, 3, 0, .memLvl, true, .afadd⟩,
  ⟨0x112, .all, .atomic, .order, .v, 1, 1, 0, .memLvl, true, .ainc⟩,
  ⟨0x113, .plain, .none, .order, .v, 0, 0, 0, .memLvl, true, .fence⟩,
  ⟨0x114, .plain, .none, .zero, .v, 0, 0, 0, .memScope, true, .acq⟩,
  ⟨0x115, .plain, .none, .zero, .v, 0, 0, 0, .memScope, true, .rel⟩,
  ⟨0x116, .plain, .none, .zero, .v, 0, 0, 0, .mem5, true, .bktake⟩,
  ⟨0x117, .plain, .none, .zero, .v, 0, 0, 0, .mem5, true, .bkgive⟩,
  ⟨0x118, .plain, .none, .zero, .v, 0, 0, 0, .mem4, true, .tfpush⟩,
  ⟨0x119, .plain, .none, .zero, .v, 0, 0, 0, .mem4, true, .tfpop⟩,
  ⟨0x11A, .plain, .none, .zero, .v, 0, 1, 0, .mem2, true, .chapp⟩,
  ⟨0x11B, .plain, .none, .zero, .v, 0, 0, 0, .mem2, true, .chtail⟩,
  ⟨0x11C, .all, (.one 0x16), .zero, .v, 1, 0, 0, .mem2, true, .chseq⟩,
  ⟨0x11D, .all, .atomic, .order, .v, 1, 1, 0, .memLvl, true, .adec⟩,
  ⟨0x11E, .all, .mem, .zero, .v, 1, 1, 10, .memOff, true, .ldnt⟩,
  ⟨0x11F, .plain, .mem, .zero, .v, 0, 3, 8, .memOff, true, .stnt⟩,
  ⟨0x120, .all, .cbany, .zero, .v, 1, 1, 8, .memOff, true, .ldb⟩,
  ⟨0x121, .all, .float, .order, .v, 1, 3, 0, .memLvl, true, .afmin⟩,
  ⟨0x122, .all, .float, .order, .v, 1, 3, 0, .memLvl, true, .afmax⟩]

/-- R76, 07_arith_streams.md. -/
def rowsStream : List OpRow := [
  ⟨0x140, .plain, .mem, .zero, .v, 0, 3, 0, .port, false, .sset⟩,
  ⟨0x141, .plain, .mem, .zero, .v, 0, 3, 0, .port, false, .sidx⟩,
  ⟨0x142, .all, .any, .zero, .v, 1, 0, 0, .port, false, .spop⟩,
  ⟨0x143, .plain, .any, .zero, .v, 0, 1, 0, .port, false, .spush⟩,
  ⟨0x144, .all, .kv, .zero, .v, 1, 3, 0, .zero, false, .sint⟩,
  ⟨0x145, .all, .kv, .zero, .v, 1, 3, 0, .zero, false, .suni⟩,
  ⟨0x146, .all, .kv, .zero, .v, 1, 3, 0, .zero, false, .ssub⟩,
  ⟨0x147, .all, .kv, .round, .v, 1, 3, 0, .zero, false, .smadd⟩,
  ⟨0x148, .all, .bitmap, .zero, .v, 1, 3, 0, .zero, false, .bmand⟩,
  ⟨0x149, .all, (.one 0x0A), .zero, .v, 1, 11, 0, .low5, false, .bmpfx⟩,
  ⟨0x14A, .all, .kv, .zero, .v, 1, 3, 0, .hash, true, .hprobe⟩,
  ⟨0x14B, .all, .kv, .zero, .v, 1, 3, 0, .hash, true, .hins⟩,
  ⟨0x14C, .plain, .none, .zero, .v, 0, 1, 0, .memBare, true, .contract⟩,
  ⟨0x14D, .all, (.one 0x18), (.var 4), .v, 1, 0, 0, .port, false, .sstat⟩]

/-- R77, 13_progress_watch.md R369. -/
def rowsCollective : List OpRow := [
  ⟨0x160, .all, (.one 0x18), .zero, .v, 1, 1, 0, .low12, false, .clnum⟩,
  ⟨0x161, .plain, .none, .zero, .v, 0, 1, 0, .zero, false, .clpost⟩,
  ⟨0x162, .plain, .none, .zero, .v, 0, 1, 0, .zero, false, .clcancel⟩,
  ⟨0x163, .all, (.one 0x18), .zero, .v, 1, 1, 0, .zero, false, .clstat⟩,
  ⟨0x164, .plain, .none, .zero, .v, 0, 1, 0, .low12, false, .cljoin⟩,
  ⟨0x165, .plain, .none, .zero, .v, 0, 0, 0, .low12, false, .clleave⟩,
  ⟨0x166, .all, (.one 0x18), .zero, .v, 1, 0, 0, .query, false, .clquery⟩]

/-- R78, 12 R334, 13 R352. -/
def rowsScheduling : List OpRow := [
  ⟨0x170, .all, (.one 0x18), .zero, .v, 1, 0, 0, .zero, false, .grpid⟩,
  ⟨0x171, .all, (.one 0x18), .zero, .v, 1, 0, 0, .role, false, .role⟩,
  ⟨0x172, .plain, .none, .zero, .v, 0, 1, 0, .spawn, false, .spawn⟩,
  ⟨0x173, .plain, .none, .zero, .v, 0, 0, 0, .tear, false, .tear⟩,
  ⟨0x174, .all, (.one 0x16), .zero, .v, 1, 0, 0, .zero, false, .bal⟩,
  ⟨0x175, .all, (.one 0x16), .zero, .both, 1, 0, 0, .zero, false, .time⟩,
  ⟨0x176, .all, (.one 0x16), .zero, .both, 1, 0, 0, .zero, false, .firecnt⟩,
  ⟨0x177, .plain, .none, .zero, .both, 0, 0, 1, .event, false, .evt⟩,
  ⟨0x178, .all, (.one 0x18), .zero, .v, 1, 0, 0, .zero, false, .svcl⟩,
  ⟨0x179, .plain, .none, .zero, .v, 0, 0, 0, .zero, false, .yield⟩,
  ⟨0x17A, .plain, .none, (.var 2), .v, 0, 0, 0, .zero, false, .prio⟩,
  ⟨0x17B, .all, (.one 0x18), .zero, .v, 1, 0, 0, .zero, false, .ctxid⟩]

/-- R79, 15_isolation.md R397. -/
def rowsPointer : List OpRow := [
  ⟨0x190, .all, .ptr, .zero, .v, 1, 1, 2, .free, false, .psetb⟩,
  ⟨0x191, .all, .ptr, .zero, .v, 1, 1, 2, .low4, false, .psetp⟩,
  ⟨0x192, .all, .ptr, .zero, .v, 1, 1, 2, .free, false, .padd⟩,
  ⟨0x193, .all, .ptr, (.var 4), .v, 1, 1, 2, .free, false, .pchk⟩,
  ⟨0x194, .all, (.one 0x16), (.var 4), .v, 1, 1, 0, .zero, false, .pget⟩,
  ⟨0x195, .all, .ptr, .zero, .v, 1, 1, 0, .seal, false, .pseal⟩,
  ⟨0x196, .all, .ptr, .zero, .v, 1, 1, 0, .seal, false, .punseal⟩,
  ⟨0x197, .never, .ptr, .zero, .v, 1, 11, 0, .zero, false, .pmint⟩]

/-- R80, 16_recovery.md R433. -/
def rowsRecovery : List OpRow := [
  ⟨0x1A0, .plain, .none, .zero, .both, 0, 0, 0, .zero, false, .mark⟩,
  ⟨0x1A1, .plain, .none, .zero, .both, 0, 0, 0, .low16, false, .trap⟩,
  ⟨0x1A2, .plain, .none, .zero, .both, 0, 0, 0, .low16, false, .brk⟩,
  ⟨0x1A3, .plain, .none, (.var 2), .both, 0, 0, 0, .low8, false, .sluice⟩,
  ⟨0x1A4, .plain, .none, .zero, .v, 0, 0, 0, .port, false, .replay⟩,
  ⟨0x1A5, .plain, .none, (.var 3), .v, 0, 0, 0, .zero, false, .guard⟩,
  ⟨0x1A6, .all, (.one 0x18), .zero, .both, 1, 0, 0, .zero, false, .cutstat⟩,
  ⟨0x1A7, .all, (.one 0x18), .zero, .v, 1, 0, 0, .zero, false, .resumeq⟩]

/-- The 235 assigned opcodes, in rising order. -/
def opRows : List OpRow :=
  rowsDataflow ++ rowsInteger ++ rowsFloat ++ rowsMatrix ++ rowsMemory ++ rowsStream ++ rowsCollective
    ++ rowsScheduling ++ rowsPointer ++ rowsRecovery

def findRow : List OpRow → Nat → Option OpRow
  | [], _ => none
  | r :: rs, c => if r.code = c then some r else findRow rs c

/-- The rows of the opcode's group (the groups of R71-R80 lie in disjoint ranges of codes). -/
def rowsFor (code : Nat) : List OpRow :=
  if code < 0x020 then rowsDataflow
  else if code < 0x080 then rowsInteger
  else if code < 0x0E0 then rowsFloat
  else if code < 0x100 then rowsMatrix
  else if code < 0x140 then rowsMemory
  else if code < 0x160 then rowsStream
  else if code < 0x170 then rowsCollective
  else if code < 0x190 then rowsScheduling
  else if code < 0x1A0 then rowsPointer
  else rowsRecovery

/-- The row of an opcode; none where it is unassigned (R81). -/
def rowOf (code : Nat) : Option OpRow := findRow (rowsFor code) code

/-- The opcode and the fields of an instruction; an event of the part has none. -/
def opcodeOf : Instr → Option (Nat × Fields)
  | .arbiterChoice => none
  | .blockRetire => none
  | .tokenAccept => none
  | .spillwayPass => none
  | .replaySend => none
  | .rowChainTake => none
  | .rowOutputSend => none
  | .releaseQueueSend => none
  | .streamCommandAccept => none
  | .streamReadTokenSend => none
  | .indirectStreamGather => none
  | .streamPushTake => none
  | .coiterationStep => none
  | .streamSlotTeardown => none
  | .homeAccessApply => none
  | .atomicApply => none
  | .releaseComplete => none
  | .remoteOutboundSend => none
  | .translationWalk => none
  | .chainJobIssue => none
  | .engineJobComplete => none
  | .fifoPendingPush => none
  | .collectiveAnnounce => none
  | .collectiveGo => none
  | .collectiveExecute => none
  | .collectiveFinish => none
  | .collectiveCancelNotice => none
  | .seqNumberRequest => none
  | .seqJoinRequest => none
  | .seqLeaveRequest => none
  | .seqCancelRequest => none
  | .seqPostNotice => none
  | .seqQueryRequest => none
  | .standbyTakeover => none
  | .takeoverNotice => none
  | .memberUnreachable => none
  | .reachLinkFail => none
  | .flitCrcRetry => none
  | .ucieModuleExclude => none
  | .contextSilent => none
  | .pageSilent => none
  | .balancerInterval => none
  | .replicaParked => none
  | .taskDrain => none
  | .spawnArrive => none
  | .pageReturn => none
  | .instanceEnd => none
  | .endRecordWrite => none
  | .uncorrectableError => none
  | .faultyPageRelocate => none
  | .rollback => none
  | .cutOrder => none
  | .pageCutSave => none
  | .cutComplete => none
  | .freezeComplete => none
  | .trapRecordWrite => none
  | .invalidationComplete => none
  | .mbCreateContext => none
  | .mbEndContext => none
  | .mbLaunch => none
  | .mbEndInstance => none
  | .mbTrapRetry => none
  | .mbTrapContinue => none
  | .mbTrapRollback => none
  | .mbTrapEnd => none
  | .mbInvalidateTranslation => none
  | .mbSluiceArm => none
  | .mbSluiceOpen => none
  | .mbFreeze => none
  | .mbResume => none
  | .mbCut => none
  | .mbSetTime => none
  | .mbSequencerDesignate => none
  | .mbSequencerTakeover => none
  | .mbAddImageKey => none
  | .mbFullService => none
  | .notifyClear => none
  | .endRingReadIndexWrite => none
  | .contextRingReadIndexWrite => none
  | .pwrcapWrite => none
  | .scheduleEntryCommit => none
  | .scheduleEntryDue => none
  | .powerCapControl => none
  | .diepwrFull => none
  | .diepwrBalanced => none
  | .diepwrNearThreshold => none
  | .diepwrGate => none
  | .diepwrRefClear => none
  | .diepwrChangeDone => none
  | .registerWrite => none
  | .hostMemoryAccess => none
  | .packageReset => none
  | .frameSelfTestDone => none
  | .bootStageVerify => none
  | .firmwareUpdate => none
  | .rdp f => some (0x001, f)
  | .rds f => some (0x002, f)
  | .rdk f => some (0x003, f)
  | .imm f => some (0x004, f)
  | .wrp f => some (0x005, f)
  | .wrs f => some (0x006, f)
  | .sendt f => some (0x007, f)
  | .mov f => some (0x008, f)
  | .exit f => some (0x009, f)
  | .steer f => some (0x00A, f)
  | .steerl f => some (0x00B, f)
  | .merge f => some (0x00C, f)
  | .carry f => some (0x00D, f)
  | .invar f => some (0x00E, f)
  | .nullt f => some (0x00F, f)
  | .settag f => some (0x010, f)
  | .sbget f => some (0x011, f)
  | .nop f => some (0x012, f)
  | .add f => some (0x020, f)
  | .sub f => some (0x021, f)
  | .mul f => some (0x022, f)
  | .mulh f => some (0x023, f)
  | .div f => some (0x024, f)
  | .rem f => some (0x025, f)
  | .neg f => some (0x026, f)
  | .abs f => some (0x027, f)
  | .min f => some (0x028, f)
  | .max f => some (0x029, f)
  | .and f => some (0x02A, f)
  | .or f => some (0x02B, f)
  | .xor f => some (0x02C, f)
  | .not f => some (0x02D, f)
  | .andn f => some (0x02E, f)
  | .shl f => some (0x02F, f)
  | .shr f => some (0x030, f)
  | .sra f => some (0x031, f)
  | .rol f => some (0x032, f)
  | .ror f => some (0x033, f)
  | .clz f => some (0x034, f)
  | .popc f => some (0x035, f)
  | .brev f => some (0x036, f)
  | .cmpeq f => some (0x037, f)
  | .cmpne f => some (0x038, f)
  | .cmplt f => some (0x039, f)
  | .cmple f => some (0x03A, f)
  | .cmpgt f => some (0x03B, f)
  | .cmpge f => some (0x03C, f)
  | .sel f => some (0x03D, f)
  | .imad f => some (0x03E, f)
  | .sext f => some (0x03F, f)
  | .zext f => some (0x040, f)
  | .bfx f => some (0x041, f)
  | .bfi f => some (0x042, f)
  | .lea f => some (0x043, f)
  | .laneid f => some (0x044, f)
  | .vmask f => some (0x045, f)
  | .pfxsum f => some (0x046, f)
  | .pfxpop f => some (0x047, f)
  | .shuf f => some (0x048, f)
  | .lrot f => some (0x049, f)
  | .bcast f => some (0x04A, f)
  | .compact f => some (0x04B, f)
  | .expand f => some (0x04C, f)
  | .redadd f => some (0x04D, f)
  | .redmin f => some (0x04E, f)
  | .redmax f => some (0x04F, f)
  | .redand f => some (0x050, f)
  | .redor f => some (0x051, f)
  | .redxor f => some (0x052, f)
  | .pand f => some (0x053, f)
  | .por f => some (0x054, f)
  | .pxor f => some (0x055, f)
  | .pnot f => some (0x056, f)
  | .pany f => some (0x057, f)
  | .pall f => some (0x058, f)
  | .absd f => some (0x059, f)
  | .avg f => some (0x05A, f)
  | .clamp f => some (0x05B, f)
  | .dot4 f => some (0x05C, f)
  | .dot2 f => some (0x05D, f)
  | .fadd f => some (0x080, f)
  | .fsub f => some (0x081, f)
  | .fmul f => some (0x082, f)
  | .fma f => some (0x083, f)
  | .fms f => some (0x084, f)
  | .fnma f => some (0x085, f)
  | .fnms f => some (0x086, f)
  | .fdiv f => some (0x087, f)
  | .fsqrt f => some (0x088, f)
  | .frcp f => some (0x089, f)
  | .frsq f => some (0x08A, f)
  | .fmin f => some (0x08B, f)
  | .fmax f => some (0x08C, f)
  | .fabs f => some (0x08D, f)
  | .fneg f => some (0x08E, f)
  | .fcmpeq f => some (0x08F, f)
  | .fcmplt f => some (0x090, f)
  | .fcmple f => some (0x091, f)
  | .fcmpun f => some (0x092, f)
  | .fclass f => some (0x093, f)
  | .fscale f => some (0x094, f)
  | .fexp2 f => some (0x095, f)
  | .flog2 f => some (0x096, f)
  | .fsin f => some (0x097, f)
  | .fcos f => some (0x098, f)
  | .ftanh f => some (0x099, f)
  | .fsigm f => some (0x09A, f)
  | .fredadd f => some (0x09B, f)
  | .fredmax f => some (0x09C, f)
  | .fredmin f => some (0x09D, f)
  | .faddx f => some (0x09E, f)
  | .fsubx f => some (0x09F, f)
  | .fmulx f => some (0x0A0, f)
  | .dwadd f => some (0x0A1, f)
  | .dwsub f => some (0x0B7, f)
  | .dwmul f => some (0x0A2, f)
  | .dwfma f => some (0x0A3, f)
  | .dwnorm f => some (0x0A4, f)
  | .dwred f => some (0x0A5, f)
  | .dwtof f => some (0x0A6, f)
  | .fcvt f => some (0x0A7, f)
  | .ftoi f => some (0x0A8, f)
  | .itof f => some (0x0A9, f)
  | .cbdec f => some (0x0AA, f)
  | .cbenc f => some (0x0AB, f)
  | .pack f => some (0x0AC, f)
  | .unpack f => some (0x0AD, f)
  | .bscl f => some (0x0AE, f)
  | .bscalc f => some (0x0AF, f)
  | .setmode f => some (0x0B0, f)
  | .getflags f => some (0x0B1, f)
  | .clrflags f => some (0x0B2, f)
  | .frnd f => some (0x0B3, f)
  | .fcopysgn f => some (0x0B4, f)
  | .fdot2 f => some (0x0B5, f)
  | .getmode f => some (0x0B6, f)
  | .fcmpne f => some (0x0B8, f)
  | .mlds f => some (0x0E0, f)
  | .mswap f => some (0x0E1, f)
  | .mrow f => some (0x0E2, f)
  | .mrowc f => some (0x0E3, f)
  | .mcbl f => some (0x0E4, f)
  | .acc f => some (0x0E5, f)
  | .accn f => some (0x0E6, f)
  | .eor f => some (0x0E7, f)
  | .accrel f => some (0x0E8, f)
  | .route f => some (0x0E9, f)
  | .mstat f => some (0x0EA, f)
  | .mclr f => some (0x0EB, f)
  | .accrd f => some (0x0EC, f)
  | .rtset f => some (0x0ED, f)
  | .ld f => some (0x100, f)
  | .st f => some (0x101, f)
  | .stm f => some (0x102, f)
  | .lds f => some (0x103, f)
  | .sts f => some (0x104, f)
  | .ldg f => some (0x105, f)
  | .stsc f => some (0x106, f)
  | .pref f => some (0x107, f)
  | .aadd f => some (0x108, f)
  | .amin f => some (0x109, f)
  | .amax f => some (0x10A, f)
  | .aand f => some (0x10B, f)
  | .aor f => some (0x10C, f)
  | .axor f => some (0x10D, f)
  | .axchg f => some (0x10E, f)
  | .acas f => some (0x10F, f)
  | .atas f => some (0x110, f)
  | .afadd f => some (0x111, f)
  | .ainc f => some (0x112, f)
  | .fence f => some (0x113, f)
  | .acq f => some (0x114, f)
  | .rel f => some (0x115, f)
  | .bktake f => some (0x116, f)
  | .bkgive f => some (0x117, f)
  | .tfpush f => some (0x118, f)
  | .tfpop f => some (0x119, f)
  | .chapp f => some (0x11A, f)
  | .chtail f => some (0x11B, f)
  | .chseq f => some (0x11C, f)
  | .adec f => some (0x11D, f)
  | .ldnt f => some (0x11E, f)
  | .stnt f => some (0x11F, f)
  | .ldb f => some (0x120, f)
  | .afmin f => some (0x121, f)
  | .afmax f => some (0x122, f)
  | .sset f => some (0x140, f)
  | .sidx f => some (0x141, f)
  | .spop f => some (0x142, f)
  | .spush f => some (0x143, f)
  | .sint f => some (0x144, f)
  | .suni f => some (0x145, f)
  | .ssub f => some (0x146, f)
  | .smadd f => some (0x147, f)
  | .bmand f => some (0x148, f)
  | .bmpfx f => some (0x149, f)
  | .hprobe f => some (0x14A, f)
  | .hins f => some (0x14B, f)
  | .contract f => some (0x14C, f)
  | .sstat f => some (0x14D, f)
  | .clnum f => some (0x160, f)
  | .clpost f => some (0x161, f)
  | .clcancel f => some (0x162, f)
  | .clstat f => some (0x163, f)
  | .cljoin f => some (0x164, f)
  | .clleave f => some (0x165, f)
  | .clquery f => some (0x166, f)
  | .grpid f => some (0x170, f)
  | .role f => some (0x171, f)
  | .spawn f => some (0x172, f)
  | .tear f => some (0x173, f)
  | .bal f => some (0x174, f)
  | .time f => some (0x175, f)
  | .firecnt f => some (0x176, f)
  | .evt f => some (0x177, f)
  | .svcl f => some (0x178, f)
  | .yield f => some (0x179, f)
  | .prio f => some (0x17A, f)
  | .ctxid f => some (0x17B, f)
  | .psetb f => some (0x190, f)
  | .psetp f => some (0x191, f)
  | .padd f => some (0x192, f)
  | .pchk f => some (0x193, f)
  | .pget f => some (0x194, f)
  | .pseal f => some (0x195, f)
  | .punseal f => some (0x196, f)
  | .pmint f => some (0x197, f)
  | .mark f => some (0x1A0, f)
  | .trap f => some (0x1A1, f)
  | .brk f => some (0x1A2, f)
  | .sluice f => some (0x1A3, f)
  | .replay f => some (0x1A4, f)
  | .guard f => some (0x1A5, f)
  | .cutstat f => some (0x1A6, f)
  | .resumeq f => some (0x1A7, f)
  | .sequencerFailNoStandby => none
  | .frameScrubComplete => none

/-! ### The classes (R67-R69) -/

def prOk : PrClass → BitVec 3 → Bool
  | .all, p => decide (p.toNat ≤ 3)
  | .plain, p => decide (p.toNat ≤ 2)
  | .steer, p => p == 3
  | .never, p => p == 0

/-- The twenty matrix operand formats (02 R36). -/
def isMatrixFmt (f : Fmt) : Bool :=
  decide (1 ≤ f.toNat ∧ f.toNat ≤ 9 ∨ 0x0B ≤ f.toNat ∧ f.toNat ≤ 0x14) || f == 0x17

def isConv (f : Fmt) : Bool :=
  decide (1 ≤ f.toNat ∧ f.toNat ≤ 9 ∨ 0x10 ≤ f.toNat ∧ f.toNat ≤ 0x13) || f == 0x17

def isIntFmt (f : Fmt) : Bool :=
  decide (0x0A ≤ f.toNat ∧ f.toNat ≤ 0x0F) || f == 0x16 || f == 0x18

def isFloat3 (f : Fmt) : Bool := decide (1 ≤ f.toNat ∧ f.toNat ≤ 3)

def ftOk : FtClass → Fmt → Bool
  | .none, f => f == 0
  | .any, f => decide (f.toNat ≤ 0x1B) || f == 0x1F
  | .mem, f => decide (f.toNat ≤ 0x14 ∨ 0x16 ≤ f.toNat ∧ f.toNat ≤ 0x1B) || f == 0x1F
  | .float, f => isFloat3 f || f == 0x1F
  | .fp32, f => f == 1
  | .int, f => isIntFmt f || f == 0x1F
  | .atomic, f => f == 0x0A || f == 0x16 || f == 0x18
  | .conv, f => isConv f
  | .scl, f => isConv f || f == 0x14
  | .toint, f => isIntFmt f || f == 0x14
  | .matrix, f => isMatrixFmt f
  | .cb, f => f == 0x09 || f == 0x13
  | .cbany, f => f == 0x09 || f == 0x13 || f == 0x1F
  | .pred, f => f == 0x15
  | .kv, f => f == 0x19
  | .bitmap, f => f == 0x1A
  | .ptr, f => f == 0x1B
  | .one c, f => f == c
  | .two c d, f => f == c || f == d

def modOk : ModClass → BitVec 3 → Bool
  | .zero, m => m == 0
  | .round, m => decide (m.toNat ≤ 4)
  | .roundSat, m => decide (m.toNat ≤ 6)
  | .sat, m => decide (m.toNat ≤ 1)
  | .order, m => decide (m.toNat ≤ 3)
  | .var n, m => decide (m.toNat < n)

/-- Bits [hi:lo] of a word, as a number. -/
def bits (w hi lo : Nat) : Nat := w / 2 ^ lo % 2 ^ (hi + 1 - lo)

/-- The width in bits of an element of a format (R36, 04_arith_formats.md R95). -/
def fmtWidth (f : Fmt) : Nat :=
  match f.toNat with
  | 0x02 | 0x03 | 0x0B => 16
  | 0x04 | 0x05 | 0x0C | 0x0D | 0x10 | 0x11 | 0x14 => 8
  | 0x06 | 0x07 | 0x17 => 6
  | 0x08 | 0x09 | 0x0E | 0x0F | 0x12 | 0x13 => 4
  | 0x16 | 0x1B => 64
  | _ => 32

/-- Sub-elements per lane (R36); a BITMAP lane holds 32 single bits, and the two-lane formats count 1. -/
def perLane (f : Fmt) : Nat :=
  match f.toNat with
  | 0x02 | 0x03 | 0x0B => 2
  | 0x04 | 0x05 | 0x0C | 0x0D | 0x10 | 0x11 | 0x14 => 4
  | 0x06 | 0x07 | 0x17 => 5
  | 0x08 | 0x09 | 0x0E | 0x0F | 0x12 | 0x13 => 8
  | 0x1A => 32
  | _ => 1

/-- The formats whose immediate is sign-extended (05 R119). -/
def signedFmt (f : Fmt) : Bool :=
  f == 0x0A || f == 0x0B || f == 0x0C || f == 0x0E || f == 0x14 || f == 0x16

/-- The width of one sub-element (R36): 1 for BITMAP, whose lane holds 32 single bits. -/
def denseWidth (f : Fmt) : Nat := if f == Fmt.bitmap then 1 else fmtWidth f

/-- R119: an immediate fits the element of its format; beside a slot that a producer names it is zero, and a PTR operand is
never filled. -/
def fillFits (f : Fmt) (imm : BitVec 24) : Bool :=
  let w := denseWidth f
  if f == 0x1B then imm == 0
  else if w ≥ 32 ∨ f == 0x1F then true
  else if signedFmt f then decide (-(2 ^ (w - 1) : Int) ≤ imm.toInt ∧ imm.toInt < 2 ^ (w - 1))
  else decide (imm.toNat < 2 ^ w)

/-- R261: with `MOD` 0b000 the level field is 0; `PREF` has none (10 R279). -/
def lvlOk (f : Fields) : Bool := f.mod != 0 || bits f.imm.toNat 2 0 == 0

/-- Check 6 of R84, as far as the word alone decides it: reserved bits of `IMM` zero and operands in range. -/
def layoutOk (l : Layout) (code : Nat) (f : Fields) : Bool :=
  let i := f.imm.toNat
  let wOf := fmtWidth f.ft
  match l with
  | .zero => i == 0
  | .free => true
  | .port => decide (i < 8)
  | .state => decide (i < 16)
  | .pair => decide (i < 16) && i % 2 == 0
  | .konst => decide (i < 16) && f.ft != 0x1B
  | .exit => decide (i < 4)
  | .low3 => decide (i < 8)
  | .low4 => decide (i < 16)
  | .low5 => decide (i < 32)
  | .low8 => decide (i < 256)
  | .low12 => decide (i < 4096)
  | .low16 => decide (i < 65536)
  | .low23 => decide (i < 2 ^ 23)
  | .immOp => if f.mod == 1 then (f.ft == 0x0A || f.ft == 0x18 || f.ft == 0x1F) && decide (i < 65536)
              else f.ft != 0x1B && fillFits f.ft f.imm
  | .fill => fillFits f.ft f.imm
  | .ext => f.ft != 0x1F && decide (i < wOf)
  | .field => f.ft != 0x1F && decide (i < 2 ^ 13) && decide (bits i 5 0 + bits i 12 6 + 1 ≤ wOf)
  | .pfxpop => (f.ft == 0x0A || f.ft == 0x18) && i == 0
  | .part => decide (i < 8) && (if code == 0x0AA then decide (i < 4) else true)
      && (if code == 0x0A8 && f.ft == 0x16 then decide (i < 2) else true)
  | .pack => decide (i < 32) && f.ft != 0x16 && f.ft != 0x1B && (f.ft == 0x1F || decide (i < perLane f.ft))
  | .mrow => decide (i < 16) && (bits i 3 3 == 0 || bits i 2 0 == 0)
  | .mrowc => decide (i < 128) && (bits i 3 3 == 0 || bits i 2 0 == 0)
  | .tile => decide (i < 256) && decide (bits i 3 0 + bits i 7 4 + 1 ≤ 16)
  | .tileRel => decide (i < 4096) && decide (bits i 3 0 + bits i 7 4 + 1 ≤ 16)
      && (f.ft != 0x02 || bits i 7 4 % 2 == 1)
  | .memOff => bits i 5 3 == 0 && (if code == 0x107 then bits i 2 0 == 0 else lvlOk f)
  | .memBare => bits i 18 0 == 0
  | .memLvl => bits i 18 3 == 0 && lvlOk f
  | .memScope => bits i 18 3 == 0
  | .mem5 => bits i 18 5 == 0
  | .mem4 => bits i 18 4 == 0
  | .mem2 => bits i 18 2 == 0
  | .hash => bits i 18 4 == 0 && decide (bits i 3 0 ≤ 12)
  | .query => bits i 21 12 == 0
  | .role => bits i 21 20 == 0 && bits i 1 0 == 0 && (decide (bits i 23 22 ≤ 1) || bits i 19 2 == 0)
  | .spawn => bits i 2 0 == 0
  | .tear => decide (0 < i ∧ i < 256)
  | .event => decide (i ≤ 0xEFFF)
  | .seal => decide (0 < i ∧ i < 256)

/-- The slots that an instruction uses: those it requires and those it may do without (R118 and the
descriptions; a codebook slot is used exactly where `FT` is CB4 or CB4S, R160-R162; slot A of `IMM` under `.HI`). -/
def slotUse (r : OpRow) (f : Fields) : Nat × Nat :=
  let cb := f.ft == 0x09 || f.ft == 0x13
  if r.code == 0x004 then (if f.mod == 1 then 1 else 0, 0)
  else if r.code == 0x0A7 || r.code == 0x0A9 || r.code == 0x0AF then (if cb then 3 else 1, 0)
  else if r.code == 0x0AE then (if cb then 11 else 3, 0)
  else (r.req, r.opt)

/-- Checks 3 to 6 of R84 on the fields of an assigned opcode: the number of the first that fails, 0 for none. -/
def fieldCheck (r : OpRow) (f : Fields) : Nat :=
  if !prOk r.pr f.pr then 3
  else if !ftOk r.ft f.ft then 4
  else if !modOk r.md f.mod then 5
  else if !layoutOk r.layout r.code f then 6
  else 0

end Sys2Proof.Machine
end

