-- ==== Sys2Proof/WellFormed.lean ====
section
/-! DEFINITION. Well-formed instructions: those whose fields lie in their opcode's classes
(03_opcode_map.md R66 items 3 to 6, checks 3 to 6 of R84).  Targets, slots, memory-order indices and header
masks are conditions on a whole block: Sys2Proof/Machine/Blocks.lean. -/

namespace Sys2Proof

/-- An instruction's fields meet the checks that its word alone decides; an event of the part has no word. -/
def wellFormed (i : Instr) : Bool :=
  match Machine.opcodeOf i with
  | none => true
  | some (c, f) =>
    match Machine.rowOf c with
    | none => false
    | some r => Machine.fieldCheck r f == 0

end Sys2Proof
end

