-- ==== Sys2Proof/Decode.lean ====
section
/-! DEFINITION. Decoding and encoding the 64-bit instruction word (02_encoding.md R51, 03_opcode_map.md R84). -/

namespace Sys2Proof

/-- Why a word is no legal instruction, by the check of R84 that it fails first. -/
inductive Reject where
  /-- Check 1: the opcode is unassigned (R81). -/
  | opcode
  /-- Check 3: `PR` is not in the opcode's class (R67). -/
  | pr
  /-- Check 4: `FT` is not in the opcode's class (R68). -/
  | ft
  /-- Check 5: `MOD` is not in the opcode's class (R69). -/
  | modifier
  /-- Check 6: a reserved bit of `IMM` is set or an operand is out of range (R56). -/
  | imm
  deriving DecidableEq, Repr

inductive Decoded where
  | ok (i : Instr)
  | bad (r : Reject)
  deriving DecidableEq, Repr

/-- The fields of a word below its opcode, `OP` [63:55] left out (R51). -/
def fieldsOf (w : IWord) : Fields :=
  { pr := w.extractLsb' 52 3, ft := w.extractLsb' 47 5, mod := w.extractLsb' 44 3
    t0 := w.extractLsb' 34 10, t1 := w.extractLsb' 24 10, imm := w.extractLsb' 0 24 }

/-- The check number of R84 that a rejected word fails. -/
def Reject.check : Reject → Nat
  | .opcode => 1
  | .pr => 3
  | .ft => 4
  | .modifier => 5
  | .imm => 6

/-- Decode a word: its instruction, or the first of checks 1, 3, 4, 5 and 6 of R84 that it fails. -/
def decode (w : IWord) : Decoded :=
  match Machine.rowOf (opOf w) with
  | none => .bad .opcode
  | some r =>
    match Machine.fieldCheck r (fieldsOf w) with
    | 0 => .ok (r.make (fieldsOf w))
    | 3 => .bad .pr
    | 4 => .bad .ft
    | 5 => .bad .modifier
    | _ => .bad .imm

/-- The word with an opcode and fields (R51). -/
def assemble (op : BitVec 9) (f : Fields) : IWord :=
  op ++ f.pr ++ f.ft ++ f.mod ++ f.t0 ++ f.t1 ++ f.imm

/-- The word of an instruction; none for an event of the part. -/
def encode (i : Instr) : Option IWord :=
  match Machine.opcodeOf i with
  | none => none
  | some (c, f) => some (assemble (BitVec.ofNat 9 c) f)

/-- The instruction that the decoder reads from a row's word, numbered as the opcode table numbers it: one
64-bit word, every bit above `nbits` being 0. -/
def decodeTableWord (nbits w : Nat) : Option Instr :=
  match decode (BitVec.ofNat 64 (w % 2 ^ nbits)) with
  | .ok i => some i
  | .bad _ => none

end Sys2Proof
end

