-- ==== Sys2Proof/Machine/State.lean ====
section
/-! DEFINITION. The state of the machine, its faults and refusals, and the state after reset.
Every field names the rule of spec/ that gives it; INVENTORY.md's '## State' lists them with widths and resets. -/

namespace Sys2Proof.Machine

/-- The model's own stops, which no run of the step meets on a state of the machine. -/
inductive Fault where
  /-- An instruction's meaning is asked for where no firing is executing it. Raised by the gate of every
  instruction; the step never does this (it sets the focus first). Safe. -/
  | noFiring
  deriving DecidableEq, Repr

inductive Refusal where
  /-- An instruction of the opcode table without a meaning in this model. Raised by the arms of exec. Safe. -/
  | notModelled (mnemonic : String)
  deriving DecidableEq, Repr

/-- Pairs of a key and a value: at most one of each key counts, the first. -/
abbrev Table (κ α : Type) := List (κ × α)

/-! ### Memory -/

/-- Memory as plain data: the bytes that differ from zero, the 16-byte units whose tag bit is set
(10_order_instructions.md R267) and the 64-byte granules whose poison mark is set (R268), each list in
strictly rising order. An address not listed reads as 0 (LOG 6, DESIGN CHOICE). -/
structure Mem where
  cells : List Host.Cell
  tags : List Nat
  poison : List Nat
  deriving DecidableEq, Repr

/-- The three places a byte that a program names can live: physical memory of the load-store domain
(01_machine.md R25), the local window of a page (09 R229), the symbol table of an instance (15 R390). -/
inductive Space where
  | phys
  | window (page : Nat)
  | symbols (inst : BitVec 32)
  deriving DecidableEq, Repr

/-- One byte's change: the bits of `mask` become those of `value`. -/
structure Patch where
  addr : Nat
  mask : Byte
  value : Byte
  deriving DecidableEq, Repr

/-- A write of one access to one home: its patches, the 16-byte units whose tag bits it sets, whether its
data is poisoned (10 R267, R268), and whether it drops the granule from line buffers (`STNT`, R270). -/
structure Write where
  space : Space
  patches : List Patch
  tagUnits : List Nat
  poisoned : Bool
  drops : Bool
  deriving DecidableEq, Repr

/-- What an atomic computes (10 R281). -/
inductive AtomicOp where
  | add | min | max | and | or | xor | xchg | cas | one | inc | dec | fadd | fmin | fmax
  deriving DecidableEq, Repr

/-- One element of an atomic (10 R280). `own` says that an earlier element of the same atomic has set the poison mark of its
granule (R268). -/
structure AtomicElem where
  space : Space
  addr : Nat
  op : AtomicOp
  fmt : Fmt
  b : BitVec 64
  c : BitVec 64
  poisoned : Bool
  own : Bool
  deriving DecidableEq, Repr

/-- A memory operation of a task that has not yet performed (09 R235, R239). `order` touches no byte: the place of a `FENCE`,
which follows every earlier operation of the task (`all`), or of an `ACQ`, which follows those of its own firing (R250, 10 R285). -/
inductive PendingAccess where
  | write (w : Write)
  | atomic (a : AtomicElem)
  | order (all : Bool)
  deriving DecidableEq, Repr

/-- `holdsLater`: every later operation of its task performs after it (`.ACQ`); `firing` counts the firings of
the task and `mo` is the memory-order index, which together place it in program order (R234). `arrived` is its place in
the order of arrival of the accesses that stand at a home and have not been applied (R237), none while it is on its way. `acq`
is the level at which it acquires as it performs (R246), `card` the chain whose append count it then raises (10 R299). -/
structure Pending where
  access : PendingAccess
  holdsLater : Bool
  firing : Nat
  mo : Nat
  arrived : Option Nat
  acq : Option Nat
  card : Option Nat
  deriving DecidableEq, Repr

/-- A home of memory (09 R228): a memory tile of a page, an HBM channel's controller (01 R26), the second-tier port node of a
package, or the symbol table of an instance (15 R390). -/
inductive Home where
  | tile (page tile : Nat)
  | hbm (package channel : Nat)
  | tier (package : Nat)
  | symbols (inst : BitVec 32)
  deriving DecidableEq, Repr

/-- An input port of a home node, by the party whose accesses it takes (R252; LOG 33, DESIGN CHOICE): a cell, the engines of a
chain, a collective's engine, the outbound queue of this package, the host. -/
inductive HomePort where
  | cell (cell : Nat)
  | chain (chain : Nat)
  | collective
  | queue
  | host
  deriving DecidableEq, Repr

/-- Port `past` of a home has had an access applied since the access at the head of port `waits` came to stand there (R252). -/
structure HomePass where
  home : Home
  waits : HomePort
  past : HomePort
  deriving DecidableEq, Repr

/-- A granule held by a page's line buffer (09 R233): its physical address, bytes, tag bits and poison mark. -/
structure Line where
  addr : Nat
  bytes : List Byte
  tags : List Nat
  poisoned : Bool
  deriving DecidableEq, Repr

/-- A run of bytes of one access in one granule of one space; `off` is its place within the access. -/
structure Seg where
  off : Nat
  len : Nat
  space : Space
  addr : Nat
  deriving DecidableEq, Repr

/-! ### Traps and events -/

/-- The trap codes of 16_recovery.md R431. -/
inductive TrapCode where
  | illop | fmtMismatch | bounds | perm | ptrTag | translate | align | stuck | predCount | guardFail
  | seqGap | cutFail | brk | user | chainFmt | collFail
  deriving DecidableEq, Repr

/-- What a trap's record says beside its place (R430, R431). -/
structure TrapInfo where
  code : TrapCode
  chk : Nat
  aux : Nat
  addr : Nat
  seq : Nat
  deriving DecidableEq, Repr

/-- A trap record (R430); `arcs` are the arc words that follow it, `auto` its bit 7, `pages` the pages that a `STUCK`
froze (13 R344, R348). -/
structure TrapRec where
  time : BitVec 64
  seqn : BitVec 32
  info : TrapInfo
  src : BitVec 16
  cell : Nat
  task : Nat
  auto : Bool
  ins : BitVec 8
  blk : BitVec 16
  cut : BitVec 32
  arcs : List (BitVec 32)
  pages : List Nat
  deriving DecidableEq, Repr

/-- An event record (13_progress_watch.md R354). -/
structure EvRec where
  time : BitVec 64
  seqn : BitVec 32
  code : BitVec 16
  src : BitVec 16
  pay : BitVec 32
  deriving DecidableEq, Repr

/-- A ring of records in management space with its read and write index (18 R445) and the number of the next record. -/
structure Ring (α : Type) where
  slots : Table Nat α
  rd : BitVec 64
  wr : BitVec 64
  nextSeq : BitVec 32
  deriving DecidableEq, Repr

/-! ### Arcs -/

/-- An uncorrectable error of a held or offered token: none, in its payload, or in its sideband (16 R411, R412). -/
inductive EccMark where
  | good
  | payload
  | sideband
  deriving DecidableEq, Repr

/-- A token in a slot of an arc (09 R225): offered, or held by the consumer; `level` is the release level it carries (R244). -/
structure SlotTok where
  item : Item
  held : Bool
  level : Option Nat
  ecc : EccMark
  deriving DecidableEq, Repr

/-- The counters of an arc's two ports, which a freeze saves and a rollback restores (02 R39-R41, 16 R422, R425). -/
structure PortState where
  pSeq : BitVec 22
  pData : Nat
  headScale : BitVec 8
  pClosed : Bool
  cE : BitVec 22
  cData : Nat
  cClosed : Bool
  gap : Option (BitVec 22)
  dups : Nat
  awaiting : Option (BitVec 22)
  deriving DecidableEq, Repr

/-- An arc (02_encoding.md R44); the copies of one declared arc in a replicated stage are arcs of their own (12 R319).
`pEdge` and `cEdge` are the edge ports that a boundary channel passes on its producer's and its consumer's page (01 R23, R32).
`recorded` holds, by cut, the tokens that a back arc recorded and whether it still records (16 R419). -/
structure Arc where
  inst : BitVec 32
  decl : Nat
  pCell : Nat
  pPort : Nat
  cCell : Nat
  cPort : Nat
  slots : Nat
  burst : Nat
  isPred : Bool
  weir : Option Nat
  pEdge : Option Nat
  cEdge : Option Nat
  back : Bool
  ports : PortState
  reserved : Nat
  queue : List SlotTok
  armed : Bool
  recorded : List (Nat × Bool × List SlotTok)
  occSum : Nat
  fullTime : Nat
  deriving DecidableEq, Repr

/-! ### Tasks and firings -/

/-- A value inside a block (02 R43): a data token or a predicate. -/
inductive Val where
  | data (t : Token)
  | pred (p : PredToken)
  deriving DecidableEq, Repr

/-- The operand slots of an instruction, by their code (02 R53): 0 A, 1 B, 2 P, 3 C. -/
abbrev SlotCode := BitVec 2

/-- What a firing sends at retirement. -/
inductive Outgoing where
  | token (v : Val)
  | command (c : StreamCmd)
  deriving DecidableEq, Repr

/-- A row to be issued at retirement (06 R180-R182). -/
structure RowReq where
  a : Token
  chainPort : Option Nat
  outPort : Nat
  deriving DecidableEq, Repr

/-- The effects of an instruction that take place when its firing retires (02 R55 and the descriptions). -/
inductive Deferred where
  | setMode (m : BitVec 3)
  | clearFlags (mask : Vector (BitVec 7) 16)
  | loadPlane (t : Token)
  | clearShadow
  | swapPlanes
  | loadCodebook (bSide : Bool) (fmt : Fmt) (lanes : Vector Lane 16)
  | issueRow (r : RowReq)
  | setRoutes (entries : List (Nat × BitVec 4))
  | routeTo (e : Nat)
  | accumulate
  | readyTile (poison : Bool)
  | releaseTile (base count : Nat) (port : Option Nat) (toks : List Token)
  | pushFifo (f : Nat)
  | giveBank (k : Nat)
  | spawn (cell task : Nat)
  | tear (ports : BitVec 8)
  | event (code : BitVec 16) (pay : BitVec 32)
  | yield
  | prio (p : Nat)
  | guardMode (m : Nat)
  | sluice (index : Nat) (arm : Bool)
  | mark
  | brk (code : Nat)
  | replay (port : Nat)
  | post (card : Vector Lane 16)
  | cancel (n : BitVec 32)
  deriving DecidableEq, Repr

/-- The accesses of one instruction that have performed while others are still to perform (09 R231, 10 R282): how many, the bytes
that they returned, whether one was poisoned, and, of an atomic, what its elements read and the granules that they marked; of a
`CONTRACT`, `count` counts output elements and `reads` holds what has been read for the next one (07 R218). -/
structure PartAccess where
  ins : Nat
  count : Nat
  bytes : List (Byte × Bool)
  poisoned : Bool
  olds : List (Nat × Nat × Bool)
  marks : List (Space × Nat)
  reads : List (List (Byte × Bool) × Bool)
  deriving DecidableEq, Repr

/-- A firing in flight, with all that 16_recovery.md R425 saves of it. -/
structure Firing where
  block : Nat
  done : List Nat
  got : List (Nat × SlotCode × Option Val)
  resArcs : List Nat
  resPush : List Nat
  resPop : List Nat
  resCards : List Nat
  popped : List Nat
  sends : List (Nat × Outgoing)
  writes : List (Nat × Token)
  exit : Option Nat
  raised : Vector (BitVec 7) 16
  deferred : List (Nat × Deferred)
  relLevel : Option Nat
  relMo : Nat
  relDone : Bool
  asked : List Nat
  answers : List (Nat × Option (BitVec 32))
  time : Option (BitVec 64)
  count : Option (BitVec 64)
  guard : Nat
  resumed : Bool
  parts : List PartAccess
  deriving DecidableEq, Repr

/-- The states of a task (12 R305), but Ready, which is Waiting with its firing conditions holding, and
Frozen, which is the flag `frozen` beside the state saved. -/
inductive TaskState where
  | unbound | waiting | firing | trapped | finished | parked | drained
  deriving DecidableEq, Repr

/-- The words of a task that hold no token (16 R404): its mode word, its flag state, its accumulator state. -/
inductive TaskWord where
  | mode | flags | acc
  deriving DecidableEq, Repr

/-- A task. `traps` holds faults not yet taken, each with the cell it arose in (07 R206); `relq` its release queue, each token
with its port, its release level and its place in the order in which the cell's firings queued them (06 R197); `relSent` those of
the queue that were sent and may not be accepted yet, by arc and `SEQ` (12 R327); `spoilt` the words that read poisoned
(16 R404). -/
structure Task where
  inst : BitVec 32
  decl : Nat
  state : TaskState
  frozen : Bool
  prio : Nat
  entry : Nat
  block : Nat
  blocks : List Nat
  codeLo : Nat
  codeHi : Nat
  restart : Bool
  nsregs : Nat
  sregs : Vector (Option Token) 16
  mode : BitVec 3
  flags : Vector (BitVec 7) 16
  acnt : BitVec 32
  rdy : Bool
  prl : Bool
  relq : List (Nat × Token × Option Nat × Nat)
  relSent : List (Nat × BitVec 22)
  seals : List Nat
  banks : List (Nat × Nat)
  chains : List Nat
  ports : List Nat
  firing : Option Firing
  pending : List Pending
  firings : Nat
  traps : List (TrapInfo × Nat)
  brkExit : Option Nat
  taken : Option Nat
  resumed : Bool
  acqAll : Bool
  draining : Bool
  stuck : Bool
  spoilt : List TaskWord
  deriving DecidableEq, Repr

/-! ### M-cells and tiles -/

/-- A stationary plane (06 R172, R173): the tokens it holds (its fill count is their number), its format and poison bit. -/
structure Plane where
  toks : List (Vector Lane 16 × BitVec 8 × BitVec 16)
  fmt : Option Fmt
  poison : Bool
  deriving DecidableEq, Repr

/-- A row in flight (06 R182-R185). `codebook` is the A-side register as the row's firing found it (R178); `lastSeq` and
`lastArc` are the `SEQ` of its fourth token and the arc, one copy of its port's (12 R319), that carries it. -/
structure Row where
  a : Token
  codebook : Option (Fmt × Vector (BitVec 16) 16)
  chainPort : Option Nat
  outPort : Nat
  taken : List Token
  sent : Nat
  lastSeq : BitVec 22
  lastArc : Nat
  guard : Nat
  deriving DecidableEq, Repr

structure MState where
  active : Plane
  shadow : Plane
  cbA : Option (Fmt × Vector (BitVec 16) 16)
  cbB : Option (Fmt × Vector (BitVec 16) 16)
  routes : Vector (BitVec 4) 8
  current : Nat
  rows : List Row
  nRows : BitVec 32
  nZero : BitVec 32
  nNarrow : BitVec 32
  deriving DecidableEq, Repr

inductive SlotState where
  | idle | waiting | running | faulted
  deriving DecidableEq, Repr

/-- An element word of the token that a stream slot is filling, as it was read: its place, its bytes, whether its granule was
poisoned (07 R200). -/
structure Filled where
  pos : Nat
  bytes : List (Byte × Bool)
  bad : Bool
  deriving DecidableEq, Repr

/-- A stream slot of a tile (07 R199-R211). `n` is the number of the next element, `done` and `toks` what
`SSTAT` shows, `sortErr` the keys skipped, `endDue` whether the end token is still to be sent,
`prevKey` the source's previous key, `lastCb` the codebook last sent on each arc of its output port (04 R98). `fill` is the
partial token that it is filling, `wrote` how many accesses of the token at its push port have been made. -/
structure StreamSlot where
  state : SlotState
  cmd : Option StreamCmd
  n : Nat
  done : Nat
  toks : Nat
  sortErr : BitVec 32
  prevKey : Option Nat
  endDue : Bool
  index : List Token
  lastCb : Table Nat (Nat × Nat)
  fill : List Filled
  wrote : Nat
  deriving DecidableEq, Repr

/-- Where one element of a stream token was read from: its place `pos` in the token, its sub-element in the
element word, and the word's bytes. -/
structure ElemRead where
  pos : Nat
  sub : Nat
  segs : List Seg
  deriving DecidableEq, Repr

/-- An entry of a tile's replay window (16 R410): its port, the arc it went out on, the token as sent, and what it was
read from. The copies of a distributing port number their tokens apart (12 R319). -/
structure Replay where
  port : Nat
  arc : Nat
  tok : Token
  reads : List ElemRead
  deriving DecidableEq, Repr

/-! ### Cells and pages -/

structure Cell where
  page : Nat
  inst : BitVec 32
  decl : Nat
  sx : Nat
  sy : Nat
  kind : CellKind
  store : Table Nat IWord
  badWords : List Nat
  consts : Vector (BitVec 32) 16
  ptr0 : Nat
  ptr1 : Nat
  role : Option (Nat × Nat)
  mat : MState
  slots : Vector StreamSlot 4
  replay : List Replay
  rr : Table Nat Nat
  deriving DecidableEq, Repr

structure FrameId where
  die : Nat
  x : Nat
  y : Nat
  deriving DecidableEq, Repr

/-- A physical frame (01 R20, 15 R391, 16 R417, 18 R452-R456); `millivolts` is what the power cap demands of it, and `lastCtx` the
context whose page it is being scrubbed of (15 R377). -/
structure Frame where
  tested : Bool
  passed : Bool
  exposed : Bool
  faulty : Bool
  scrubbing : Bool
  millivolts : Nat
  lastCtx : Option (BitVec 8)
  deriving DecidableEq, Repr

/-- A page's image of one cut (16 R419, R420), as its cut buffer holds it: all that R425 names, and the numbers of the collective
jobs of its chains that were posted and not complete (10 R294, 16 R423). The local window of a page
that was not returned since comes back by the undo log (R422). `poisoned` says that the buffer could not be read (R404). -/
structure PageImage where
  cut : Nat
  cells : Table Nat Cell
  tasks : Table (Nat × Nat) Task
  arcs : Table Nat Arc
  guardMode : Nat
  fifos : List (Nat × Nat)
  banks : List ((Nat × Nat) × Nat × Option (Nat × Nat))
  chains : List (Nat × Nat × Nat × Nat)
  posted : List (BitVec 32)
  window : Mem
  poisoned : Bool
  deriving DecidableEq, Repr

/-- A fault that a faulty frame's page waits to have recorded (16 R417): its cause, the cell, the task and the instruction
concerned, 0xFF for none. -/
structure PageFault where
  info : TrapInfo
  cell : Nat
  task : Nat
  ins : Nat
  deriving DecidableEq, Repr

structure Page where
  inst : BitVec 32
  asid : BitVec 8
  decl : Nat
  replica : Nat
  stage : Option Nat
  frame : Option FrameId
  sharers : List (BitVec 32)
  window : Mem
  lines : List Line
  guardMode : Nat
  fireCount : BitVec 64
  resumptions : BitVec 32
  transients : BitVec 32
  frozen : Bool
  freezing : Bool
  lastActive : BitVec 64
  sourcePage : Bool
  saved : Nat
  images : List PageImage
  undo : List (Nat × Nat × List Byte × List Nat × Bool)
  undoVoid : List Nat
  mixed : Nat
  faults : List PageFault
  returned : Bool
  deriving DecidableEq, Repr

/-! ### Contexts, instances, banks, chains -/

/-- A Spillway queue (13 R345): the arc it serves, whether it was attached by extension, whether it has passed a token. -/
structure SpillQueue where
  arc : Option Nat
  extension : Bool
  passed : Bool
  items : List SlotTok
  deriving DecidableEq, Repr

/-- A token FIFO (10 R289-R291). `duePushes` are the pushes of finished numbers that wait for an entry, oldest first, each with the
chain and the job that it belongs to, if any. -/
structure Fifo where
  count : Nat
  level : Nat
  resPush : Nat
  resPop : Nat
  point : Nat
  duePushes : List (Option (Nat × Nat))
  deriving DecidableEq, Repr

/-- A range entry (15 R384): `RGBASE`, `RGLIM`, `RGOFF`, `RGCTL`. -/
structure RangeEntry where
  base : Nat
  lim : Nat
  off : Nat
  ctl : BitVec 64
  deriving DecidableEq, Repr

/-- A collective posted by a context and not finished (13 R362): by whom, its card, whether its
finish pushes, and whether an access of it has faulted here.
`joined` of a context holds group, member index and size (R356); `ending`, that the management processor ends it (15 R377). -/
structure Post where
  number : BitVec 32
  cell : Nat
  task : Nat
  chain : Option Nat
  job : Nat
  card : Vector Lane 16
  push : Bool
  faulted : Bool
  deriving DecidableEq, Repr

structure Context where
  word : BitVec 64
  launched : Bool
  ranges : List RangeEntry
  fifos : Vector Fifo 16
  spill : Vector SpillQueue 16
  balance : Int
  balanceKept : Bool
  groups : Table Nat (BitVec 32)
  roles : Table Nat (BitVec 64)
  bindings : Table Nat (BitVec 32)
  members : Table Nat (Nat × Option Nat)
  events : Ring EvRec
  lost : BitVec 32
  traps : Ring TrapRec
  trapsDue : List TrapRec
  guardFloor : Nat
  lastActive : BitVec 64
  posts : List Post
  joined : List (BitVec 12 × Nat × Nat)
  ending : Bool
  deriving DecidableEq, Repr

/-- A replicated stage (12 R319-R323). -/
structure StageState where
  stage : Nat
  minReplicas : Nat
  maxReplicas : Nat
  active : List Nat
  draining : Option Nat
  underfed : Nat
  nextAt : BitVec 64
  deriving DecidableEq, Repr

/-- A collective operation of an instance that a rollback makes it repeat (16 R423). -/
inductive CollOp where
  | num (group : BitVec 12) (site inst number : BitVec 32)
  | post (number : BitVec 32)
  | join (group : BitVec 12)
  deriving DecidableEq, Repr

/-- An instance's cut state (16 R418-R422). `collLog` holds its collective operations, each with the cut its page had
then saved, and `collReplay` those that a rollback left to be repeated. `causes` are the causes of rollbacks since the last
complete cut, each a page, cell, block and instruction, and `rollbackDue` the firings, by cell, task and instruction, that
stopped for a rollback not yet made (16 R409). `ending` says that system software ends it (12 R331), `ended` how it has ended. -/
structure Instance where
  asid : BitVec 8
  loader : Bool
  markInterval : Nat
  lastCut : Nat
  cutNow : Nat
  cutOrdered : Bool
  sinceCut : Nat
  rollbacks : BitVec 32
  causes : List (Nat × Nat × Nat × Nat)
  sluices : List Nat
  stages : List StageState
  symbols : Mem
  groupIds : List Nat
  interval : Nat
  high : Nat
  low : Nat
  hold : Nat
  bytesOf : Table Nat (Table Nat IWord × Vector (BitVec 32) 16)
  ending : Bool
  ended : Option Nat
  rollbackDue : List (Nat × Nat × Nat)
  collLog : List (Nat × CollOp)
  collReplay : List CollOp
  deriving DecidableEq, Repr

/-- A bank token (10 R286, R288): the holder sequence, the turn, and the task that holds it. -/
structure Bank where
  holders : List (Nat × Nat)
  turn : Nat
  holder : Option (Nat × Nat)
  deriving DecidableEq, Repr

/-- A job of a chain that has issued and not completed (10 R294-R298); `chunks` are the pieces of its work
that have performed, `fetched` those of which only the reads have, with the bytes read and whether they were poisoned. `finished`
is said of a collective job whose number has finished, `pushed` once its push has been applied (R291). -/
structure Job where
  n : Nat
  card : Vector Lane 16
  chunks : List Nat
  fetched : List (Nat × List Byte × Bool)
  finished : Bool
  pushed : Bool
  deriving DecidableEq, Repr

structure Chain where
  cell : Nat
  num : Nat
  task : Nat
  base : Nat
  cards : Nat
  w : Nat
  t : Nat
  q : Nat
  issued : Nat
  reserved : Nat
  inFlight : List Job
  finished : List Nat
  stopped : Bool
  deriving DecidableEq, Repr

/-! ### The pod's collectives (13 R356-R370) -/

inductive NumState where
  | announced | executing | complete | cancelled | failed
  deriving DecidableEq, Repr

/-- How far the execution of a number has come, where its accesses are made one by one (09 R252): what its inputs' accesses have
read; once all have, whether an access elsewhere failed and what every member is to be given, each byte with its poison and whether
it is written; and how many of the writes have been made. -/
structure NumPart where
  reads : List (List (Byte × Bool) × Bool)
  failed : Bool
  outs : Option (List (List (Byte × Bool × Bool)))
  wrote : Nat
  deriving DecidableEq, Repr

abbrev NumPart.none : NumPart := ⟨[], false, Option.none, 0⟩

/-- A number as this package's collective engine knows it (R361, R370). `members` are the contexts of this package that were
members of its group when it was announced, with index and size: they stay its members when they leave the group (R357).
`posted` are those that have posted it (R369). -/
structure LocalNum where
  number : BitVec 32
  group : BitVec 12
  members : List (BitVec 8 × Nat × Nat)
  posted : List (BitVec 8)
  state : NumState
  go : Bool
  cancelNotice : Bool
  failNotice : Bool
  part : NumPart
  deriving DecidableEq, Repr

/-- `gaps` holds the highest number recorded at each takeover; `sent` the posts and cancellations that have left for a primary
elsewhere and may still be pending there (R367). -/
structure Collective where
  primary : Option Nat
  standby : Option Nat
  records : SeqRecords
  copy : SeqRecords
  lastHeard : BitVec 64
  channel : List SeqMsg
  lastFinished : Option (BitVec 32)
  numbers : List LocalNum
  requests : List SeqReq
  sent : List SeqReq
  gaps : List (BitVec 32)
  deriving DecidableEq, Repr

/-! ### The package (18_surroundings.md) -/

structure Mailbox where
  cmd : BitVec 64
  arg0 : BitVec 64
  arg1 : BitVec 64
  stat : BitVec 8
  deriving DecidableEq, Repr

structure DieState where
  orient : BitVec 32
  fitted : Bool
  ref : Bool
  mode : BitVec 2
  gated : Bool
  busy : Bool
  modulesOut : List (Nat × Nat)
  deriving DecidableEq, Repr

structure EndRec where
  time : BitVec 64
  inst : BitVec 32
  asid : BitVec 8
  how : BitVec 8
  deriving DecidableEq, Repr

structure Package where
  aocnt : BitVec 64
  level : BitVec 2
  capw : BitVec 12
  capin : BitVec 12
  sched : Bool
  pwrnow : BitVec 12
  pschedTau : Vector (BitVec 64) 64
  pschedNew : Vector (BitVec 64) 64
  pschedW : Vector (BitVec 12) 64
  domid : BitVec 64
  bstage : BitVec 8
  bfail : Bool
  build : Nat
  rollbackCount : Nat
  mailbox : Mailbox
  notify : BitVec 4
  messages : Nat
  endrd : BitVec 32
  endwr : BitVec 32
  endRing : Table Nat EndRec
  endDue : List EndRec
  nextInst : BitVec 32
  keys : List (List (BitVec 64))
  ownerKey : Option (List (BitVec 64))
  dies : Vector DieState 4
  frames : Table FrameId Frame
  linksDown : List Nat
  unreachable : List Nat
  idleChoices : Bool
  hostRead : List Byte
  rootHashes : List (BitVec 384)
  deriving DecidableEq, Repr

/-- A translation held by a die (15 R388, R389). -/
structure Xlate where
  die : Nat
  asid : BitVec 8
  vbase : Nat
  size : Nat
  pbase : Nat
  readable : Bool
  writable : Bool
  deriving DecidableEq, Repr

/-- A range entry held by a die's range cache (15 R385). -/
structure RangeHeld where
  die : Nat
  asid : BitVec 8
  entry : RangeEntry
  deriving DecidableEq, Repr

/-- A translation invalidation under way (15 R389). -/
structure Invalidation where
  asid : BitVec 8
  base : Nat
  length : Nat
  deriving DecidableEq, Repr

/-- An access in an ordered outbound queue to another package (09 R249). -/
structure Outbound where
  dest : Nat
  cell : Nat
  task : Nat
  entry : Pending
  deriving DecidableEq, Repr

/-- A `SPAWN` request on its way (12 R337). -/
structure SpawnReq where
  asid : BitVec 8
  cell : Nat
  task : Nat
  deriving DecidableEq, Repr

/-- A freeze in progress or waiting (16 R424): its context, its pages, and whether the mailbox waits for it. -/
structure FreezeReq where
  asid : BitVec 8
  pages : List Nat
  byMailbox : Bool
  deriving DecidableEq, Repr

/-- Which instruction of which firing executes now (the model's own; LOG 1, DESIGN CHOICE). -/
structure Focus where
  cell : Nat
  task : Nat
  ins : Nat
  guardHit : GuardHit
  deriving DecidableEq, Repr

/-- The whole machine: one package of the pod, the memory of its load-store domain, and what the other
packages have told it. -/
structure State where
  agenda : List Turn
  free : Nat
  focus : Option Focus
  args : Args
  pkg : Package
  phys : Mem
  outbound : List Outbound
  homes : List HomePass
  contexts : Table (BitVec 8) Context
  instances : Table (BitVec 32) Instance
  pages : Table Nat Page
  cells : Table Nat Cell
  tasks : Table (Nat × Nat) Task
  arcs : Table Nat Arc
  banks : Table (Nat × Nat) Bank
  chains : Table Nat Chain
  xlates : List Xlate
  rangeHeld : List RangeHeld
  invalidation : Option Invalidation
  spawns : List SpawnReq
  freezes : List FreezeReq
  collective : Collective
  deriving DecidableEq, Repr

/-! ### Reset -/

abbrev Mem.empty : Mem := ⟨[], [], []⟩

abbrev Ring.empty {α : Type} : Ring α := ⟨[], 0, 0, 0⟩

/-- 06 R166: planes empty, codebooks not loaded, routes invalid, index and counters 0. -/
abbrev Plane.empty : Plane := ⟨[], none, false⟩

abbrev MState.empty : MState :=
  { active := Plane.empty, shadow := Plane.empty, cbA := none, cbB := none
    routes := Vector.replicate 8 0, current := 0, rows := [], nRows := 0, nZero := 0, nNarrow := 0 }

abbrev StreamSlot.idle : StreamSlot :=
  { state := .idle, cmd := none, n := 0, done := 0, toks := 0, sortErr := 0, prevKey := none
    endDue := false, index := [], lastCb := [], fill := [], wrote := 0 }

abbrev SeqRecords.empty : SeqRecords :=
  { next := 0, groups := [], keys := [], numbers := [], takeovers := 0, waiting := [] }

/-- R368: no sequencer designated, no last finished number. -/
abbrev Collective.reset : Collective :=
  { primary := none, standby := none, records := SeqRecords.empty, copy := SeqRecords.empty
    lastHeard := 0, channel := [], lastFinished := none, numbers := [], requests := [], sent := []
    gaps := [] }

/-- R17, R18: EXPOSED 128 (a fuse, LOG 4, DESIGN CHOICE) and the by-rotation fields of CDn; R454: DIEPWR resets to balanced. -/
abbrev DieState.reset (orient : BitVec 32) : DieState :=
  { orient := orient, fitted := true, ref := false, mode := 0b01, gated := false, busy := false, modulesOut := [] }

/-- The package after reset (18 R445-R457; LOG 4, DESIGN CHOICE, LOG 5, DESIGN CHOICE). -/
abbrev Package.reset : Package :=
  { aocnt := 0, level := 1, capw := 2400, capin := 2400, sched := false, pwrnow := 0
    pschedTau := Vector.replicate 64 0, pschedNew := Vector.replicate 64 0, pschedW := Vector.replicate 64 0
    domid := 0, bstage := 0, bfail := false, build := 0, rollbackCount := 0
    mailbox := { cmd := 0, arg0 := 0, arg1 := 0, stat := 0 }
    notify := 0, messages := 0, endrd := 0, endwr := 0, endRing := [], endDue := [], nextInst := 1
    keys := [], ownerKey := none
    dies := #v[DieState.reset 0x8000, DieState.reset 0x8045, DieState.reset 0x80AA, DieState.reset 0x80EF]
    frames := [], linksDown := [], unreachable := [], idleChoices := false
    hostRead := [], rootHashes := [] }

/-- The machine right after reset. -/
def State.reset : State :=
  { agenda := [], free := 0, focus := none, args := Args.none, pkg := Package.reset, phys := Mem.empty, outbound := []
    homes := []
    contexts := [], instances := [], pages := [], cells := [], tasks := [], arcs := [], banks := []
    chains := [], xlates := [], rangeHeld := [], invalidation := none, spawns := [], freezes := []
    collective := Collective.reset }

end Sys2Proof.Machine
end

