-- ==== Sys2Proof/Machine/Table.lean ====
section
/-! DEFINITION. Looking up and replacing entries of the state's tables. -/

namespace Sys2Proof.Machine

/-- The value that a table holds for a key: the first pair's. -/
def tget {κ α : Type} [DecidableEq κ] : Table κ α → κ → Option α
  | [], _ => none
  | (k, v) :: r, q => if k = q then some v else tget r q

/-- The table with the key's value replaced, or added at the end. -/
def tput {κ α : Type} [DecidableEq κ] : Table κ α → κ → α → Table κ α
  | [], q, w => [(q, w)]
  | (k, v) :: r, q, w => if k = q then (q, w) :: r else (k, v) :: tput r q w

/-- The table without any pair of the key. -/
def tdel {κ α : Type} [DecidableEq κ] : Table κ α → κ → Table κ α
  | [], _ => []
  | (k, v) :: r, q => if k = q then tdel r q else (k, v) :: tdel r q

/-- The table with a present value changed. -/
def tmod {κ α : Type} [DecidableEq κ] (t : Table κ α) (q : κ) (g : α → α) : Table κ α :=
  match tget t q with
  | none => t
  | some v => tput t q (g v)

/-- Every value of the table changed. -/
def tmap {κ α : Type} : Table κ α → (κ → α → α) → Table κ α
  | [], _ => []
  | (k, v) :: r, g => (k, g k v) :: tmap r g

end Sys2Proof.Machine
end

