-- ==== Sys2Proof/Machine/Flags.lean ====
section
/-! DEFINITION. The seven sticky flags of each lane (04_arith_formats.md R115, R116). -/

namespace Sys2Proof.Machine

/-- The flags of one lane: bit 6 ISAT, 5 EINX, 4 INX, 3 UNF, 2 OVF, 1 DZ, 0 INV (R115). -/
abbrev LaneFlags := BitVec 7

abbrev LaneFlags.inv : LaneFlags := 0b0000001#7
abbrev LaneFlags.dz : LaneFlags := 0b0000010#7
abbrev LaneFlags.ovf : LaneFlags := 0b0000100#7
abbrev LaneFlags.unf : LaneFlags := 0b0001000#7
abbrev LaneFlags.inx : LaneFlags := 0b0010000#7
abbrev LaneFlags.einx : LaneFlags := 0b0100000#7
abbrev LaneFlags.isat : LaneFlags := 0b1000000#7

/-- The flags of the sixteen lanes. -/
abbrev FlagSet := Vector LaneFlags 16

def noFlags : FlagSet := Vector.replicate 16 0

def flagsOr (a b : FlagSet) : FlagSet := Vector.ofFn fun i => a[i] ||| b[i]

/-- Flags raised in one lane only. -/
def flagsAt (lane : Nat) (x : LaneFlags) : FlagSet := Vector.ofFn fun i => if i.val = lane then x else 0

/-- The flag state with the flags of a mask cleared in each lane (R115). -/
def flagsClear (a mask : FlagSet) : FlagSet := Vector.ofFn fun i => a[i] &&& ~~~mask[i]

/-- The flag state as a retiring firing leaves it: clears first, then the firing's own flags (R116). -/
def flagsRetire (a mask raised : FlagSet) : FlagSet := flagsOr (flagsClear a mask) raised

end Sys2Proof.Machine
end

