-- ==== Sys2Proof/Machine/Memory.lean ====
section
/-! DEFINITION. Memory: bytes in one canonical form, tag bits, poison marks, and the application of one write. -/

namespace Sys2Proof.Machine

/-- The byte a list of cells holds at an address; 0 where none is listed (LOG 6, DESIGN CHOICE). -/
def cellGet : List Host.Cell → Nat → Byte
  | [], _ => 0
  | (k, v) :: r, a => if k = a then v else cellGet r a

/-- The list with the byte at an address replaced, keeping it rising and free of zero bytes. -/
def cellSet : List Host.Cell → Nat → Byte → List Host.Cell
  | [], a, b => if b = 0 then [] else [(a, b)]
  | (k, v) :: r, a, b =>
    if a < k then (if b = 0 then (k, v) :: r else (a, b) :: (k, v) :: r)
    else if a = k then (if b = 0 then r else (a, b) :: r)
    else (k, v) :: cellSet r a b

/-- A number put into a strictly rising list. -/
def natInsert : List Nat → Nat → List Nat
  | [], a => [a]
  | k :: r, a => if a < k then a :: k :: r else if a = k then k :: r else k :: natInsert r a

/-- A number taken out of a strictly rising list. -/
def natErase : List Nat → Nat → List Nat
  | [], _ => []
  | k :: r, a => if a = k then r else k :: natErase r a

/-- The list's addresses rise strictly above `lo` and no byte is zero. -/
def cellsAbove : Option Nat → List Host.Cell → Bool
  | _, [] => true
  | none, (k, v) :: r => v != 0 && cellsAbove (some k) r
  | some lo, (k, v) :: r => decide (lo < k) && v != 0 && cellsAbove (some k) r

def natsAbove : Option Nat → List Nat → Bool
  | _, [] => true
  | none, k :: r => natsAbove (some k) r
  | some lo, k :: r => decide (lo < k) && natsAbove (some k) r

/-- The canonical form of a memory: equal memories are equal data. -/
def memWf (m : Mem) : Bool := cellsAbove none m.cells && natsAbove none m.tags && natsAbove none m.poison

/-- One byte of a memory. -/
def readByte (m : Mem) (a : Nat) : Byte := cellGet m.cells a

def writeByte (m : Mem) (a : Nat) (b : Byte) : Mem := { m with cells := cellSet m.cells a b }

/-- `n` bytes from `a` upward, lowest address first. -/
def readBytes (m : Mem) (a : Nat) : Nat → List Byte
  | 0 => []
  | n + 1 => readByte m a :: readBytes m (a + 1) n

def writeBytes (m : Mem) (a : Nat) : List Byte → Mem
  | [] => m
  | b :: r => writeBytes (writeByte m a b) (a + 1) r

/-- The number that bytes stand for, least significant first (00_scope.md R9, R10). -/
def leNat : List Byte → Nat
  | [] => 0
  | b :: r => b.toNat + 256 * leNat r

/-- The `n` low bytes of a number, least significant first. -/
def natLe : Nat → Nat → List Byte
  | 0, _ => []
  | n + 1, v => BitVec.ofNat 8 v :: natLe n (v / 256)

def readNat (m : Mem) (a n : Nat) : Nat := leNat (readBytes m a n)

/-- The tag bit of the 16-byte unit that holds an address (10 R267). -/
def tagAt (m : Mem) (a : Nat) : Bool := m.tags.contains (a / 16)

/-- The poison mark of the granule that holds an address (R268). -/
def poisonAt (m : Mem) (a : Nat) : Bool := m.poison.contains (a / 64)

def setTag (m : Mem) (a : Nat) (on : Bool) : Mem :=
  { m with tags := if on then natInsert m.tags (a / 16) else natErase m.tags (a / 16) }

def setPoison (m : Mem) (a : Nat) (on : Bool) : Mem :=
  { m with poison := if on then natInsert m.poison (a / 64) else natErase m.poison (a / 64) }

/-- Apply patches of bytes. -/
def applyPatches (m : Mem) : List Patch → Mem
  | [] => m
  | p :: r =>
    applyPatches (writeByte m p.addr ((readByte m p.addr &&& ~~~p.mask) ||| (p.value &&& p.mask))) r

/-- The granules (addresses / 64) that patches touch, without repeats. -/
def granulesOf : List Patch → List Nat
  | [] => []
  | p :: r => natInsert (granulesOf r) (p.addr / 64)

def unitsOf : List Patch → List Nat
  | [] => []
  | p :: r => natInsert (unitsOf r) (p.addr / 16)

/-- Whether patches give every bit of each of the `n` bytes from `a` a new value. -/
def coversBytes (ps : List Patch) (a : Nat) : Nat → Bool
  | 0 => true
  | n + 1 => ps.any (fun p => p.addr == a && p.mask == 0xFF) && coversBytes ps (a + 1) n

/-- The tag bits after a write (R267): cleared in each unit touched, then set where a valid pointer is stored. -/
def retag (m : Mem) (touched set : List Nat) : Mem :=
  { m with tags := set.foldl natInsert (touched.foldl natErase m.tags) }

/-- The poison marks after a write (R268): poisoned data sets the mark of each granule it writes; unpoisoned
data that covers a whole granule clears its mark; a partial write leaves it. -/
def repoison (m : Mem) (ps : List Patch) (poisoned : Bool) : List Nat → Mem
  | [] => m
  | g :: r =>
    repoison (if poisoned then { m with poison := natInsert m.poison g }
              else if coversBytes ps (g * 64) 64 then { m with poison := natErase m.poison g } else m) ps poisoned r

/-- One write applied at its home. -/
def applyWrite (m : Mem) (w : Write) : Mem :=
  repoison (retag (applyPatches m w.patches) (unitsOf w.patches) w.tagUnits) w.patches w.poisoned
    (granulesOf w.patches)

/-- Patches that write whole bytes from `a` upward. -/
def patchesOf (a : Nat) : List Byte → List Patch
  | [] => []
  | b :: r => ⟨a, 0xFF, b⟩ :: patchesOf (a + 1) r

/-- The patches of a list that fall in granule `g`. -/
def patchesIn (ps : List Patch) (g : Nat) : List Patch := ps.filter (fun p => p.addr / 64 == g)

end Sys2Proof.Machine
end

