-- ==== Sys2Proof/Machine/Ops.lean ====
section
/-! DEFINITION. The named operations over the state: entries, the firing in focus, events and notifications,
arcs and their ports, taking a trap and answering one. -/

namespace Sys2Proof.Machine

/-! ### Entries of the state -/

def setTask (s : State) (k : Nat × Nat) (t : Task) : State := { s with tasks := tput s.tasks k t }
def setCell (s : State) (k : Nat) (c : Cell) : State := { s with cells := tput s.cells k c }
def setPage (s : State) (k : Nat) (p : Page) : State := { s with pages := tput s.pages k p }
def setArc (s : State) (k : Nat) (a : Arc) : State := { s with arcs := tput s.arcs k a }
def setCtx (s : State) (k : BitVec 8) (c : Context) : State := { s with contexts := tput s.contexts k c }
def setInst (s : State) (k : BitVec 32) (i : Instance) : State := { s with instances := tput s.instances k i }
def setBank (s : State) (k : Nat × Nat) (b : Bank) : State := { s with banks := tput s.banks k b }
def setChain (s : State) (k : Nat) (c : Chain) : State := { s with chains := tput s.chains k c }

def modTask (s : State) (k : Nat × Nat) (g : Task → Task) : State := { s with tasks := tmod s.tasks k g }
def modCell (s : State) (k : Nat) (g : Cell → Cell) : State := { s with cells := tmod s.cells k g }
def modPage (s : State) (k : Nat) (g : Page → Page) : State := { s with pages := tmod s.pages k g }
def modArc (s : State) (k : Nat) (g : Arc → Arc) : State := { s with arcs := tmod s.arcs k g }
def modCtx (s : State) (k : BitVec 8) (g : Context → Context) : State := { s with contexts := tmod s.contexts k g }
def modInst (s : State) (k : BitVec 32) (g : Instance → Instance) : State := { s with instances := tmod s.instances k g }
def modBank (s : State) (k : Nat × Nat) (g : Bank → Bank) : State := { s with banks := tmod s.banks k g }
def modChain (s : State) (k : Nat) (g : Chain → Chain) : State := { s with chains := tmod s.chains k g }

/-- A task with its firing in flight changed, if it has one. -/
def modFiring (s : State) (k : Nat × Nat) (g : Firing → Firing) : State :=
  modTask s k fun t => { t with firing := t.firing.map g }

/-- The page that holds a cell. -/
def pageIdOf (s : State) (cell : Nat) : Nat := match tget s.cells cell with | some c => c.page | none => 0

def pageOf (s : State) (cell : Nat) : Option Page :=
  match tget s.cells cell with
  | none => none
  | some c => tget s.pages c.page

/-- The context that a cell's page belongs to; context 0 where there is none. -/
def asidOf (s : State) (cell : Nat) : BitVec 8 := match pageOf s cell with | some p => p.asid | none => 0

def ctxOf (s : State) (cell : Nat) : Option Context := tget s.contexts (asidOf s cell)

/-- The die that a cell's page stands on. -/
def dieOf (s : State) (cell : Nat) : Nat :=
  match pageOf s cell with
  | some { frame := some f, .. } => f.die
  | _ => 0

/-! ### The firing in focus -/

/-- The cell, the task, the instruction index and the firing of the instruction that executes now. -/
structure Cur where
  cell : Nat
  task : Nat
  ins : Nat
  c : Cell
  t : Task
  fr : Firing

def Cur.key (u : Cur) : Nat × Nat := (u.cell, u.task)

def cur (s : State) : Option Cur :=
  match s.focus with
  | none => none
  | some f =>
    match tget s.cells f.cell, tget s.tasks (f.cell, f.task) with
    | some c, some t =>
      match t.firing with
      | some fr => some ⟨f.cell, f.task, f.ins, c, t, fr⟩
      | none => none
    | _, _ => none

/-- The word at an address of a cell's instruction store; a scrubbed word is 0 (03 R82). -/
def storeWord (c : Cell) (a : Nat) : IWord := match tget c.store a with | some w => w | none => 0

/-- The 128 header bits of the block at a word address (02 R46, R47). -/
def headerAt (c : Cell) (a : Nat) : BitVec 128 := storeWord c a ++ storeWord c (a + 1)

def hField (h : BitVec 128) (lo n : Nat) : Nat := (h.extractLsb' lo n).toNat
def hSig (h : BitVec 128) : Nat := hField h 120 8
def hNins (h : BitVec 128) : Nat := hField h 113 7
def hInmask (h : BitVec 128) : Nat := hField h 105 8
def hOutmask (h : BitVec 128) : Nat := hField h 97 8
def hSread (h : BitVec 128) : Nat := hField h 89 8
def hSwrite (h : BitVec 128) : Nat := hField h 81 8
def hGuard (h : BitVec 128) : Nat := hField h 77 4
def hGidx (h : BitVec 128) : Nat := hField h 72 5
def hStage (h : BitVec 128) : Nat := hField h 64 8
/-- Exit entry `e` (R49). -/
def hExit (h : BitVec 128) (e : Nat) : BitVec 16 := h.extractLsb' (16 * e) 16
def exitValid (e : BitVec 16) : Bool := e.getLsbD 15
def exitAddr (e : BitVec 16) : Nat := (e.extractLsb' 0 11).toNat

/-- The number of instructions of the block at an address. -/
def blockLen (c : Cell) (a : Nat) : Nat := hNins (headerAt c a) + 1

/-- Instruction word `n` of the block at an address (R47). -/
def insWord (c : Cell) (a n : Nat) : IWord := storeWord c (a + 2 + n)

/-- Whether bit `n` of a mask is set. -/
def maskBit (m n : Nat) : Bool := m.testBit n

/-! ### Event records, notifications (13 R354, 18 R449) -/

/-- A bit of `NOTIFY` raised: rising from 0 it sends one notification message. -/
def raiseNotify (s : State) (b : Nat) : State :=
  if s.pkg.notify.getLsbD b then s
  else { s with pkg := { s.pkg with notify := s.pkg.notify ||| (1#4 <<< b), messages := s.pkg.messages + 1 } }

/-- `ESRC` (R354): die, frame x and y, site x and y of a cell. -/
def esrcOf (s : State) (cell : Nat) : BitVec 16 :=
  match tget s.cells cell with
  | none => 0
  | some c =>
    match pageOf s cell with
    | some { frame := some f, .. } =>
      BitVec.ofNat 2 f.die ++ BitVec.ofNat 4 f.x ++ BitVec.ofNat 4 f.y ++ BitVec.ofNat 3 c.sx ++ BitVec.ofNat 3 c.sy
    | _ => BitVec.ofNat 10 0 ++ BitVec.ofNat 3 c.sx ++ BitVec.ofNat 3 c.sy

/-- `ESRC` of a frame. -/
def esrcOfFrame (f : FrameId) : BitVec 16 := BitVec.ofNat 2 f.die ++ BitVec.ofNat 4 f.x ++ BitVec.ofNat 4 f.y ++ BitVec.ofNat 6 0

/-- A frame as an event's payload names it (16 R406). -/
def frameWord (f : FrameId) : BitVec 32 := BitVec.ofNat 32 ((esrcOfFrame f).toNat / 64)

def esrcOfPage (s : State) (page : Nat) : BitVec 16 :=
  match tget s.pages page with
  | some { frame := some f, .. } => esrcOfFrame f
  | _ => 0

/-- Append an event record to a context's log, or count it lost when the ring is full (R354). LOG 29, DEDUCED. -/
def logEvent (s : State) (asid : BitVec 8) (src : BitVec 16) (code : BitVec 16) (pay : BitVec 32) : State :=
  match tget s.contexts asid with
  | none => s
  | some x =>
    let r := x.events
    if (r.wr - r.rd).toNat ≥ 4096 then setCtx s asid { x with lost := x.lost + 1 }
    else
      let rec1 : EvRec := { time := s.pkg.aocnt, seqn := r.nextSeq, code := code, src := src, pay := pay }
      raiseNotify (setCtx s asid { x with events :=
        { r with slots := tput r.slots (r.wr.toNat % 4096) rec1, wr := r.wr + 1, nextSeq := r.nextSeq + 1 } }) 0

/-- The context is active at this instant (13 R341). -/
def touchCtx (s : State) (asid : BitVec 8) : State :=
  modCtx s asid fun x => { x with lastActive := s.pkg.aocnt }

def touchPage (s : State) (page : Nat) : State :=
  match tget s.pages page with
  | none => s
  | some p => touchCtx (setPage s page { p with lastActive := s.pkg.aocnt }) p.asid

def touchCell (s : State) (cell : Nat) : State := touchPage s (pageIdOf s cell)

/-! ### Arcs (02 R39-R45, 09 R225-R227, 12 R319) -/

/-- The arcs whose producer is an output port: one, or a copy for each replica of the consumer (12 R319). -/
def arcsFrom (s : State) (cell port : Nat) : List (Nat × Arc) :=
  s.arcs.filter fun ka => ka.2.pCell == cell && ka.2.pPort == port

/-- The arcs whose consumer is an input port: one, or a copy for each replica of the producer. -/
def arcsTo (s : State) (cell port : Nat) : List (Nat × Arc) :=
  s.arcs.filter fun ka => ka.2.cCell == cell && ka.2.cPort == port

/-- The tokens of an arc that its consumer holds. -/
def heldCount (a : Arc) : Nat := (a.queue.filter (·.held)).length

/-- The Spillway queue attached to an arc (13 R345), in the consumer's context. -/
def spillOf (s : State) (arc : Nat) (a : Arc) : Option (BitVec 8 × Nat × SpillQueue) :=
  match ctxOf s a.cCell with
  | none => none
  | some x =>
    let asid := asidOf s a.cCell
    (List.range 16).findSome? fun q =>
      if h : q < 16 then (if x.spill[q].arc = some arc then some (asid, q, x.spill[q]) else none) else none

/-- Entries that an item takes in a Spillway queue: two for a token tagged PTR (13 R345). -/
def spillEntries (it : Item) : Nat :=
  match it with
  | .data t => if t.fmt = Fmt.ptr then 2 else 1
  | _ => 1

def spillUsed (q : SpillQueue) : Nat := (q.items.map fun x => spillEntries x.item).sum

/-- How many more tokens the producer of an arc may offer now: its free slots; on a wire arc its empty output;
behind an extension, the room of the queue (02 R44, R45, 12 R307, R332, 13 R345, R347). -/
def arcRoom (s : State) (arc : Nat) (a : Arc) : Nat :=
  if a.slots = 0 then (if a.queue.all (·.held) && a.reserved == 0 then 1 else 0)
  else
    match spillOf s arc a with
    | some (_, _, q) =>
      if q.extension then 512 - spillUsed q - (a.queue.length - heldCount a) - a.reserved
      else a.slots - (a.queue.length + q.items.length) - a.reserved
    | none => a.slots - a.queue.length - a.reserved

/-- The replica that a cell's page belongs to is active (12 R319, R323). -/
def replicaActive (s : State) (cell : Nat) : Bool :=
  match pageOf s cell with
  | none => false
  | some p =>
    match p.stage, tget s.instances p.inst with
    | some g, some i => i.stages.any fun st => st.stage == g && st.active.contains p.replica && st.draining != some p.replica
    | _, _ => true

/-- The copy that a distributing port offers to: that of the active replica with the most free slots, the
lowest replica number winning a tie (R319); the port's one arc where it does not distribute. -/
def bestCopy (s : State) : List (Nat × Arc) → Option (Nat × Arc)
  | [] => none
  | [ka] => some ka
  | (k, a) :: r =>
    match bestCopy s r with
    | none => if replicaActive s a.cCell then some (k, a) else none
    | some (k', a') =>
      if replicaActive s a.cCell && (!replicaActive s a'.cCell || arcRoom s k a ≥ arcRoom s k' a') then some (k, a)
      else some (k', a')

/-- The arc that an output port sends on now. -/
def outArc (s : State) (cell port : Nat) : Option (Nat × Arc) := bestCopy s (arcsFrom s cell port)

/-- The position in a rotation of copies: those after the point first (12 R319). -/
def rotated (k : Nat) (l : List (Nat × Arc)) : List (Nat × Arc) := l.drop k ++ l.take k

/-- The head token of an arc, if its consumer holds one. -/
def headOf (a : Arc) : Option SlotTok :=
  match a.queue with
  | h :: _ => if h.held then some h else none
  | [] => none

def isTeardown : Item → Bool
  | .data t => t.kind == Kind.teardown
  | .control k _ _ => k == Kind.teardown
  | _ => false

def isMarker : Item → Bool
  | .data t => t.kind == Kind.marker
  | .control k _ _ => k == Kind.marker
  | _ => false

/-- A copy's head is a token for firing rules: neither a teardown token (R326) nor a marker (16 R419). -/
def headPlain (a : Arc) : Bool := (headOf a).any fun h => !isTeardown h.item && !isMarker h.item

/-- The arc whose head an input port presents: its arc, or on a merging port the first copy in turn that offers a token to
firing rules (R319); where none does, one that holds a token. -/
def inArc (s : State) (cell port : Nat) : Option (Nat × Arc) :=
  match arcsTo s cell port with
  | [] => none
  | [ka] => some ka
  | l =>
    let point := match tget s.cells cell with | some c => (tget c.rr port).getD 0 | none => 0
    let turn := rotated (point % l.length) l
    match turn.find? (fun ka => headPlain ka.2) with
    | some ka => some ka
    | none =>
      match turn.find? (fun ka => ka.2.queue.any (·.held)) with
      | some ka => some ka
      | none => l.head?

def itemSeq : Item → BitVec 22
  | .data t => t.seq
  | .pred p => p.seq
  | .control _ _ q => q
  | .command _ q => q

def withSeq (it : Item) (q : BitVec 22) : Item :=
  match it with
  | .data t => .data { t with seq := q }
  | .pred p => .pred { p with seq := q }
  | .control k l _ => .control k l q
  | .command c _ => .command c q

def poisonItem (it : Item) : Item :=
  match it with
  | .data t => .data { t with poison := true }
  | .pred p => .pred { p with poison := true }
  | .command c q => .command { c with poison := true } q
  | x => x

/-- A data token as its producing port sends it: `SEQ` of the port's counter, `BHEAD` on the burst's first
data token, and the head's `SCALE` on every data token of the burst (02 R39, R41, 04 R101). -/
def portStamp (a : Arc) (it : Item) : Item × PortState :=
  let p := a.ports
  match it with
  | .data t =>
    if t.kind = Kind.data then
      let head := decide (p.pData % a.burst = 0)
      let sc := if head then t.scale else p.headScale
      (.data { t with seq := p.pSeq, bhead := head, scale := sc },
        { p with pSeq := p.pSeq + 1, pData := p.pData + 1, headScale := sc })
    else (.data { t with seq := p.pSeq, bhead := false }, { p with pSeq := p.pSeq + 1 })
  | x => (withSeq x p.pSeq, { p with pSeq := p.pSeq + 1 })

/-- An item put on an arc as offered (09 R225); a teardown token closes the producing port (12 R326). -/
def offer (s : State) (arc : Nat) (it : Item) (level : Option Nat) : State :=
  match tget s.arcs arc with
  | none => s
  | some a =>
    let (it', p) := portStamp a it
    let p := if isTeardown it then { p with pClosed := true } else p
    let s := setArc s arc { a with ports := p, queue := a.queue ++ [⟨it', false, level, .good⟩] }
    match it with
    | .data t =>
      match pageOf s a.pCell with
      | some pg => if t.kind = Kind.data && pg.sourcePage then modInst s pg.inst fun i => { i with sinceCut := i.sinceCut + 1 } else s
      | none => s
    | _ => s

/-- Change a context's balance counter, where it is kept (13 R343). -/
def addBalance (s : State) (asid : BitVec 8) (d : Int) : State :=
  modCtx s asid fun x => if x.balanceKept then { x with balance := x.balance + d } else x

/-- A tile frees the replay entry of a token given up (16 R410). -/
def freeReplay (s : State) (arc : Nat) (a : Arc) (q : BitVec 22) : State :=
  modCell s a.pCell fun c =>
    if c.kind = .t then { c with replay := c.replay.filter fun r => !(r.arc == arc && r.tok.seq == q) } else c

/-- The number of a marker token; 0 for any other item. -/
def markerNum (it : Item) : Nat :=
  match it with
  | .data t => if t.kind == Kind.marker then t.lanes[0].toNat else 0
  | .control k l _ => if k == Kind.marker then l.toNat else 0
  | _ => 0

/-- How many held markers of cuts that the page has saved stand first in a queue (16 R419). -/
def staleHeads (saved : Nat) : List SlotTok → Nat
  | [] => 0
  | x :: r => if x.held && isMarker x.item && decide (markerNum x.item ≤ saved) then staleHeads saved r + 1 else 0

/-- Markers at an arc's head whose cut the consumer's page has saved are given up (16 R419). -/
def clearMarkers (s : State) (arc : Nat) : State :=
  match tget s.arcs arc with
  | none => s
  | some a =>
    let n := staleHeads (match pageOf s a.cCell with | some p => p.saved | none => 0) a.queue
    if n = 0 then s
    else addBalance (setArc s arc { a with queue := a.queue.drop n }) (asidOf s a.cCell) (-n)

/-- The consumer gives up the head of an arc (02 R55 step 1). -/
def giveUp (s : State) (arc : Nat) : State :=
  match tget s.arcs arc with
  | none => s
  | some a =>
    match a.queue with
    | [] => s
    | h :: r =>
      let s := setArc s arc { a with queue := r }
      let s := freeReplay s arc a (itemSeq h.item)
      let s := modCell s a.cCell fun c =>
        let n := (arcsTo s a.cCell a.cPort).length
        if n ≤ 1 then c
        else
          let at_ := ((arcsTo s a.cCell a.cPort).map (·.1)).findIdx (· == arc)
          { c with rr := tput c.rr a.cPort ((at_ + 1) % n) }
      clearMarkers (touchCell (addBalance s (asidOf s a.cCell) (-1)) a.cCell) arc

/-! ### Reservations and traps (12 R308, R309, 16 R429-R432) -/

def releaseArcs (s : State) : List Nat → State
  | [] => s
  | k :: r => releaseArcs (modArc s k fun a => { a with reserved := a.reserved - 1 }) r

def modFifo (s : State) (asid : BitVec 8) (f : Nat) (g : Fifo → Fifo) : State :=
  modCtx s asid fun x => if h : f < 16 then { x with fifos := x.fifos.set f (g x.fifos[f]) } else x

def releasePushes (s : State) (asid : BitVec 8) : List Nat → State
  | [] => s
  | f :: r => releasePushes (modFifo s asid f fun q => { q with resPush := q.resPush - 1 }) asid r

def releasePops (s : State) (asid : BitVec 8) : List Nat → State
  | [] => s
  | f :: r => releasePops (modFifo s asid f fun q => { q with resPop := q.resPop - 1 }) asid r

def releaseFifos (s : State) (asid : BitVec 8) (pushes pops : List Nat) : State := releasePops (releasePushes s asid pushes) asid pops

def releaseCards (s : State) : List Nat → State
  | [] => s
  | c :: r => releaseCards (modChain s c fun x => { x with reserved := x.reserved - 1 }) r

/-- Every reservation of a firing released (R309). -/
def releaseAll (s : State) (cell : Nat) (fr : Firing) : State :=
  releaseCards (releaseFifos (releaseArcs s fr.resArcs) (asidOf s cell) fr.resPush fr.resPop) fr.resCards

/-- The number of a trap code (R431). -/
def trapCode : TrapCode → Nat
  | .illop => 0x01
  | .fmtMismatch => 0x02
  | .bounds => 0x03
  | .perm => 0x04
  | .ptrTag => 0x05
  | .translate => 0x06
  | .align => 0x07
  | .stuck => 0x08
  | .predCount => 0x09
  | .guardFail => 0x0A
  | .seqGap => 0x0B
  | .cutFail => 0x0C
  | .brk => 0x0D
  | .user => 0x0E
  | .chainFmt => 0x0F
  | .collFail => 0x10

/-- The cause of a trap that says no more than its code. -/
def trapOf (c : TrapCode) : TrapInfo := ⟨c, 0, 0, 0, 0⟩

/-- A trap record queued for the context's ring (R430), naming the site of cell `src`; `TRAP_RECORD_WRITE` writes it when there is room. -/
def queueTrap (s : State) (src cell task : Nat) (info : TrapInfo) (ins : Nat) (blk : Nat) (auto : Bool)
    (arcs : List (BitVec 32)) (pages : List Nat) : State :=
  let cut := match pageOf s cell with
    | some p => (match tget s.instances p.inst with | some i => i.lastCut | none => 0)
    | none => 0
  let rec1 : TrapRec :=
    { time := s.pkg.aocnt, seqn := 0, info := info, src := esrcOf s src, cell := cell, task := task, auto := auto
      ins := BitVec.ofNat 8 ins, blk := BitVec.ofNat 16 (blk % 2048), cut := BitVec.ofNat 32 cut, arcs := arcs
      pages := pages }
  modCtx s (asidOf s cell) fun x => { x with trapsDue := x.trapsDue ++ [rec1] }

/-- `TAUX` of an `ILLOP` that an executing instruction takes is its word's address (R431). -/
def illopAt (info : TrapInfo) (blk ins : Nat) : TrapInfo :=
  if info.code = .illop && info.aux == 0 && decide (ins < 128) then { info with aux := blk + 2 + ins } else info

/-- The memory-order index of a word that carries one (02 R57). -/
def moOf (w : IWord) : Option Nat :=
  match rowOf (opOf w) with
  | some r => if r.mo then some (bits w.toNat 23 19) else none
  | none => none

/-- What is left of a task's operations that have not performed when instruction `ins` of its firing stops it: of that firing,
those of a lower memory-order index; where the instruction has none, nothing (10 R266, 16 R429). -/
def keptPending (c : Option Cell) (t : Task) (ins : Nat) : List Pending :=
  let mo := c.bind fun x => t.firing.bind fun fr => if 128 ≤ ins then none else moOf (insWord x fr.block ins)
  t.pending.filter fun d => d.firing != t.firings || mo.any fun m => decide (d.mo < m)

/-- TAKING A TRAP (R429, R430): the firing, if one is in flight, does not retire and its reservations are
released; the task becomes Trapped; a record is queued.  Memory operations already performed stay. -/
def takeTrapFrom (s : State) (src cell task : Nat) (info : TrapInfo) (ins : Nat) : State :=
  match tget s.tasks (cell, task) with
  | none => s
  | some t =>
    let info := illopAt info t.block ins
    let left := keptPending (tget s.cells cell) t ins
    let s := match t.firing with | some fr => releaseAll s cell fr | none => s
    let s := setTask s (cell, task) { t with
      state := .trapped, firing := none, firings := t.firings + 1, pending := left }
    queueTrap s src cell task info ins t.block false [] []

def takeTrap (s : State) (cell task : Nat) (info : TrapInfo) (ins : Nat) : State := takeTrapFrom s cell cell task info ins

/-- RETURNING FROM A TRAP by RETRY (R432): Waiting at the trapping block, whose firing begins anew. -/
def retryTask (s : State) (cell task : Nat) : State :=
  modTask s (cell, task) fun t =>
    if t.state = .trapped then { t with state := .waiting, brkExit := none, stuck := false } else t

/-- Every bank token that a task holds is given: not held, turn + 1 (10 R288, 12 R310). -/
def giveBanks (s : State) (k : Nat × Nat) : List (Nat × Nat) → State
  | [] => s
  | b :: r =>
    giveBanks (modBank s b fun x =>
      if x.holder == some k then { x with holder := none, turn := x.turn + 1 } else x) k r

/-- A task finishes (12 R310, R337): Finished with its bank tokens given, or, with its restart bit set,
Waiting at its entry block, where its first firing is an acquire at level 7. -/
def finishTask (s : State) (cell task : Nat) : State :=
  match tget s.tasks (cell, task) with
  | none => s
  | some t =>
    let s := giveBanks s (cell, task) t.banks
    setTask s (cell, task)
      (if t.restart then { t with state := .waiting, block := t.entry, restart := false, acqAll := true, firing := none }
       else { t with state := .finished, firing := none })

/-- RETURNING FROM A TRAP by CONTINUE, for `BRK` (R432, R435): Waiting at the block its exit chose, or
Finished where that exit's entry has `EV` = 0. -/
def continueTask (s : State) (cell task : Nat) : State :=
  match tget s.tasks (cell, task) with
  | none => s
  | some t =>
    match t.brkExit with
    | some a => setTask s (cell, task) { t with state := .waiting, block := a, brkExit := none }
    | none => finishTask s cell task

/-! ### Delivering results (02 R52-R54) -/

/-- The target fields of an instruction word: (consumer, slot) where `TV` is 1 (R53). -/
def targetOf (t : BitVec 10) : Option (Nat × SlotCode) :=
  if t.getLsbD 9 then some ((t.extractLsb' 0 7).toNat, t.extractLsb' 7 2) else none

def delivery (t : BitVec 10) (v : Option Val) : List (Nat × SlotCode × Option Val) :=
  match targetOf t with
  | some (n, sl) => [(n, sl, v)]
  | none => []

/-- The instruction has executed, with these deliveries. -/
def markDone (fr : Firing) (ins : Nat) (ds : List (Nat × SlotCode × Option Val)) (fl : FlagSet) : Firing :=
  { fr with done := ins :: fr.done, got := fr.got ++ ds, raised := flagsOr fr.raised fl }

/-- Nulls to every valid target (R54). -/
def nullAll (f : Fields) : List (Nat × SlotCode × Option Val) := delivery f.t0 none ++ delivery f.t1 none

end Sys2Proof.Machine
end

