-- ==== Sys2Proof/Machine/Operands.lean ====
section
/-! DEFINITION. Operands: tokens and their elements, format checks, the slots of an instruction, and the one
gate through which every instruction's meaning runs (02_encoding.md R52-R58, 05_arith_vector.md R118-R123). -/

namespace Sys2Proof.Machine

/-! ### Tokens -/

/-- INT64 and PTR hold an element in two lanes (02 R36). -/
def isPair (f : Fmt) : Bool := f == Fmt.int64 || f == Fmt.ptr

/-- `VALID` by the pair rules: INT64 and PTR pairs (2j, 2j+1) and KEYVAL pairs (j, 8+j) are valid together (R36, 04 R94). -/
def pairValid (f : Fmt) (v : BitVec 16) : BitVec 16 :=
  if isPair f then BitVec.ofFnLE fun i => v.getLsbD (2 * (i.val / 2)) && v.getLsbD (2 * (i.val / 2) + 1)
  else if f == Fmt.keyval then BitVec.ofFnLE fun i => v.getLsbD (i.val % 8) && v.getLsbD (i.val % 8 + 8)
  else v

/-- Six-bit formats have spare bits [31:30], written zero (04 R96). -/
def spareMask (f : Fmt) : Lane := if f == Fmt.e3m2 || f == Fmt.e2m3 || f == Fmt.e3m2s then 0x3FFFFFFF else 0xFFFFFFFF

/-- A token as it is emitted: pair rule, zero in invalid lanes (R37), zero spare bits, and a bounds half only
under the tag PTR (15 R380). -/
def normal (t : Token) : Token :=
  let v := pairValid t.fmt t.valid
  { t with
    valid := v
    lanes := Vector.ofFn fun i => if v.getLsbD i.val then t.lanes[i] &&& spareMask t.fmt else 0
    bounds := Vector.ofFn fun j => if t.fmt == Fmt.ptr && v.getLsbD (2 * j.val) then t.bounds[j] else 0 }

/-- The sideband of a result formed without a token operand (R33's reset column, R38). -/
abbrev blankToken : Token :=
  { lanes := Vector.replicate 16 0, valid := 0xFFFF, fmt := 0, kind := 0, poison := false, bhead := false
    scale := 0x7F, tag := 0, seq := 0, bounds := Vector.replicate 8 0 }

def broadcast (x : Lane) : Vector Lane 16 := Vector.replicate 16 x

def laneAt (t : Token) (i : Nat) : Lane := if h : i < 16 then t.lanes[i] else 0
def validAt (t : Token) (i : Nat) : Bool := t.valid.getLsbD i
def boundAt (t : Token) (j : Nat) : BitVec 64 := if h : j < 8 then t.bounds[j] else 0

/-- Element `j` of a two-lane format: lanes 2j and 2j+1, low half in the even lane. -/
def pairAt (t : Token) (j : Nat) : Nat := (laneAt t (2 * j)).toNat + 2 ^ 32 * (laneAt t (2 * j + 1)).toNat

/-- The burst-scaled formats (04 R100). -/
def burstScaled (f : Fmt) : Bool :=
  f == Fmt.e4m3s || f == Fmt.e5m2s || f == Fmt.e2m1s || f == Fmt.cb4s || f == Fmt.int8s || f == Fmt.e3m2s

/-- A data token as a predicate, and back (02 R43). -/
def predToToken (p : PredToken) : Token :=
  { blankToken with
    lanes := Vector.ofFn fun i => BitVec.ofNat 32 ((p.lp.getLsbD i.val).toNat + 2 * p.scalar.toNat)
    fmt := Fmt.pred, poison := p.poison, seq := p.seq }

def tokenToPred (t : Token) : PredToken :=
  { poison := t.poison, seq := t.seq
    scalar := validAt t 0 && (laneAt t 0).getLsbD 1
    lp := BitVec.ofFnLE fun i => validAt t i.val && (laneAt t i.val).getLsbD 0 }

def valToken : Val → Token
  | .data t => t
  | .pred p => predToToken p

/-! ### Elements -/

/-- Sub-element `j` of a lane (04 R95): the bits, as a number. -/
def subAt (f : Fmt) (x : Lane) (j : Nat) : Nat := x.toNat / 2 ^ (fmtWidth f * j) % 2 ^ fmtWidth f

/-- Element at lane `i`, sub-element `j`; in a two-lane format the element that lane `i` belongs to. -/
def elemAt (f : Fmt) (t : Token) (i j : Nat) : Nat :=
  if isPair f then pairAt t (i / 2) else subAt f (laneAt t i) j

/-- A lane from its sub-elements, lowest first. -/
def packSubs (w : Nat) : List Nat → Nat
  | [] => 0
  | e :: r => e % 2 ^ w + 2 ^ w * packSubs w r

/-- A result computed element by element in the valid lanes: `op lane sub` gives an element's bits and flags;
a lane's flags are the OR of its sub-elements' (04 R96), and a pair's element sets both lanes (R115). -/
def elemWise (f : Fmt) (v : BitVec 16) (op : Nat → Nat → Nat × LaneFlags) : Vector (Lane × LaneFlags) 16 :=
  Vector.ofFn fun i =>
    if !v.getLsbD i.val then (0, 0)
    else if isPair f then
      let r := op i.val 0
      (BitVec.ofNat 32 (r.1 / 2 ^ (32 * (i.val % 2))), r.2)
    else
      let rs := (List.range (perLane f)).map fun j => op i.val j
      (BitVec.ofNat 32 (packSubs (fmtWidth f) (rs.map (·.1))), rs.foldl (fun x r => x ||| r.2) 0)

def lanesOf (r : Vector (Lane × LaneFlags) 16) : Vector Lane 16 := Vector.ofFn fun i => r[i].1
def flagsOf (r : Vector (Lane × LaneFlags) 16) : FlagSet := Vector.ofFn fun i => r[i].2

/-- The signed value of `w` bits. -/
def signedOf (w x : Nat) : Int := if x < 2 ^ (w - 1) then (x : Int) else (x : Int) - 2 ^ w

/-- The integer formats read as signed (04 R93). -/
def intSigned (f : Fmt) : Bool := f == Fmt.int64 || f == Fmt.int32 || f == Fmt.int16 || f == Fmt.int8
  || f == Fmt.int4 || f == Fmt.int8s

/-- The integer an element stands for. -/
def intOf (f : Fmt) (x : Nat) : Int := if intSigned f then signedOf (fmtWidth f) x else x

/-- `Wrap(v, fmt)` as stored bits (05 R133). -/
def wrapInt (f : Fmt) (v : Int) : Nat := (v % 2 ^ fmtWidth f).toNat

def intMin (f : Fmt) : Int := if intSigned f then -(2 ^ (fmtWidth f - 1)) else 0
def intMax (f : Fmt) : Int := if intSigned f then 2 ^ (fmtWidth f - 1) - 1 else 2 ^ fmtWidth f - 1

/-- `Clamp(v, fmt, i)` as stored bits with its flag (05 R133). -/
def clampInt (f : Fmt) (v : Int) : Nat × LaneFlags :=
  if v < intMin f then (wrapInt f (intMin f), LaneFlags.isat)
  else if intMax f < v then (wrapInt f (intMax f), LaneFlags.isat)
  else (wrapInt f v, 0)

/-! ### Formats of an instruction's operands (02 R58, 05 R120, R123) -/

/-- `FMTMISMATCH` with the slot and the tag found (16 R431). -/
def fmtTrap (slot : Nat) (tag : Fmt) : TrapInfo := ⟨.fmtMismatch, 0, slot + 256 * tag.toNat, 0, 0⟩

def illop : TrapInfo := trapOf .illop

/-- The element format: `FT`, or the tag of operand A. A pointer's address words are read as INT64 (LOG 9, DEDUCED). -/
def effFmt (f : Fields) (a : Token) : Fmt :=
  if f.ft != Fmt.fromOperand then f.ft else if a.fmt == Fmt.ptr then Fmt.int64 else a.fmt

/-- The result's tag: `FT`, or operand A's; never PTR, but RAW (R123). -/
def resTag (f : Fields) (a : Token) : Fmt :=
  let g := if f.ft != Fmt.fromOperand then f.ft else a.fmt
  if g == Fmt.ptr then Fmt.raw else g

/-- A result token by R38: kind 000, `TAG` of A, `SCALE` of A where the format is burst-scaled. -/
def result (a : Token) (tag : Fmt) (lanes : Vector Lane 16) (valid : BitVec 16) (poison : Bool) : Token :=
  normal { a with
    lanes := lanes, valid := valid, fmt := tag, kind := 0, poison := poison, bhead := false, seq := 0
    scale := if burstScaled tag then a.scale else 0x7F }

/-- A data token whose tag is the wanted one, or a pointer, which passes as R123 gives; the trap otherwise. -/
def wantTag (slot : Nat) (t : Token) (want : Fmt) : Option TrapInfo :=
  if t.kind == 0 && (t.fmt == want || t.fmt == Fmt.ptr) then none else some (fmtTrap slot t.fmt)

/-- As `wantTag`, for a set of tags. -/
def wantIn (slot : Nat) (t : Token) (ok : Fmt → Bool) : Option TrapInfo :=
  if t.kind == 0 && (ok t.fmt || t.fmt == Fmt.ptr) then none else some (fmtTrap slot t.fmt)

/-- A format that some class holds: 0x1C to 0x1E are in none (02 R68). -/
def knownFmt (f : Fmt) : Bool := decide (f.toNat < 0x1C)

/-- Operand A against `FT`, or against the class under 0x1F. -/
def wantA (f : Fields) (a : Token) (cls : Fmt → Bool) : Option TrapInfo :=
  if f.ft != Fmt.fromOperand then wantTag 0 a f.ft else wantIn 0 a cls

/-- A token that a port or a register gives is checked against `FT` unless it is 0x1F (02 R58); a pointer keeps its tag (R123). -/
def readTag (slot : Nat) (f : Fields) (t : Token) : Option TrapInfo :=
  if f.ft == Fmt.fromOperand || t.fmt == f.ft then none else some (fmtTrap slot t.fmt)

/-- A token carried unchanged is checked against `FT` (02 R58), under 0x1F against the class of every format (05 R120); a pointer keeps
its tag (R123). -/
def carryTag (slot : Nat) (f : Fields) (t : Token) : Option TrapInfo :=
  if (if f.ft == Fmt.fromOperand then knownFmt t.fmt else t.fmt == f.ft) then none else some (fmtTrap slot t.fmt)

/-- A data token carried unchanged. -/
def carryData (slot : Nat) (f : Fields) (t : Token) : Option TrapInfo :=
  if t.kind == 0 then carryTag slot f t else some (fmtTrap slot t.fmt)

/-- A further data operand carries the tag of operand A (R120). A pointer passes as what is required, and as operand A
counts as the format `m` that the instruction reads it in (R123, LOG 9, DEDUCED). -/
def wantSame (m : Fmt) (slot : Nat) (a t : Token) : Option TrapInfo :=
  wantTag slot t (if a.fmt == Fmt.ptr then m else a.fmt)

/-- A UINT32 or INT32 operand with lane 0 valid. -/
def wantWord (slot : Nat) (t : Token) : Option TrapInfo :=
  if t.kind == 0 && (t.fmt == Fmt.int32 || t.fmt == Fmt.uint32 || t.fmt == Fmt.ptr) && validAt t 0 then none
  else some (fmtTrap slot t.fmt)

/-- The operand that `IMM` fills (R119): the value in every element of every lane. -/
def fillToken (f : Fmt) (imm : BitVec 24) : Token :=
  let e := if signedFmt f then wrapInt f imm.toInt else imm.toNat % 2 ^ denseWidth f
  let lanes : Vector Lane 16 :=
    if isPair f then Vector.ofFn fun i => BitVec.ofNat 32 (e / 2 ^ (32 * (i.val % 2)))
    else broadcast (BitVec.ofNat 32 (packSubs (denseWidth f) (List.replicate (perLane f) e)))
  { blankToken with lanes := lanes, fmt := f }

/-! ### Slots (R54) -/

inductive SlotRead where
  | unnamed
  | unfilled
  | null
  | value (v : Val)
  | clash

/-- How many producers in the block name a slot of instruction `n`. -/
def producers (c : Cell) (blk n : Nat) (sl : SlotCode) : Nat :=
  (List.range n).foldl (fun k m =>
    let f := fieldsOf (insWord c blk m)
    k + (if targetOf f.t0 = some (n, sl) then 1 else 0) + (if targetOf f.t1 = some (n, sl) then 1 else 0)) 0

/-- The deliveries to a slot so far. -/
def gotAt (fr : Firing) (n : Nat) (sl : SlotCode) : List (Option Val) :=
  (fr.got.filter fun d => d.1 == n && d.2.1 == sl).map (·.2.2)

def readSlot (u : Cur) (sl : SlotCode) : SlotRead :=
  let k := producers u.c u.fr.block u.ins sl
  let ds := gotAt u.fr u.ins sl
  if k = 0 then .unnamed
  else if ds.length < k then .unfilled
  else
    match ds.filterMap id with
    | [] => .null
    | [v] => .value v
    | _ => .clash

/-- The operands as an instruction's body sees them: none where a slot is not named, or null for an
instruction that keeps running on a null. -/
structure Opnds where
  a : Option Token
  b : Option Token
  c : Option Token
  p : Option PredToken

def slotToken : SlotRead → Option Token
  | .value v => some (valToken v)
  | _ => none

/-- A memory operation of the firing with a lower index has neither executed nor been nullified (09 R235). -/
def moBlocked (u : Cur) (f : Fields) : Bool :=
  (List.range (blockLen u.c u.fr.block)).any fun m =>
    match moOf (insWord u.c u.fr.block m) with
    | some k => decide (k < bits f.imm.toNat 23 19) && !u.fr.done.contains m
    | none => false

/-! ### The gate -/

inductive Res where
  | none
  | one (v : Val)
  | two (v w : Val)

/-- What an instruction does when its slots are filled: trap, or trap with part of its work done; stop on poison at a control use (16 R409);
stay unexecuted for now, with or without having sent a request; count as nullified; or execute, with results and flags. -/
inductive Act where
  | trap (t : TrapInfo)
  | trapWith (s : State) (t : TrapInfo)
  | control
  | wait
  | pause (s : State)
  | nullified
  | done (s : State) (r : Res) (fl : FlagSet)

/-- One data result, without flags. -/
def oneData (s : State) (t : Token) : Act := .done s (.one (.data (normal t))) noFlags

/-- The immediate, unsigned. -/
def immN (f : Fields) : Nat := f.imm.toNat

/-- Which nulls nullify: any, both A and B (`MERGE`, 05 R129), none of A (`INVAR`, R130). -/
inductive NullRule where
  | any | merge | invar
  deriving DecidableEq

/-- The deliveries of a result (R52, R118). -/
def resultTo (f : Fields) (scalar : Bool) : Res → List (Nat × SlotCode × Option Val)
  | .none => []
  | .one v =>
    if f.pr == 3 then
      (if scalar then delivery f.t0 (some v) ++ delivery f.t1 none
       else delivery f.t0 none ++ delivery f.t1 (some v))
    else delivery f.t0 (some v) ++ delivery f.t1 (some v)
  | .two v w => delivery f.t0 (some v) ++ delivery f.t1 (some w)

/-- Step 1 of a freeze (16 R424): the pages that are not frozen stop choosing, and their tasks that are Waiting, Ready or
Firing are to be Frozen. -/
def beginFreeze (s : State) (pages : List Nat) : State :=
  { s with
    pages := tmap s.pages fun k p => if pages.contains k && !p.frozen then { p with freezing := true } else p
    tasks := tmap s.tasks fun k t =>
      if pages.contains (pageIdOf s k.1) && (t.state == .waiting || t.state == .firing) then { t with frozen := true } else t }

/-- A freeze waits while it overlaps one in progress (16 R424). -/
def freezesMeet (l : List FreezeReq) (pages : List Nat) : Bool := l.any fun r => r.pages.any fun p => pages.contains p

def requestFreeze (s : State) (asid : BitVec 8) (pages : List Nat) (byMailbox : Bool) : State :=
  let s' := { s with freezes := s.freezes ++ [⟨asid, pages, byMailbox⟩] }
  if freezesMeet s.freezes pages then s' else beginFreeze s' pages

/-- A frame found faulty (16 R417): withdrawn from exposure, logged, its page frozen; the record of each of its faults follows when
the page is relocated or found to have no frame to go to. -/
def frameFaulty (s : State) (page : Nat) (fault : PageFault) : State :=
  match tget s.pages page with
  | none => s
  | some p =>
    match p.frame with
    | none => s
    | some fid =>
      let fr := (tget s.pkg.frames fid).getD ⟨true, true, true, false, false, 950, none⟩
      let s := { s with pkg := { s.pkg with frames := tput s.pkg.frames fid { fr with faulty := true, exposed := false } } }
      let s := logEvent s p.asid (esrcOfPage s page) 0xF009 (frameWord fid)
      requestFreeze (setPage s page { p with faults := p.faults ++ [fault] }) p.asid [page] false

def imageAt (p : Page) (c : Nat) : Option PageImage := p.images.find? (·.cut == c)

/-- Why an instance cannot be rolled back, as a `CUTFAIL` cause (16 R409, R431): no cut is complete, the last interval is void,
or a page's image cannot be read. A page returned before the cut has none and needs none. -/
def noRollback (s : State) (inst : BitVec 32) (i : Instance) : Option Nat :=
  let ps := s.pages.filter fun kp => kp.2.inst == inst
  if i.lastCut = 0 then some 1
  else if ps.any (fun kp => kp.2.undoVoid.any (i.lastCut ≤ ·)) then some 2
  else if ps.any (fun kp => match imageAt kp.2 i.lastCut with
      | some g => g.poisoned
      | none => !kp.2.returned) then some 3
  else none

/-- Poison at a control use (16 R409): the firing stops and the instance is to be rolled back, or, where that cannot be or the
same cause recurs before a newer cut completes, the task traps `CUTFAIL`. -/
def controlUse (s : State) (u : Cur) : State :=
  let cutFail (k : Nat) := takeTrap s u.cell u.task ⟨.cutFail, 0, k, 0, 0⟩ u.ins
  match tget s.instances u.t.inst with
  | none => cutFail 1
  | some i =>
    let cause := (u.c.page, u.cell, u.fr.block, u.ins)
    match noRollback s u.t.inst i with
    | some k => cutFail k
    | none =>
      if i.causes.contains cause then cutFail 5
      else
        let s := releaseAll s u.cell u.fr
        let s := setTask s u.key { u.t with
          state := .trapped, firing := none, firings := u.t.firings + 1, pending := keptPending (some u.c) u.t u.ins }
        setInst s u.t.inst { i with rollbackDue := i.rollbackDue ++ [(u.cell, u.task, u.ins)], causes := cause :: i.causes }

/-- The instruction has executed with deliveries and flags. -/
def retireIns (s : State) (u : Cur) (ds : List (Nat × SlotCode × Option Val)) (fl : FlagSet) :
    Host.Outcome State Fault Refusal :=
  .next (modFiring s u.key fun fr => markDone fr u.ins ds fl)

/-- One transient Guard mismatch (16 R415): logged and counted. -/
def guardTransient (s : State) (u : Cur) : State :=
  let s := logEvent s (asidOf s u.cell) (esrcOf s u.cell) 0xF008 (BitVec.ofNat 32 u.ins)
  modPage s u.c.page fun p => { p with transients := p.transients + 1 }

/-- Instructions whose result depends on the mode word, by `RM` or by `FTZ` (04 R111-R113). -/
def usesMode (op : Nat) : Bool :=
  decide (0x080 ≤ op ∧ op ≤ 0x09D) || [0x0A6, 0x0A7, 0x0A8, 0x0A9, 0x0AB, 0x0AE, 0x0AF, 0x0B3, 0x0B4, 0x0B5, 0x0B8, 0x147].contains op

def poisonVal : Val → Val
  | .data t => .data { t with poison := true }
  | .pred p => .pred { p with poison := true }

/-- A result that a mode word reading poisoned has gone into is poisoned (16 R404). -/
def spoilRes (u : Cur) (r : Res) : Res :=
  if u.t.spoilt.contains .mode && usesMode (opOf (insWord u.c u.fr.block u.ins)) then
    match r with
    | .none => .none
    | .one v => .one (poisonVal v)
    | .two v w => .two (poisonVal v) (poisonVal w)
  else r

/-- An executing body's outcome turned into the machine's. -/
def conclude (s : State) (u : Cur) (f : Fields) (scalar : Bool) : Act → Host.Outcome State Fault Refusal
  | .trap t => .next (takeTrap s u.cell u.task t u.ins)
  | .trapWith s' t => .next (takeTrap s' u.cell u.task t u.ins)
  | .control => .next (controlUse s u)
  | .wait => .next s
  | .pause s' => .next s'
  | .nullified => retireIns s u (nullAll f) noFlags
  | .done s' r fl => retireIns s' u (resultTo f scalar (spoilRes u r)) fl

/-- Whether slots that were read make the instruction null, by its rule. -/
def slotsNull (rule : NullRule) (ra rb rc : SlotRead) : Bool :=
  let n : SlotRead → Bool := fun r => match r with | .null => true | _ => false
  match rule with
  | .any => n ra || n rb || n rc
  | .merge => n ra && n rb
  | .invar => n rb || n rc

def slotsClash (ra rb rc rp : SlotRead) : Bool :=
  let n : SlotRead → Bool := fun r => match r with | .clash => true | _ => false
  n ra || n rb || n rc || n rp

def slotsUnfilled (ra rb rc rp : SlotRead) : Bool :=
  let n : SlotRead → Bool := fun r => match r with | .unfilled => true | _ => false
  n ra || n rb || n rc || n rp

/-- A required slot that no producer names (R54; refused at check 8). -/
def slotsMissing (r : OpRow) (f : Fields) (ra rb rc : SlotRead) : Bool :=
  let n : SlotRead → Bool := fun x => match x with | .unnamed => true | _ => false
  let q := (slotUse r f).1
  (q.testBit 0 && n ra) || (q.testBit 1 && n rb) || (q.testBit 3 && n rc)

/-- The predicate of slot P: none without `PR`; a data token must be tagged PRED (R43), which is no check of R58 or R120,
so a pointer passes as little as any other tag. -/
inductive PredRead where
  | always
  | null
  | bad (tag : Fmt)
  | is (p : PredToken)

def readPred (f : Fields) : SlotRead → PredRead
  | .value (.pred p) => if f.pr == 0 then .always else .is p
  | .value (.data t) =>
    if f.pr == 0 then .always
    else if t.kind == 0 && t.fmt == Fmt.pred then .is (tokenToPred t) else .bad t.fmt
  | .null => if f.pr == 0 then .always else .null
  | _ => if f.pr == 0 then .always else .bad 0

/-- `PR` lets the instruction execute (R52). -/
def prExecutes (f : Fields) (p : PredToken) : Bool :=
  if f.pr == 1 then p.scalar else if f.pr == 2 then !p.scalar else true

/-- Guard mode ALL covers the instruction: a V-cell's, in a firing begun under it (16 R413, R414). LOG 3, DESIGN CHOICE. -/
def guarded (u : Cur) : Bool := u.fr.guard == 2 && u.c.kind == .v

/-- The body run under Guard mode (16 R415): a repeated mismatch leaves the instruction unexecuted and the
frame faulty; one mismatch is logged and the repeated result used. -/
def runBody (s : State) (u : Cur) (f : Fields) (scalar : Bool) (o : Opnds) (body : State → Cur → Opnds → Act) :
    Host.Outcome State Fault Refusal :=
  if guarded u && (s.focus.map (·.guardHit)) == some .twice then
    .next (frameFaulty s u.c.page ⟨trapOf .guardFail, u.cell, u.task, u.ins⟩)
  else if guarded u && (s.focus.map (·.guardHit)) == some .once then
    conclude (guardTransient s u) u f scalar (body (guardTransient s u) u o)
  else conclude s u f scalar (body s u o)

/-- A `CONTRACT` that has stopped after an output element (16 R424). -/
def contractRests (u : Cur) (d : PartAccess) : Bool :=
  opOf (insWord u.c u.fr.block u.ins) == 0x14C && decide (224 ≤ d.bytes.length) && d.reads.isEmpty

/-- An instruction is under way: some of its accesses have been made, and it does not rest between output elements. -/
def underWay (u : Cur) : Bool := u.fr.parts.any fun d => d.ins == u.ins && !contractRests u d

/-- An instruction may go on: its task is not to be frozen, or it is under way and its page has not been frozen yet: executing
instructions complete (16 R424). -/
def mayGoOn (s : State) (u : Cur) : Bool := !u.t.frozen || underWay u && (tget s.pages u.c.page).any fun p => p.freezing && !p.frozen

/-- THE GATE of every instruction's meaning: it waits while a slot is unfilled or a lower memory-order index
is outstanding; traps `ILLOP` where two values met in a slot or a required slot is named by none; nullifies by
R52 and R54; stops on a poisoned predicate (16 R409); then runs the body. -/
def runIns (code : Nat) (rule : NullRule) (f : Fields) (s : State) (body : State → Cur → Opnds → Act) :
    Host.Outcome State Fault Refusal :=
  match cur s, rowOf code with
  | some u, some r =>
    let ra := readSlot u 0
    let rb := readSlot u 1
    let rp := readSlot u 2
    let rc := readSlot u 3
    if !mayGoOn s u || u.fr.done.contains u.ins then .next s
    else if slotsUnfilled ra rb rc rp then .next s
    else if r.mo && moBlocked u f then .next s
    else if slotsClash ra rb rc rp || slotsMissing r f ra rb rc then .next (takeTrap s u.cell u.task illop u.ins)
    else if slotsNull rule ra rb rc then retireIns s u (nullAll f) noFlags
    else
      match readPred f rp with
      | .null => retireIns s u (nullAll f) noFlags
      | .bad tag => .next (takeTrap s u.cell u.task (fmtTrap 2 tag) u.ins)
      | .always => runBody s u f false ⟨slotToken ra, slotToken rb, slotToken rc, none⟩ body
      | .is p =>
        if p.poison then .next (controlUse s u)
        else if !prExecutes f p then retireIns s u (nullAll f) noFlags
        else runBody s u f p.scalar ⟨slotToken ra, slotToken rb, slotToken rc, some p⟩ body
  | _, _ => .fault .noFiring

end Sys2Proof.Machine
end

