-- ==== Sys2Proof/Machine/PtrOps.lean ====
section
/-! DEFINITION. Bounded pointers: the fields of the bounds word, bounds, and the two ways they change
(15_isolation.md R378, R379, R398, R399). -/

namespace Sys2Proof.Machine

/-- The fields of a bounds word (R378). -/
def bPerm (b : BitVec 64) : Nat := (b.extractLsb' 60 4).toNat
def bSeal (b : BitVec 64) : Nat := (b.extractLsb' 48 8).toNat
def bG (b : BitVec 64) : Nat := (b.extractLsb' 42 6).toNat
def bL (b : BitVec 64) : Nat := (b.extractLsb' 21 21).toNat
def bU (b : BitVec 64) : Nat := (b.extractLsb' 0 21).toNat

def mkBound (perm scls g l u : Nat) : BitVec 64 :=
  BitVec.ofNat 4 perm ++ 0#4 ++ BitVec.ofNat 8 scls ++ BitVec.ofNat 6 g ++ BitVec.ofNat 21 l ++ BitVec.ofNat 21 u

/-- The start of the address's granule (R379). -/
def pGran (b : BitVec 64) (a : Nat) : Nat := a / 2 ^ bG b * 2 ^ bG b

/-- base and top of a pointer with address `a` (R379). -/
def pBase (b : BitVec 64) (a : Nat) : Int := (pGran b a : Int) - bL b * 2 ^ bG b
def pTop (b : BitVec 64) (a : Nat) : Int := (pGran b a : Int) + bU b * 2 ^ bG b

/-- Addresses wrap at 2^57 (10 R263). -/
def va57 (a : Int) : Nat := (a % 2 ^ 57).toNat

/-- The least exponent `e`, from `e` on, with at most 2^21 - 1 granules between `nb` and `nt` (R398). -/
def leastG (nb nt : Nat) : Nat → Nat → Nat
  | 0, e => e
  | k + 1, e => if (nt + 2 ^ e - 1) / 2 ^ e - nb / 2 ^ e ≤ 2 ^ 21 - 1 then e else leastG nb nt k (e + 1)

/-- Narrowed bounds for [a, a + n) inside [base, top) (R398); none is the trap `BOUNDS`; a span
that no exponent fits has open bounds (LOG 17, DESIGN CHOICE) under the permissions and the class asked for. -/
def narrow (perm scls : Nat) (base top : Int) (a n : Nat) : Option (BitVec 64) :=
  let nt := a + n
  if (a : Int) < base || top < (nt : Int) then none
  else
    let g := leastG a nt 36 0
    let rb := a / 2 ^ g * 2 ^ g
    let rt := (nt + 2 ^ g - 1) / 2 ^ g * 2 ^ g
    if (rb : Int) < base || top < (rt : Int) then none
    else if 2 ^ 21 - 1 < (rt - rb) / 2 ^ g then
      some (BitVec.ofNat 4 perm ++ 0#4 ++ BitVec.ofNat 8 scls ++ Config.wideBounds a n)
    else some (mkBound perm scls g 0 ((rt - rb) / 2 ^ g))

/-- `PADD` on one pointer (R399): the moved address and its bounds word, none outside the reach. -/
def movePtr (b : BitVec 64) (a : Nat) (o : Int) : Option (Nat × BitVec 64) :=
  let a' := va57 ((a : Int) + o)
  let ga := (pGran b a' : Int)
  if pBase b a ≤ ga && ga ≤ pTop b a then
    some (a', mkBound (bPerm b) (bSeal b) (bG b) ((ga - pBase b a).toNat / 2 ^ bG b) ((pTop b a - ga).toNat / 2 ^ bG b))
  else none

/-- [v, v + n) lies within the bounds of a pointer (R379). -/
def inBounds (b : BitVec 64) (a v n : Nat) : Bool := pBase b a ≤ (v : Int) && (v : Int) + n ≤ pTop b a

/-- A token of pointers rebuilt pair by pair; none makes the pair invalid and zero. -/
def ptrToken (a : Token) (poison : Bool) (g : Nat → Option (Nat × BitVec 64)) : Token :=
  let ok (j : Nat) : Bool := validAt a (2 * j) && (g j).isSome
  normal { a with
    valid := BitVec.ofFnLE fun i => ok (i.val / 2)
    lanes := Vector.ofFn fun i =>
      match g (i.val / 2) with
      | some (x, _) => BitVec.ofNat 32 (x / 2 ^ (32 * (i.val % 2)))
      | none => 0
    bounds := Vector.ofFn fun j => match g j.val with | some (_, b) => b | none => 0
    fmt := Fmt.ptr, kind := 0, poison := poison, bhead := false, seq := 0, scale := 0x7F }

/-- A trap that names a pointer pair. -/
def pairTrap (c : TrapCode) (j : Nat) : TrapInfo := ⟨c, 0, j, 0, 0⟩

/-- The valid pairs of operand A, in order. -/
def pairsOf (a : Token) : List Nat := (List.range 8).filter fun j => validAt a (2 * j)

/-- The lowest pair for which a trap applies. -/
def firstPair (c : TrapCode) (a : Token) (bad : Nat → Bool) : Option TrapInfo :=
  ((pairsOf a).find? bad).map (pairTrap c)

def sealedAt (a : Token) (j : Nat) : Bool := bSeal (boundAt a j) != 0

end Sys2Proof.Machine
end

