-- ==== Sys2Proof/Machine/Integer.lean ====
section
/-! DEFINITION. The integer instructions (05_arith_vector.md R133-R141). -/

namespace Sys2Proof.Machine

/-- A first failing check of several. -/
def firstTrap : List (Option TrapInfo) → Option TrapInfo
  | [] => none
  | some e :: _ => some e
  | none :: r => firstTrap r

/-- An optional operand, or the immediate that fills its slot (R119); with `FT` 0x1F there is none (check 8). -/
def orFill (f : Fields) (b : Option Token) : Option Token :=
  match b with
  | some t => some t
  | none => if f.ft == Fmt.fromOperand || f.ft == Fmt.ptr then none else some (fillToken f.ft f.imm)

/-- A named operand is checked against operand A's tag; a filled one is not. -/
def sameIfNamed (m : Fmt) (slot : Nat) (a : Token) (b : Option Token) : Option TrapInfo :=
  match b with
  | some t => wantSame m slot a t
  | none => none

/-- One operand, one result, element by element. -/
def unary (f : Fields) (s : State) (o : Opnds) (cls : Fmt → Bool) (g : Fmt → Nat → Nat × LaneFlags) : Act :=
  match o.a with
  | none => .trap illop
  | some a =>
    match wantA f a cls with
    | some e => .trap e
    | none =>
      let m := effFmt f a
      let v := pairValid m a.valid
      let r := elemWise m v fun i j => g m (elemAt m a i j)
      .done s (.one (.data (result a (resTag f a) (lanesOf r) v a.poison))) (flagsOf r)

/-- Two operands, the second named or filled. -/
def binary (f : Fields) (s : State) (o : Opnds) (cls : Fmt → Bool) (g : Fmt → Nat → Nat → Nat × LaneFlags) : Act :=
  match o.a, orFill f o.b with
  | some a, some b =>
    (match firstTrap [wantA f a cls, sameIfNamed (effFmt f a) 1 a o.b] with
     | some e => .trap e
     | none =>
       let m := effFmt f a
       let v := pairValid m (a.valid &&& b.valid)
       let r := elemWise m v fun i j => g m (elemAt m a i j) (elemAt m b i j)
       .done s (.one (.data (result a (resTag f a) (lanesOf r) v (a.poison || b.poison)))) (flagsOf r))
  | _, _ => .trap illop

/-- Three operands, the third named or filled. -/
def ternary (f : Fields) (s : State) (o : Opnds) (cls : Fmt → Bool) (fill : Bool)
    (g : Fmt → Nat → Nat → Nat → Nat × LaneFlags) : Act :=
  match o.a, o.b, (if fill then orFill f o.c else o.c) with
  | some a, some b, some c =>
    (match firstTrap [wantA f a cls, wantSame (effFmt f a) 1 a b, sameIfNamed (effFmt f a) 3 a o.c] with
     | some e => .trap e
     | none =>
       let m := effFmt f a
       let v := pairValid m (a.valid &&& b.valid &&& c.valid)
       let r := elemWise m v fun i j => g m (elemAt m a i j) (elemAt m b i j) (elemAt m c i j)
       .done s (.one (.data (result a (resTag f a) (lanesOf r) v (a.poison || b.poison || c.poison)))) (flagsOf r))
  | _, _, _ => .trap illop

/-- The exact value stored by `Clamp` under `.SAT`, else by `Wrap` (R133). -/
def storeInt (f : Fields) (m : Fmt) (v : Int) : Nat × LaneFlags :=
  if f.mod == 1 then clampInt m v else (wrapInt m v, 0)

def wrapOnly (m : Fmt) (v : Int) : Nat × LaneFlags := (wrapInt m v, 0)

def execAdd (f : Fields) (s : State) := runIns 0x020 .any f s fun s _ o =>
  binary f s o isIntFmt fun m x y => storeInt f m (intOf m x + intOf m y)

def execSub (f : Fields) (s : State) := runIns 0x021 .any f s fun s _ o =>
  binary f s o isIntFmt fun m x y => storeInt f m (intOf m x - intOf m y)

def execMul (f : Fields) (s : State) := runIns 0x022 .any f s fun s _ o =>
  binary f s o isIntFmt fun m x y => storeInt f m (intOf m x * intOf m y)

def execMulh (f : Fields) (s : State) := runIns 0x023 .any f s fun s _ o =>
  binary f s o isIntFmt fun m x y => wrapOnly m ((intOf m x * intOf m y) / 2 ^ fmtWidth m)

/-- R135: the quotient, truncating toward zero; all ones and `DZ` for a zero divisor. -/
def divInt (m : Fmt) (x y : Nat) : Nat × LaneFlags :=
  if intOf m y = 0 then (2 ^ fmtWidth m - 1, LaneFlags.dz) else wrapOnly m ((intOf m x).tdiv (intOf m y))

/-- R135: the remainder, with the sign of x; x and `DZ` for a zero divisor. -/
def remInt (m : Fmt) (x y : Nat) : Nat × LaneFlags :=
  if intOf m y = 0 then (x, LaneFlags.dz) else wrapOnly m ((intOf m x).tmod (intOf m y))

def execDiv (f : Fields) (s : State) := runIns 0x024 .any f s fun s _ o => binary f s o isIntFmt divInt

def execRem (f : Fields) (s : State) := runIns 0x025 .any f s fun s _ o => binary f s o isIntFmt remInt

def execNeg (f : Fields) (s : State) := runIns 0x026 .any f s fun s _ o =>
  unary f s o isIntFmt fun m x => storeInt f m (-(intOf m x))

def execAbs (f : Fields) (s : State) := runIns 0x027 .any f s fun s _ o =>
  unary f s o isIntFmt fun m x => storeInt f m (intOf m x).natAbs

def execMin (f : Fields) (s : State) := runIns 0x028 .any f s fun s _ o =>
  binary f s o isIntFmt fun m x y => wrapOnly m (min (intOf m x) (intOf m y))

def execMax (f : Fields) (s : State) := runIns 0x029 .any f s fun s _ o =>
  binary f s o isIntFmt fun m x y => wrapOnly m (max (intOf m x) (intOf m y))

/-- The logic rows act on all 32 bits of each lane, whatever the tag (R134). -/
def logic (f : Fields) (s : State) (o : Opnds) (g : Lane → Lane → Lane) : Act :=
  match o.a, orFill f o.b with
  | some a, some b =>
    (match firstTrap [wantA f a knownFmt, sameIfNamed (effFmt f a) 1 a o.b] with
     | some e => .trap e
     | none =>
       .done s (.one (.data (result a (resTag f a) (Vector.ofFn fun i => g a.lanes[i] b.lanes[i])
         (a.valid &&& b.valid) (a.poison || b.poison)))) noFlags)
  | _, _ => .trap illop

def execAnd (f : Fields) (s : State) := runIns 0x02A .any f s fun s _ o => logic f s o fun x y => x &&& y

def execOr (f : Fields) (s : State) := runIns 0x02B .any f s fun s _ o => logic f s o fun x y => x ||| y

def execXor (f : Fields) (s : State) := runIns 0x02C .any f s fun s _ o => logic f s o fun x y => x ^^^ y

/-- LOG 18, DEDUCED. -/
def bodyNot (f : Fields) (s : State) (_u : Cur) (o : Opnds) : Act :=
  match o.a with
  | none => .trap illop
  | some a =>
    match wantA f a knownFmt with
    | some e => .trap e
    | none =>
      .done s (.one (.data (result a (resTag f a) (Vector.ofFn fun i => ~~~a.lanes[i]) a.valid a.poison))) noFlags

def execNot (f : Fields) (s : State) := runIns 0x02D .any f s (bodyNot f)

def execAndn (f : Fields) (s : State) := runIns 0x02E .any f s fun s _ o => logic f s o fun x y => x &&& ~~~y

/-! ### Shifts and bits (R136) -/

/-- The count: the low log2 w bits of y, unsigned. -/
def shCount (m : Fmt) (y : Nat) : Nat := y % fmtWidth m

def execShl (f : Fields) (s : State) := runIns 0x02F .any f s fun s _ o =>
  binary f s o isIntFmt fun m x y => (x * 2 ^ shCount m y % 2 ^ fmtWidth m, 0)

def execShr (f : Fields) (s : State) := runIns 0x030 .any f s fun s _ o =>
  binary f s o isIntFmt fun m x y => (x / 2 ^ shCount m y, 0)

def execSra (f : Fields) (s : State) := runIns 0x031 .any f s fun s _ o =>
  binary f s o isIntFmt fun m x y => wrapOnly m (signedOf (fmtWidth m) x / 2 ^ shCount m y)

def rolBits (w x c : Nat) : Nat := (x * 2 ^ c % 2 ^ w) + x / 2 ^ (w - c)

def execRol (f : Fields) (s : State) := runIns 0x032 .any f s fun s _ o =>
  binary f s o isIntFmt fun m x y => (rolBits (fmtWidth m) x (shCount m y) % 2 ^ fmtWidth m, 0)

def execRor (f : Fields) (s : State) := runIns 0x033 .any f s fun s _ o =>
  binary f s o isIntFmt fun m x y =>
    (rolBits (fmtWidth m) x ((fmtWidth m - shCount m y) % fmtWidth m) % 2 ^ fmtWidth m, 0)

/-- Leading zero bits of a value of `w` bits. -/
def clzBits : Nat → Nat → Nat
  | 0, _ => 0
  | w + 1, x => if x.testBit w then 0 else clzBits w x + 1

def popBits : Nat → Nat → Nat
  | 0, _ => 0
  | w + 1, x => (x.testBit w).toNat + popBits w x

/-- The `w` bits of x in the opposite order. -/
def revBits : Nat → Nat → Nat
  | 0, _ => 0
  | w + 1, x => x % 2 * 2 ^ w + revBits w (x / 2)

def execClz (f : Fields) (s : State) := runIns 0x034 .any f s fun s _ o =>
  unary f s o isIntFmt fun m x => wrapOnly m (clzBits (fmtWidth m) x)

def execPopc (f : Fields) (s : State) := runIns 0x035 .any f s fun s _ o =>
  unary f s o isIntFmt fun m x => wrapOnly m (popBits (fmtWidth m) x)

def execBrev (f : Fields) (s : State) := runIns 0x036 .any f s fun s _ o =>
  unary f s o isIntFmt fun m x => (revBits (fmtWidth m) x, 0)

/-! ### Compares (R138) -/

/-- The PRED result of an element-wise test: bit 0 where it holds for every sub-element of the lane, bit 1
where it holds for every sub-element of every valid lane. -/
def predLanes (m : Fmt) (v : BitVec 16) (test : Nat → Nat → Bool) : Vector Lane 16 :=
  let lane (i : Nat) : Bool := (List.range (if isPair m then 1 else perLane m)).all fun j => test i j
  let whole := (List.range 16).all fun i => !v.getLsbD i || lane i
  Vector.ofFn fun i => BitVec.ofNat 32 ((lane i.val).toNat + 2 * whole.toNat)

def compare (f : Fields) (s : State) (o : Opnds) (test : Int → Int → Bool) : Act :=
  match o.a, orFill f o.b with
  | some a, some b =>
    (match firstTrap [wantA f a isIntFmt, sameIfNamed (effFmt f a) 1 a o.b] with
     | some e => .trap e
     | none =>
       let m := effFmt f a
       let v := pairValid m (a.valid &&& b.valid)
       .done s (.one (.data (result a Fmt.pred
         (predLanes m v fun i j => test (intOf m (elemAt m a i j)) (intOf m (elemAt m b i j))) v
         (a.poison || b.poison)))) noFlags)
  | _, _ => .trap illop

def execCmpeq (f : Fields) (s : State) := runIns 0x037 .any f s fun s _ o => compare f s o fun x y => x == y
def execCmpne (f : Fields) (s : State) := runIns 0x038 .any f s fun s _ o => compare f s o fun x y => x != y
def execCmplt (f : Fields) (s : State) := runIns 0x039 .any f s fun s _ o => compare f s o fun x y => decide (x < y)
def execCmple (f : Fields) (s : State) := runIns 0x03A .any f s fun s _ o => compare f s o fun x y => decide (x ≤ y)
def execCmpgt (f : Fields) (s : State) := runIns 0x03B .any f s fun s _ o => compare f s o fun x y => decide (y < x)
def execCmpge (f : Fields) (s : State) := runIns 0x03C .any f s fun s _ o => compare f s o fun x y => decide (y ≤ x)

/-- R139. A pair of a PTR result whose lanes would come from different operands is invalid, and a pointer passes as the PRED of operand
C (R123; LOG 12, DEDUCED). -/
def bodySel (f : Fields) (s : State) (_u : Cur) (o : Opnds) : Act :=
  match o.a, o.b, o.c with
  | some a, some b, some c =>
    (match firstTrap [
        carryData 0 f a,
        (if b.kind == 0 && b.fmt == a.fmt then none else some (fmtTrap 1 b.fmt)), wantTag 3 c Fmt.pred] with
     | some e => .trap e
     | none =>
       let pick (i : Nat) : Bool := (laneAt c i).getLsbD 0
       let same (i : Nat) : Bool := a.fmt != Fmt.ptr || pick (2 * (i / 2)) == pick (2 * (i / 2) + 1)
       .done s (.one (.data (normal { a with
         lanes := Vector.ofFn fun i => if pick i.val then a.lanes[i] else b.lanes[i]
         valid := BitVec.ofFnLE fun i => validAt c i.val && same i.val && (if pick i.val then validAt a i.val else validAt b i.val)
         bounds := Vector.ofFn fun j => if pick (2 * j.val) then a.bounds[j] else b.bounds[j]
         poison := a.poison || b.poison || c.poison, bhead := false, seq := 0
         scale := if burstScaled a.fmt then a.scale else 0x7F }))) noFlags)
  | _, _, _ => .trap illop

def execSel (f : Fields) (s : State) := runIns 0x03D .any f s (bodySel f)

def execImad (f : Fields) (s : State) := runIns 0x03E .any f s fun s _ o =>
  ternary f s o isIntFmt true fun m x y z => storeInt f m (intOf m x * intOf m y + intOf m z)

/-! ### Fields (R137) -/

/-- Bits [b:0] of x, sign-extended to the element. -/
def sextBits (m : Fmt) (b x : Nat) : Nat := wrapInt m (signedOf (b + 1) (x % 2 ^ (b + 1)))

def execSext (f : Fields) (s : State) := runIns 0x03F .any f s fun s _ o =>
  unary f s o isIntFmt fun m x => (sextBits m (bits f.imm.toNat 5 0) x, 0)

def execZext (f : Fields) (s : State) := runIns 0x040 .any f s fun s _ o =>
  unary f s o isIntFmt fun _ x => (x % 2 ^ (bits f.imm.toNat 5 0 + 1), 0)

def fieldLo (f : Fields) : Nat := bits f.imm.toNat 5 0
def fieldLen (f : Fields) : Nat := bits f.imm.toNat 12 6 + 1

def execBfx (f : Fields) (s : State) := runIns 0x041 .any f s fun s _ o =>
  unary f s o isIntFmt fun m x =>
    let v := x / 2 ^ fieldLo f % 2 ^ fieldLen f
    (if intSigned m then wrapInt m (signedOf (fieldLen f) v) else v, 0)

/-- x with a field replaced by the low bits of y. -/
def bfiBits (lo len x y : Nat) : Nat :=
  x % 2 ^ lo + y % 2 ^ len * 2 ^ lo + x / 2 ^ (lo + len) * 2 ^ (lo + len)

def execBfi (f : Fields) (s : State) := runIns 0x042 .any f s fun s _ o =>
  match o.b with
  | none => .trap illop
  | some _ => binary f s o isIntFmt fun _ x y => (bfiBits (fieldLo f) (fieldLen f) x y, 0)

/-! ### Addresses (R141) -/

def bodyLea (f : Fields) (s : State) (_u : Cur) (o : Opnds) : Act :=
  match o.a, o.b with
  | some a, some b =>
    if a.kind != 0 || a.fmt != f.ft then .trap (fmtTrap 0 a.fmt)
    else if b.kind != 0 || b.fmt != Fmt.int64 then .trap (fmtTrap 1 b.fmt)
    else
      let off (j : Nat) : Int := signedOf 64 (pairAt b j) * 4 ^ f.mod.toNat
      if f.ft == Fmt.int64 then
        let v := a.valid &&& b.valid
        let r := elemWise Fmt.int64 (pairValid Fmt.int64 v) fun i _ => wrapOnly Fmt.int64 (signedOf 64 (pairAt a (i / 2)) + off (i / 2))
        .done s (.one (.data (result a Fmt.int64 (lanesOf r) v (a.poison || b.poison)))) noFlags
      else
        match firstPair .perm a (sealedAt a) with
        | some e => .trap e
        | none =>
          .done s (.one (.data (ptrToken a (a.poison || b.poison) fun j =>
            if validAt b (2 * j) && validAt b (2 * j + 1) then movePtr (boundAt a j) (pairAt a j) (off j) else none))) noFlags
  | _, _ => .trap illop

def execLea (f : Fields) (s : State) := runIns 0x043 .any f s (bodyLea f)

def execAbsd (f : Fields) (s : State) := runIns 0x059 .any f s fun s _ o =>
  binary f s o isIntFmt fun m x y => wrapOnly m (intOf m x - intOf m y).natAbs

def execAvg (f : Fields) (s : State) := runIns 0x05A .any f s fun s _ o =>
  binary f s o isIntFmt fun m x y => wrapOnly m ((intOf m x + intOf m y + 1) / 2)

def execClamp (f : Fields) (s : State) := runIns 0x05B .any f s fun s _ o =>
  ternary f s o isIntFmt true fun m x y z => wrapOnly m (min (max (intOf m x) (intOf m y)) (intOf m z))

/-! ### Dot products (R140) -/

/-- The format a dot-product operand is read in: its own tag, a pointer's as the first that the row allows (LOG 9, DEDUCED). -/
def dotFmt (wide : Bool) (t : Token) : Option Fmt :=
  if t.kind != 0 then none
  else if wide then (if t.fmt == Fmt.int16 || t.fmt == Fmt.ptr then some Fmt.int16 else none)
  else if t.fmt == Fmt.int8 || t.fmt == Fmt.uint8 then some t.fmt
  else if t.fmt == Fmt.ptr then some Fmt.int8
  else none

def dotProduct (f : Fields) (s : State) (o : Opnds) (wide : Bool) : Act :=
  match o.a, o.b, orFill f o.c with
  | some a, some b, some c =>
    (match dotFmt wide a, dotFmt wide b with
     | none, _ => .trap (fmtTrap 0 a.fmt)
     | some _, none => .trap (fmtTrap 1 b.fmt)
     | some fa, some fb =>
       match wantTag 3 c Fmt.int32 with
       | some e => .trap e
       | none =>
         let v := a.valid &&& b.valid &&& c.valid
         let r := elemWise Fmt.int32 v fun i _ =>
           storeInt f Fmt.int32 (intOf Fmt.int32 (elemAt Fmt.int32 c i 0)
             + ((List.range (if wide then 2 else 4)).map fun j => intOf fa (elemAt fa a i j) * intOf fb (elemAt fb b i j)).sum)
         .done s (.one (.data (result a Fmt.int32 (lanesOf r) v (a.poison || b.poison || c.poison)))) (flagsOf r))
  | _, _, _ => .trap illop

def execDot4 (f : Fields) (s : State) := runIns 0x05C .any f s fun s _ o => dotProduct f s o false
def execDot2 (f : Fields) (s : State) := runIns 0x05D .any f s fun s _ o => dotProduct f s o true

end Sys2Proof.Machine
end

