-- ==== Sys2Proof/Machine/Lanes.lean ====
section
/-! DEFINITION. The lane, reduction and predicate instructions (05_arith_vector.md R142-R144). -/

namespace Sys2Proof.Machine

/-- Bit 0 of a predicate operand's lane; an invalid lane reads as zero (02_encoding.md R37). -/
def predBit (t : Token) (i : Nat) : Bool := validAt t i && (laneAt t i).getLsbD 0

/-- A result of whole lanes: lane `i` copies lane `src i` of A, and is invalid where there is none (R142). -/
def movedLanes (a : Token) (tag : Fmt) (poison : Bool) (src : Nat → Option Nat) : Token :=
  result a tag (Vector.ofFn fun i => match src i.val with | some k => laneAt a k | none => 0)
    (BitVec.ofFnLE fun i => match src i.val with | some k => validAt a k | none => false) poison

/-- R142: lane `i` is `i`. -/
def bodyLaneid (_f : Fields) (s : State) (_u : Cur) (_o : Opnds) : Act :=
  oneData s { blankToken with lanes := Vector.ofFn fun i => BitVec.ofNat 32 i.val, fmt := Fmt.int32 }

def execLaneid (f : Fields) (s : State) := runIns 0x044 .any f s (bodyLaneid f)

/-- R142; a pointer keeps its tag, and passes as the PRED of operand B (R123; LOG 12, DEDUCED). -/
def bodyVmask (f : Fields) (s : State) (_u : Cur) (o : Opnds) : Act :=
  match o.a, o.b with
  | some a, some b =>
    (match firstTrap [carryData 0 f a, wantTag 1 b Fmt.pred] with
     | some e => .trap e
     | none =>
       .done s (.one (.data (result a a.fmt a.lanes (a.valid &&& BitVec.ofFnLE fun i => predBit b i.val)
         (a.poison || b.poison)))) noFlags)
  | _, _ => .trap illop

def execVmask (f : Fields) (s : State) := runIns 0x045 .any f s (bodyVmask f)

/-- A permutation by one operand. -/
def permute1 (f : Fields) (s : State) (o : Opnds) (src : Nat → Nat) : Act :=
  match o.a with
  | none => .trap illop
  | some a =>
    match wantA f a knownFmt with
    | some e => .trap e
    | none => .done s (.one (.data (movedLanes a (resTag f a) a.poison fun i => some (src i)))) noFlags

/-- A permutation steered by operand B, whose tag `chk` checks. -/
def permute2 (f : Fields) (s : State) (o : Opnds) (chk : Token → Option TrapInfo)
    (src : Token → Token → Nat → Option Nat) : Act :=
  match o.a, o.b with
  | some a, some b =>
    (match firstTrap [wantA f a knownFmt, chk b] with
     | some e => .trap e
     | none => .done s (.one (.data (movedLanes a (resTag f a) (a.poison || b.poison) (src a b)))) noFlags)
  | _, _ => .trap illop

/-- Index tokens carry INT32 or UINT32. -/
def wantIndex (t : Token) : Option TrapInfo := wantIn 1 t fun g => g == Fmt.int32 || g == Fmt.uint32

def execShuf (f : Fields) (s : State) := runIns 0x048 .any f s fun s _ o =>
  permute2 f s o wantIndex fun _ b i => if validAt b i then some ((laneAt b i).toNat % 16) else none

def execLrot (f : Fields) (s : State) := runIns 0x049 .any f s fun s _ o =>
  permute1 f s o fun i => (i + 16 - immN f % 16) % 16

def execBcast (f : Fields) (s : State) := runIns 0x04A .any f s fun s _ o =>
  permute1 f s o fun _ => immN f % 16

/-- The lanes below 16 for which a test holds, in order. -/
def lanesWhere (p : Nat → Bool) : List Nat := (List.range 16).filter p

def execCompact (f : Fields) (s : State) := runIns 0x04B .any f s fun s _ o =>
  permute2 f s o (fun b => wantTag 1 b Fmt.pred) fun a b i =>
    (lanesWhere fun k => validAt a k && predBit b k)[i]?

def execExpand (f : Fields) (s : State) := runIns 0x04C .any f s fun s _ o =>
  permute2 f s o (fun b => wantTag 1 b Fmt.pred) fun _ b i =>
    if predBit b i then some ((List.range i).filter fun k => predBit b k).length else none

/-! ### Element order (04_arith_formats.md R95) -/

/-- Elements of a lane, as a token's format counts them: one for each lane pair of a two-lane format is the
element of its even lane. -/
def elemCount (m : Fmt) : Nat := if isPair m then 8 else 16 * perLane m

/-- The lane that holds element `n`. -/
def laneOfElem (m : Fmt) (n : Nat) : Nat := if isPair m then 2 * n else n / perLane m

/-- Element `n` in dense order, none where its lane is invalid. -/
def denseAt (m : Fmt) (t : Token) (v : BitVec 16) (n : Nat) : Option Nat :=
  if v.getLsbD (laneOfElem m n) then
    some (if isPair m then pairAt t n else subAt m (laneAt t (n / perLane m)) (n % perLane m))
  else none

/-- The token lanes whose elements are given in dense order. -/
def denseLanes (m : Fmt) (e : Nat → Nat) : Vector Lane 16 :=
  Vector.ofFn fun i =>
    if isPair m then BitVec.ofNat 32 (e (i.val / 2) / 2 ^ (32 * (i.val % 2)))
    else BitVec.ofNat 32 (packSubs (fmtWidth m) ((List.range (perLane m)).map fun j => e (i.val * perLane m + j)))

/-- Running sums of integers: entry `n` holds the sum of the first `n`, `.EXC`, or `n` + 1, `.INC`. -/
def runningSums : Int → List Int → Bool → List Int
  | _, [], _ => []
  | acc, x :: r, inc => (if inc then acc + x else acc) :: runningSums (acc + x) r inc

/-- R142. -/
def bodyPfxsum (f : Fields) (s : State) (_u : Cur) (o : Opnds) : Act :=
  match o.a with
  | none => .trap illop
  | some a =>
    match wantA f a isIntFmt with
    | some e => .trap e
    | none =>
      let m := effFmt f a
      let v := pairValid m a.valid
      let xs := (List.range (elemCount m)).map fun n => match denseAt m a v n with | some x => intOf m x | none => 0
      let sums := runningSums 0 xs (f.mod == 0)
      .done s (.one (.data (result a (resTag f a) (denseLanes m fun n => wrapInt m (sums.getD n 0)) v a.poison))) noFlags

def execPfxsum (f : Fields) (s : State) := runIns 0x046 .any f s (bodyPfxsum f)

/-- R142: no tag of A is checked, and every result lane is valid. -/
def bodyPfxpop (f : Fields) (s : State) (_u : Cur) (o : Opnds) : Act :=
  match o.a with
  | none => .trap illop
  | some a =>
    if a.kind != 0 then .trap (fmtTrap 0 a.fmt)
    else
      let pops := (List.range 16).map fun k => if validAt a k then (popBits 32 (laneAt a k).toNat : Int) else 0
      let sums := runningSums 0 pops (f.mod == 0)
      .done s (.one (.data (result a f.ft (Vector.ofFn fun i => BitVec.ofInt 32 (sums.getD i.val 0)) 0xFFFF a.poison))) noFlags

def execPfxpop (f : Fields) (s : State) := runIns 0x047 .any f s (bodyPfxpop f)

/-! ### Reductions (R143) -/

def redFold (g : Int → Int → Int) : List Int → Option Int
  | [] => none
  | x :: r => some (r.foldl g x)

/-- Every element of every valid lane combined into element 0 of lane 0. -/
def reduceInt (f : Fields) (s : State) (o : Opnds) (g : Fmt → Int → Int → Int) : Act :=
  match o.a with
  | none => .trap illop
  | some a =>
    match wantA f a isIntFmt with
    | some e => .trap e
    | none =>
      let m := effFmt f a
      let v := pairValid m a.valid
      let xs := (List.range (elemCount m)).filterMap fun n => (denseAt m a v n).map (intOf m)
      match redFold (g m) xs with
      | none => .done s (.one (.data (result a (resTag f a) (Vector.replicate 16 0) 0 a.poison))) noFlags
      | some x =>
        .done s (.one (.data (result a (resTag f a) (denseLanes m fun n => if n = 0 then wrapInt m x else 0)
          (if isPair m then 3 else 1) a.poison))) noFlags

/-- A logic operation on two integers' `w`-bit patterns. -/
def onBits (g : BitVec 64 → BitVec 64 → BitVec 64) (m : Fmt) (x y : Int) : Int :=
  intOf m (wrapInt m (g (BitVec.ofInt 64 x) (BitVec.ofInt 64 y)).toNat)

def execRedadd (f : Fields) (s : State) := runIns 0x04D .any f s fun s _ o => reduceInt f s o fun _ x y => x + y
def execRedmin (f : Fields) (s : State) := runIns 0x04E .any f s fun s _ o => reduceInt f s o fun _ x y => min x y
def execRedmax (f : Fields) (s : State) := runIns 0x04F .any f s fun s _ o => reduceInt f s o fun _ x y => max x y
def execRedand (f : Fields) (s : State) := runIns 0x050 .any f s fun s _ o => reduceInt f s o (onBits fun x y => x &&& y)
def execRedor (f : Fields) (s : State) := runIns 0x051 .any f s fun s _ o => reduceInt f s o (onBits fun x y => x ||| y)
def execRedxor (f : Fields) (s : State) := runIns 0x052 .any f s fun s _ o => reduceInt f s o (onBits fun x y => x ^^^ y)

/-! ### Predicates (R144) -/

/-- Bits 0 and 1 of each lane. -/
def predLogic (s : State) (o : Opnds) (g : BitVec 2 → BitVec 2 → BitVec 2) : Act :=
  match o.a, o.b with
  | some a, some b =>
    (match firstTrap [wantTag 0 a Fmt.pred, wantTag 1 b Fmt.pred] with
     | some e => .trap e
     | none =>
       .done s (.one (.data (result a Fmt.pred
         (Vector.ofFn fun i => (g (a.lanes[i].extractLsb' 0 2) (b.lanes[i].extractLsb' 0 2)).zeroExtend 32)
         (a.valid &&& b.valid) (a.poison || b.poison)))) noFlags)
  | _, _ => .trap illop

def execPand (f : Fields) (s : State) := runIns 0x053 .any f s fun s _ o => predLogic s o fun x y => x &&& y
def execPor (f : Fields) (s : State) := runIns 0x054 .any f s fun s _ o => predLogic s o fun x y => x ||| y
def execPxor (f : Fields) (s : State) := runIns 0x055 .any f s fun s _ o => predLogic s o fun x y => x ^^^ y

/-- One predicate operand, one predicate result. -/
def predUnary (s : State) (o : Opnds) (g : Token → Nat → BitVec 2) : Act :=
  match o.a with
  | none => .trap illop
  | some a =>
    match wantTag 0 a Fmt.pred with
    | some e => .trap e
    | none =>
      .done s (.one (.data (result a Fmt.pred (Vector.ofFn fun i => (g a i.val).zeroExtend 32) a.valid a.poison))) noFlags

def execPnot (f : Fields) (s : State) := runIns 0x056 .any f s fun s _ o =>
  predUnary s o fun a i => ~~~((laneAt a i).extractLsb' 0 2)

/-- Bit 0 kept, bit 1 a verdict on bit 0 over the valid lanes. -/
def verdict (a : Token) (i : Nat) (whole : Bool) : BitVec 2 :=
  BitVec.ofBool whole ++ BitVec.ofBool ((laneAt a i).getLsbD 0)

def execPany (f : Fields) (s : State) := runIns 0x057 .any f s fun s _ o =>
  predUnary s o fun a i => verdict a i ((List.range 16).any fun k => predBit a k)

def execPall (f : Fields) (s : State) := runIns 0x058 .any f s fun s _ o =>
  predUnary s o fun a i =>
    verdict a i (a.valid != 0 && (List.range 16).all fun k => !validAt a k || predBit a k)

end Sys2Proof.Machine
end

