-- ==== Sys2Proof/Machine/Round.lean ====
section
/-! DEFINITION. Floating-point formats, exact values, and rounding (04_arith_formats.md R90-R92, R107-R112).
An exact value is a sign, a natural mantissa and a power of two; what is not such a number (a quotient, a
root, a function value) is its floor at a small power of two together with a sticky bit. -/

namespace Sys2Proof.Machine

/-- How a format spends its highest codes (R90). -/
inductive FpStyle where
  | ieee | e4m3 | finiteOnly
  deriving DecidableEq, Repr

/-- A floating-point element format (R90); `maxFin` is the magnitude code of its largest finite value and
`nan` its canonical NaN (R91; 0 where the format has none). -/
structure FpFmt where
  width : Nat
  mbits : Nat
  bias : Int
  maxFin : Nat
  nan : Nat
  style : FpStyle
  deriving DecidableEq, Repr

abbrev FpFmt.fp32 : FpFmt := ⟨32, 23, 127, 0x7F7FFFFF, 0x7FC00000, .ieee⟩
abbrev FpFmt.bf16 : FpFmt := ⟨16, 7, 127, 0x7F7F, 0x7FC0, .ieee⟩
abbrev FpFmt.fp16 : FpFmt := ⟨16, 10, 15, 0x7BFF, 0x7E00, .ieee⟩
abbrev FpFmt.e4m3 : FpFmt := ⟨8, 3, 7, 0x7E, 0x7F, .e4m3⟩
abbrev FpFmt.e5m2 : FpFmt := ⟨8, 2, 15, 0x7B, 0x7E, .ieee⟩
abbrev FpFmt.e3m2 : FpFmt := ⟨6, 2, 3, 0x1F, 0, .finiteOnly⟩
abbrev FpFmt.e2m3 : FpFmt := ⟨6, 3, 1, 0x1F, 0, .finiteOnly⟩
abbrev FpFmt.e2m1 : FpFmt := ⟨4, 1, 1, 0x7, 0, .finiteOnly⟩

/-- The element encoding of a format tag; the burst-scaled formats use that of their base format (R90). -/
def fpFmt (f : Fmt) : Option FpFmt :=
  match f.toNat with
  | 0x01 => some .fp32
  | 0x02 => some .bf16
  | 0x03 => some .fp16
  | 0x04 | 0x10 => some .e4m3
  | 0x05 | 0x11 => some .e5m2
  | 0x06 | 0x17 => some .e3m2
  | 0x07 => some .e2m3
  | 0x08 | 0x12 => some .e2m1
  | _ => none

/-- The formats that `FTZ` flushes (R111). -/
def flushes (g : FpFmt) : Bool := decide (g.width ≥ 16)

/-- A value as an instruction computes on it. `nan inv` raises `INV` where `inv` holds (R92). -/
inductive Num where
  | nan (inv : Bool)
  | inf (neg : Bool)
  | fin (neg : Bool) (m : Nat) (e : Int)
  deriving DecidableEq, Repr

abbrev Num.zero (neg : Bool) : Num := .fin neg 0 0

/-- The value of an element's bits (R90, R92). -/
def decodeNum (g : FpFmt) (x : Nat) : Num :=
  let neg := x.testBit (g.width - 1)
  let mag := x % 2 ^ (g.width - 1)
  let ex := mag / 2 ^ g.mbits
  let mant := mag % 2 ^ g.mbits
  if g.style = .e4m3 && mag == 0x7F then .nan true
  else if g.style = .ieee && mag == g.maxFin + 1 then .inf neg
  else if g.style = .ieee && decide (g.maxFin + 1 < mag) then .nan (g.width == 8 || !mant.testBit (g.mbits - 1))
  else if ex = 0 then .fin neg mant (1 - g.bias - g.mbits)
  else .fin neg (2 ^ g.mbits + mant) ((ex : Int) - g.bias - g.mbits)

/-- A source as `FTZ` lets the instruction read it (R111). -/
def flushNum (ftz : Bool) (g : FpFmt) (n : Num) : Num :=
  match n with
  | .fin neg m e => if ftz && flushes g && m < 2 ^ g.mbits then .zero neg else .fin neg m e
  | x => x

/-- The rounding modes, as `RM` codes them (R113). -/
inductive Rm where
  | rne | rtz | rup | rdn
  deriving DecidableEq, Repr

def rmOf (rm : Nat) : Rm :=
  match rm % 4 with
  | 0 => .rne
  | 1 => .rtz
  | 2 => .rup
  | _ => .rdn

/-- Whether a magnitude lying between `k` and `k + 1` spacings rounds up: `rem` of `den` parts lie above `k`,
and `sticky` says that a little more does (R108). -/
def roundsUp (mode : Rm) (neg : Bool) (k rem den : Nat) (sticky : Bool) : Bool :=
  let inexact := rem != 0 || sticky
  match mode with
  | .rne => decide (den < 2 * rem) || (2 * rem == den && (sticky || k % 2 == 1))
  | .rtz => false
  | .rup => !neg && inexact
  | .rdn => neg && inexact

/-- A magnitude `m`·2^`e` counted in spacings 2^`q`: the count after rounding, and whether it is inexact. -/
def roundAt (mode : Rm) (neg : Bool) (m : Nat) (e : Int) (sticky : Bool) (q : Int) : Nat × Bool :=
  if q ≤ e then
    let k := m * 2 ^ (e - q).toNat
    (k + (roundsUp mode neg k 0 1 sticky).toNat, sticky)
  else if (Nat.log2 m : Int) + e + 2 ≤ q then
    ((roundsUp mode neg 0 1 4 sticky).toNat, true)
  else
    let den := 2 ^ (q - e).toNat
    let k := m / den
    let rem := m % den
    (k + (roundsUp mode neg k rem den sticky).toNat, rem != 0 || sticky)

/-- The outcome of a rounding: the element's bits, its flags, and whether it overflowed. -/
structure Rounded where
  bits : Nat
  flags : LaneFlags
  ovf : Bool
  deriving DecidableEq, Repr

def signBit (g : FpFmt) (neg : Bool) : Nat := neg.toNat * 2 ^ (g.width - 1)

/-- The overflow table of R110, with the `INV` that a NaN result carries. -/
def overflowBits (g : FpFmt) (mode : Rm) (sat neg : Bool) : Nat × LaneFlags :=
  let toMax := sat || mode == .rtz || (mode == .rup && neg) || (mode == .rdn && !neg)
  match g.style with
  | .finiteOnly => (signBit g neg + g.maxFin, 0)
  | .ieee => (signBit g neg + (if toMax then g.maxFin else g.maxFin + 1), 0)
  | .e4m3 => if toMax then (signBit g neg + g.maxFin, 0) else (g.nan, LaneFlags.inv)

/-- `RoundTo` of a non-zero finite value (R108, R110). -/
def roundFin (g : FpFmt) (mode : Rm) (sat neg : Bool) (m : Nat) (e : Int) (sticky : Bool) : Rounded :=
  let emin : Int := 1 - g.bias
  let emax : Int := (g.maxFin / 2 ^ g.mbits : Nat) - g.bias
  let lg : Int := (Nat.log2 m : Int) + e
  let ovf : Rounded :=
    let r := overflowBits g mode sat neg
    ⟨r.1, LaneFlags.ovf ||| LaneFlags.inx ||| r.2, true⟩
  if emax < lg then ovf
  else
    let ex := max lg emin
    let r := roundAt mode neg m e sticky (ex - g.mbits)
    let mag := (ex + g.bias).toNat * 2 ^ g.mbits + r.1 - 2 ^ g.mbits
    if g.maxFin < mag then ovf
    else
      ⟨signBit g neg + mag,
        (if r.2 then LaneFlags.inx else 0) ||| (if r.2 && mag < 2 ^ g.mbits then LaneFlags.unf else 0), false⟩

/-- What an instruction rounds with: the format, mode, saturation, and `FTZ`. -/
structure FpCtx where
  g : FpFmt
  mode : Rm
  sat : Bool
  ftz : Bool
  deriving DecidableEq, Repr

/-- A result flushed under `FTZ` after rounding (R111). -/
def flushResult (c : FpCtx) (r : Rounded) : Rounded :=
  let mag := r.bits % 2 ^ (c.g.width - 1)
  if c.ftz && flushes c.g && mag != 0 && mag < 2 ^ c.g.mbits then
    ⟨r.bits - mag, r.flags ||| LaneFlags.unf ||| LaneFlags.inx, r.ovf⟩
  else r

/-- `RoundTo` with the special values of R92; a zero keeps its sign. -/
def roundNum (c : FpCtx) (x : Num) (sticky : Bool) : Rounded :=
  match x with
  | .nan inv =>
    if c.g.style = .finiteOnly then ⟨0, LaneFlags.inv, false⟩
    else ⟨c.g.nan, if inv then LaneFlags.inv else 0, false⟩
  | .inf neg =>
    if c.g.style = .ieee then ⟨signBit c.g neg + c.g.maxFin + 1, 0, false⟩
    else
      let r := overflowBits c.g c.mode c.sat neg
      ⟨r.1, LaneFlags.ovf ||| r.2, false⟩
  | .fin neg m e =>
    if m = 0 && !sticky then ⟨signBit c.g neg, 0, false⟩
    else flushResult c (roundFin c.g c.mode c.sat neg m e sticky)

/-- The bits and flags of a rounding. -/
def store (c : FpCtx) (x : Num) : Nat × LaneFlags := let r := roundNum c x false; (r.bits, r.flags)

/-! ### Exact arithmetic (05_arith_vector.md R145) -/

def Num.neg : Num → Num
  | .nan i => .nan i
  | .inf s => .inf (!s)
  | .fin s m e => .fin (!s) m e

/-- Times 2^`k`. -/
def Num.scale (k : Int) : Num → Num
  | .fin s m e => .fin s m (e + k)
  | x => x

def Num.isNan : Num → Bool
  | .nan _ => true
  | _ => false

def Num.isInf : Num → Bool
  | .inf _ => true
  | _ => false

def Num.isZero : Num → Bool
  | .fin _ 0 _ => true
  | _ => false

/-- A product: the sign is the XOR; 0 × ∞ is invalid whatever else. -/
def mulNum (a b : Num) : Num :=
  match a, b with
  | .nan i, .nan j => .nan (i || j)
  | .nan i, _ => .nan i
  | _, .nan j => .nan j
  | .inf s, .inf t => .inf (s != t)
  | .inf s, .fin t m _ => if m = 0 then .nan true else .inf (s != t)
  | .fin s m _, .inf t => if m = 0 then .nan true else .inf (s != t)
  | .fin s m e, .fin t n d => .fin (s != t) (m * n) (e + d)

def nanOf : List Num → Option Bool
  | [] => none
  | .nan i :: r => some (i || (nanOf r).getD false)
  | _ :: r => nanOf r

def infSigns : List Num → List Bool
  | [] => []
  | .inf s :: r => s :: infSigns r
  | _ :: r => infSigns r

def leastExp : List Num → Option Int
  | [] => none
  | .fin _ m e :: r =>
    if m = 0 then leastExp r
    else match leastExp r with | none => some e | some d => some (min e d)
  | _ :: r => leastExp r

def signedAt (q : Int) : Num → Int
  | .fin s m e => if m = 0 then 0 else (if s then -1 else 1) * ((m * 2 ^ (e - q).toNat : Nat) : Int)
  | _ => 0

def zeroSigns : List Num → List Bool
  | [] => []
  | .fin s _ _ :: r => s :: zeroSigns r
  | _ :: r => zeroSigns r

/-- An exact sum. A NaN among the terms wins; infinities of both signs are invalid; zeros of one sign keep
it, and any other exact zero is −0 under RDN and +0 otherwise. -/
def sumNum (mode : Rm) (l : List Num) : Num :=
  match nanOf l with
  | some i => .nan i
  | none =>
    match infSigns l with
    | s :: r => if r.all (· == s) then .inf s else .nan true
    | [] =>
      match leastExp l with
      | none =>
        let z := zeroSigns l
        .zero (if z.all id then true else if z.all (!·) then false else mode == .rdn)
      | some q =>
        let v := (l.map (signedAt q)).sum
        if v = 0 then .zero (mode == .rdn) else .fin (decide (v < 0)) v.natAbs q

def addNum (mode : Rm) (a b : Num) : Num := sumNum mode [a, b]

/-- The order of two values that are not NaN: whether `a` is less than `b` (−0 equals +0). -/
def ltNum (a b : Num) : Bool :=
  match a, b with
  | .nan _, _ => false
  | _, .nan _ => false
  | .inf s, .inf t => s && !t
  | .inf s, .fin .. => s
  | .fin .., .inf t => !t
  | x, y =>
    match leastExp [x, y] with
    | none => false
    | some q => decide (signedAt q x < signedAt q y)

def eqNum (a b : Num) : Bool := !a.isNan && !b.isNan && !ltNum a b && !ltNum b a

/-- The integer square root by binary digits, from bit `k` - 1 downward. -/
def isqrtFrom (n : Nat) : Nat → Nat → Nat
  | 0, r => r
  | k + 1, r => if (r + 2 ^ k) * (r + 2 ^ k) ≤ n then isqrtFrom n k (r + 2 ^ k) else isqrtFrom n k r

/-- A quotient of magnitudes to 96 bits below its leading digits, with its sticky bit. -/
def divMag (m : Nat) (e : Int) (n : Nat) (d : Int) : Nat × Int × Bool :=
  let k := Nat.log2 n + 96
  (m * 2 ^ k / n, e - d - k, m * 2 ^ k % n != 0)

/-- √(m·2^e), to at least 48 bits. -/
def sqrtMag (m : Nat) (e : Int) : Nat × Int × Bool :=
  let k : Nat := if (e % 2) = 0 then 96 else 97
  let n := m * 2 ^ k
  let r := isqrtFrom n 96 0
  (r, (e - k) / 2, r * r != n)

/-- 1/√(m·2^e). -/
def rsqrtMag (m : Nat) (e : Int) : Nat × Int × Bool :=
  let k : Nat := if (e % 2) = 0 then 192 else 193
  let n := 2 ^ k / m
  let r := isqrtFrom n 97 0
  (r, -((e + k) / 2), r * r * m != 2 ^ k)

end Sys2Proof.Machine
end

