-- ==== Sys2Proof/Machine/Float.lean ====
section
/-! DEFINITION. The floating-point arithmetic, comparison and reduction instructions (05_arith_vector.md R145-R150). -/

namespace Sys2Proof.Machine

/-- The formats that the first group of R106 computes in under 0x1F. -/
def isFloat5 (f : Fmt) : Bool := isFloat3 f || f == Fmt.e4m3 || f == Fmt.e5m2

/-- The element format: `FT`, or operand A's tag; a pointer's words are read as FP32 (R123, LOG 9, DEDUCED). -/
def floatFmt (f : Fields) (a : Token) : Fmt :=
  if f.ft != Fmt.fromOperand then f.ft else if a.fmt == Fmt.ptr then Fmt.fp32 else a.fmt

def taskMode (u : Cur) : Nat := (u.t.mode.extractLsb' 0 2).toNat
def taskFtz (u : Cur) : Bool := u.t.mode.getLsbD 2

/-- The rounding that `MOD` of the round and round-sat classes names (03 R69, 04 R107). -/
def modRm (f : Fields) (u : Cur) : Rm :=
  match f.mod.toNat with
  | 1 => .rne
  | 2 => .rtz
  | 3 => .rup
  | 4 => .rdn
  | 6 => .rne
  | _ => rmOf (taskMode u)

def modSat (f : Fields) : Bool := f.mod == 5 || f.mod == 6

/-- The rounding context of an instruction whose `MOD` rounds, in an element format. -/
def modCtx' (f : Fields) (u : Cur) (g : FpFmt) : FpCtx := ⟨g, modRm f u, modSat f, taskFtz u⟩

/-- The rounding context of any other instruction: RNE (R107). -/
def rneCtx (u : Cur) (g : FpFmt) : FpCtx := ⟨g, .rne, false, taskFtz u⟩

/-- A source element, flushed under `FTZ`. -/
def source (c : FpCtx) (x : Nat) : Num := flushNum c.ftz c.g (decodeNum c.g x)

/-- One operand, one result in the element format (or under `tag` of it). -/
def fUnary (f : Fields) (s : State) (o : Opnds) (cls : Fmt → Bool) (op : FpFmt → Nat → Nat × LaneFlags) : Act :=
  match o.a with
  | none => .trap illop
  | some a =>
    match wantA f a cls, fpFmt (floatFmt f a) with
    | some e, _ => .trap e
    | none, none => .trap (fmtTrap 0 a.fmt)
    | none, some g =>
      let m := floatFmt f a
      let r := elemWise m a.valid fun i j => op g (elemAt m a i j)
      .done s (.one (.data (result a (resTag f a) (lanesOf r) a.valid a.poison))) (flagsOf r)

def fBinary (f : Fields) (s : State) (o : Opnds) (cls : Fmt → Bool) (op : FpFmt → Nat → Nat → Nat × LaneFlags) : Act :=
  match o.a, o.b with
  | some a, some b =>
    (match firstTrap [wantA f a cls, wantSame (floatFmt f a) 1 a b], fpFmt (floatFmt f a) with
     | some e, _ => .trap e
     | none, none => .trap (fmtTrap 0 a.fmt)
     | none, some g =>
       let m := floatFmt f a
       let v := a.valid &&& b.valid
       let r := elemWise m v fun i j => op g (elemAt m a i j) (elemAt m b i j)
       .done s (.one (.data (result a (resTag f a) (lanesOf r) v (a.poison || b.poison)))) (flagsOf r))
  | _, _ => .trap illop

def fTernary (f : Fields) (s : State) (o : Opnds) (op : FpFmt → Nat → Nat → Nat → Nat × LaneFlags) : Act :=
  match o.a, o.b, o.c with
  | some a, some b, some c =>
    (match firstTrap [wantA f a isFloat5, wantSame (floatFmt f a) 1 a b, wantSame (floatFmt f a) 3 a c], fpFmt (floatFmt f a) with
     | some e, _ => .trap e
     | none, none => .trap (fmtTrap 0 a.fmt)
     | none, some g =>
       let m := floatFmt f a
       let v := a.valid &&& b.valid &&& c.valid
       let r := elemWise m v fun i j => op g (elemAt m a i j) (elemAt m b i j) (elemAt m c i j)
       .done s (.one (.data (result a (resTag f a) (lanesOf r) v (a.poison || b.poison || c.poison)))) (flagsOf r))
  | _, _, _ => .trap illop

/-! ### Arithmetic (R146) -/

def fpAdd (c : FpCtx) (x y : Nat) : Nat × LaneFlags := store c (addNum c.mode (source c x) (source c y))
def fpSub (c : FpCtx) (x y : Nat) : Nat × LaneFlags := store c (addNum c.mode (source c x) (source c y).neg)
def fpMul (c : FpCtx) (x y : Nat) : Nat × LaneFlags := store c (mulNum (source c x) (source c y))

/-- ±`a` × `b` ± `c`, rounded once. -/
def fpFma (negP negC : Bool) (c : FpCtx) (x y z : Nat) : Nat × LaneFlags :=
  let p := mulNum (source c x) (source c y)
  let w := source c z
  store c (addNum c.mode (if negP then p.neg else p) (if negC then w.neg else w))

/-- A quotient (R145, R146). -/
def fpDivNum (c : FpCtx) (a b : Num) : Nat × LaneFlags :=
  let out (r : Rounded) : Nat × LaneFlags := (r.bits, r.flags)
  match a, b with
  | .nan i, .nan j => store c (.nan (i || j))
  | .nan i, _ => store c (.nan i)
  | _, .nan j => store c (.nan j)
  | .inf _, .inf _ => store c (.nan true)
  | .inf s, .fin t _ _ => store c (.inf (s != t))
  | .fin s _ _, .inf t => store c (.zero (s != t))
  | .fin s m e, .fin t n d =>
    if m = 0 && n = 0 then store c (.nan true)
    else if n = 0 then let r := store c (.inf (s != t)); (r.1, r.2 ||| LaneFlags.dz)
    else if m = 0 then store c (.zero (s != t))
    else let q := divMag m e n d; out (roundNum c (.fin (s != t) q.1 q.2.1) q.2.2)

def fpDiv (c : FpCtx) (x y : Nat) : Nat × LaneFlags := fpDivNum c (source c x) (source c y)

def fpRcp (c : FpCtx) (x : Nat) : Nat × LaneFlags := fpDivNum c (.fin false 1 0) (source c x)

/-- √a: −0 stays −0, and a negative non-zero value is invalid. -/
def fpSqrt (c : FpCtx) (x : Nat) : Nat × LaneFlags :=
  match source c x with
  | .nan i => store c (.nan i)
  | .inf s => store c (if s then .nan true else .inf false)
  | .fin s m e =>
    if m = 0 then store c (.zero s)
    else if s then store c (.nan true)
    else let q := sqrtMag m e; let r := roundNum c (.fin false q.1 q.2.1) q.2.2; (r.bits, r.flags)

/-- 1/√a: ±0 gives ±∞ with `DZ`. -/
def fpRsq (c : FpCtx) (x : Nat) : Nat × LaneFlags :=
  match source c x with
  | .nan i => store c (.nan i)
  | .inf s => store c (if s then .nan true else .zero false)
  | .fin s m e =>
    if m = 0 then let r := store c (.inf s); (r.1, r.2 ||| LaneFlags.dz)
    else if s then store c (.nan true)
    else let q := rsqrtMag m e; let r := roundNum c (.fin false q.1 q.2.1) q.2.2; (r.bits, r.flags)

/-- Rounding to an integer in the format itself (`FRND`). -/
def fpRnd (c : FpCtx) (x : Nat) : Nat × LaneFlags :=
  match source c x with
  | .fin s m e =>
    if m = 0 then store c (.zero s)
    else
      let r := roundAt c.mode s m e false 0
      let b := store c (if 0 ≤ e then .fin s m e else .fin s r.1 0)
      (b.1, b.2 ||| (if r.2 && decide (e < 0) then LaneFlags.inx else 0))
  | y => store c y

def execFadd (f : Fields) (s : State) := runIns 0x080 .any f s fun s u o =>
  fBinary f s o isFloat5 fun g => fpAdd (modCtx' f u g)

def execFsub (f : Fields) (s : State) := runIns 0x081 .any f s fun s u o =>
  fBinary f s o isFloat5 fun g => fpSub (modCtx' f u g)

def execFmul (f : Fields) (s : State) := runIns 0x082 .any f s fun s u o =>
  fBinary f s o isFloat5 fun g => fpMul (modCtx' f u g)

def execFma (f : Fields) (s : State) := runIns 0x083 .any f s fun s u o =>
  fTernary f s o fun g => fpFma false false (modCtx' f u g)

def execFms (f : Fields) (s : State) := runIns 0x084 .any f s fun s u o =>
  fTernary f s o fun g => fpFma false true (modCtx' f u g)

def execFnma (f : Fields) (s : State) := runIns 0x085 .any f s fun s u o =>
  fTernary f s o fun g => fpFma true false (modCtx' f u g)

def execFnms (f : Fields) (s : State) := runIns 0x086 .any f s fun s u o =>
  fTernary f s o fun g => fpFma true true (modCtx' f u g)

def execFdiv (f : Fields) (s : State) := runIns 0x087 .any f s fun s u o =>
  fBinary f s o isFloat3 fun g => fpDiv (modCtx' f u g)

def execFsqrt (f : Fields) (s : State) := runIns 0x088 .any f s fun s u o =>
  fUnary f s o isFloat3 fun g => fpSqrt (modCtx' f u g)

def execFrcp (f : Fields) (s : State) := runIns 0x089 .any f s fun s u o =>
  fUnary f s o isFloat3 fun g => fpRcp (modCtx' f u g)

def execFrsq (f : Fields) (s : State) := runIns 0x08A .any f s fun s u o =>
  fUnary f s o isFloat3 fun g => fpRsq (modCtx' f u g)

def execFrnd (f : Fields) (s : State) := runIns 0x0B3 .any f s fun s u o =>
  fUnary f s o isFloat3 fun g => fpRnd (modCtx' f u g)

/-- a × 2^n, the count taken from B's lane for every sub-element of it. -/
def bodyFscale (f : Fields) (s : State) (u : Cur) (o : Opnds) : Act :=
  match o.a, o.b with
  | some a, some b =>
    (match firstTrap [wantA f a isFloat3, wantTag 1 b Fmt.int32], fpFmt (floatFmt f a) with
     | some e, _ => .trap e
     | none, none => .trap (fmtTrap 0 a.fmt)
     | none, some g =>
       let m := floatFmt f a
       let c := modCtx' f u g
       let v := a.valid &&& b.valid
       let r := elemWise m v fun i j => store c ((source c (elemAt m a i j)).scale (laneAt b i).toInt)
       .done s (.one (.data (result a (resTag f a) (lanesOf r) v (a.poison || b.poison)))) (flagsOf r))
  | _, _ => .trap illop

def execFscale (f : Fields) (s : State) := runIns 0x094 .any f s (bodyFscale f)

/-- R146: c + a0 × b0 + a1 × b1 in FP32, rounded once; slot C unnamed gives +0. -/
def bodyFdot2 (f : Fields) (s : State) (u : Cur) (o : Opnds) : Act :=
  match o.a, o.b with
  | some a, some b =>
    let c := o.c.getD { blankToken with fmt := Fmt.fp32 }
    (match firstTrap [wantTag 0 a Fmt.bf16, wantTag 1 b Fmt.bf16, wantTag 3 c Fmt.fp32] with
     | some e => .trap e
     | none =>
       let ctx := modCtx' f u .fp32
       let half (x : Nat) : Num := flushNum ctx.ftz .bf16 (decodeNum .bf16 x)
       let v := a.valid &&& b.valid &&& c.valid
       let r := elemWise Fmt.fp32 v fun i _ =>
         store ctx (sumNum ctx.mode [source ctx (laneAt c i).toNat,
           mulNum (half (elemAt Fmt.bf16 a i 0)) (half (elemAt Fmt.bf16 b i 0)),
           mulNum (half (elemAt Fmt.bf16 a i 1)) (half (elemAt Fmt.bf16 b i 1))])
       .done s (.one (.data (result a Fmt.fp32 (lanesOf r) v (a.poison || b.poison || c.poison)))) (flagsOf r))
  | _, _ => .trap illop

def execFdot2 (f : Fields) (s : State) := runIns 0x0B5 .any f s (bodyFdot2 f)

/-! ### Minimum, maximum, sign (R147) -/

/-- `INV` where a NaN operand raises it. -/
def nanFlags (l : List Num) : LaneFlags := if (nanOf l).getD false then LaneFlags.inv else 0

/-- −0 below +0. -/
def ltMin (a b : Num) : Bool :=
  match a, b with
  | .fin s 0 _, .fin t 0 _ => s && !t
  | x, y => ltNum x y

/-- The smaller, or the greater, of two; the other operand where one is NaN. -/
def fpMin (greater : Bool) (c : FpCtx) (x y : Nat) : Nat × LaneFlags :=
  let a := source c x
  let b := source c y
  let bits (n : Num) : Nat := (roundNum c n false).bits
  let fl := nanFlags [a, b]
  if a.isNan && b.isNan then (c.g.nan, fl)
  else if a.isNan then (bits b, fl)
  else if b.isNan then (bits a, fl)
  else if (if greater then ltMin a b else ltMin b a) then (bits b, 0) else (bits a, 0)

/-- Only the sign bit changes; a NaN becomes canonical, and no flag is raised. LOG 13, DEDUCED. -/
def fpSign (c : FpCtx) (x : Nat) (sign : Bool → Bool) : Nat × LaneFlags :=
  match source c x with
  | .nan _ => (c.g.nan, 0)
  | .inf s => ((roundNum c (.inf (sign s)) false).bits, 0)
  | .fin s m e => ((roundNum c (.fin (sign s) m e) false).bits, 0)

def execFmin (f : Fields) (s : State) := runIns 0x08B .any f s fun s u o =>
  fBinary f s o isFloat5 fun g => fpMin false (rneCtx u g)

def execFmax (f : Fields) (s : State) := runIns 0x08C .any f s fun s u o =>
  fBinary f s o isFloat5 fun g => fpMin true (rneCtx u g)

def execFabs (f : Fields) (s : State) := runIns 0x08D .any f s fun s u o =>
  fUnary f s o isFloat5 fun g x => fpSign (rneCtx u g) x fun _ => false

def execFneg (f : Fields) (s : State) := runIns 0x08E .any f s fun s u o =>
  fUnary f s o isFloat5 fun g x => fpSign (rneCtx u g) x (!·)

def execFcopysgn (f : Fields) (s : State) := runIns 0x0B4 .any f s fun s u o =>
  fBinary f s o isFloat5 fun g x y =>
    if (decodeNum g y).isNan then (g.nan, 0) else fpSign (rneCtx u g) x fun _ => y.testBit (g.width - 1)

/-! ### Comparisons and classes (R148) -/

/-- The flags that the elements of each lane raise, gathered by lane. -/
def laneFlagsOf (m : Fmt) (v : BitVec 16) (fl : Nat → Nat → LaneFlags) : FlagSet :=
  Vector.ofFn fun i =>
    if v.getLsbD i.val then (List.range (perLane m)).foldl (fun x j => x ||| fl i.val j) 0 else 0

def fCompare (f : Fields) (s : State) (u : Cur) (o : Opnds) (ordered : Bool) (test : Num → Num → Bool) : Act :=
  match o.a, o.b with
  | some a, some b =>
    (match firstTrap [wantA f a isFloat5, wantSame (floatFmt f a) 1 a b], fpFmt (floatFmt f a) with
     | some e, _ => .trap e
     | none, none => .trap (fmtTrap 0 a.fmt)
     | none, some g =>
       let m := floatFmt f a
       let c := rneCtx u g
       let v := a.valid &&& b.valid
       let x (i j : Nat) : Num := source c (elemAt m a i j)
       let y (i j : Nat) : Num := source c (elemAt m b i j)
       .done s (.one (.data (result a Fmt.pred (predLanes m v fun i j => test (x i j) (y i j)) v (a.poison || b.poison))))
         (laneFlagsOf m v fun i j =>
           if ordered && ((x i j).isNan || (y i j).isNan) then LaneFlags.inv else nanFlags [x i j, y i j]))
  | _, _ => .trap illop

def execFcmpeq (f : Fields) (s : State) := runIns 0x08F .any f s fun s u o => fCompare f s u o false eqNum
def execFcmplt (f : Fields) (s : State) := runIns 0x090 .any f s fun s u o => fCompare f s u o true ltNum
def execFcmple (f : Fields) (s : State) := runIns 0x091 .any f s fun s u o =>
  fCompare f s u o true fun x y => ltNum x y || eqNum x y
def execFcmpun (f : Fields) (s : State) := runIns 0x092 .any f s fun s u o =>
  fCompare f s u o false fun x y => x.isNan || y.isNan
def execFcmpne (f : Fields) (s : State) := runIns 0x0B8 .any f s fun s u o =>
  fCompare f s u o false fun x y => !eqNum x y

/-- The class code of an element. -/
def fpClass (g : FpFmt) (x : Nat) : Nat :=
  match decodeNum g x with
  | .nan inv => if inv && g.width != 8 then 8 else 9
  | .inf s => if s then 0 else 7
  | .fin s m _ =>
    if m = 0 then (if s then 3 else 4)
    else if m < 2 ^ g.mbits then (if s then 2 else 5)
    else if s then 1 else 6

def bodyFclass (f : Fields) (s : State) (_u : Cur) (o : Opnds) : Act :=
  match o.a with
  | none => .trap illop
  | some a =>
    match wantA f a isFloat5, fpFmt (floatFmt f a) with
    | some e, _ => .trap e
    | none, none => .trap (fmtTrap 0 a.fmt)
    | none, some g =>
      let m := floatFmt f a
      let tag := if g.width == 32 then Fmt.uint32 else if g.width == 16 then Fmt.int16 else Fmt.uint8
      let r := elemWise m a.valid fun i j => (fpClass g (elemAt m a i j), 0)
      .done s (.one (.data (result a tag (lanesOf r) a.valid a.poison))) noFlags

def execFclass (f : Fields) (s : State) := runIns 0x093 .any f s (bodyFclass f)

/-! ### Reductions (R150) -/

/-- One level of the tree: adjacent nodes combined, an only child passed on. -/
def treeLevel {α β : Type} (comb : α → α → α × β) : List (Option α) → List (Option α) × List β
  | [] => ([], [])
  | [x] => ([x], [])
  | x :: y :: r =>
    let t := treeLevel comb r
    match x, y with
    | some a, some b => let c := comb a b; (some c.1 :: t.1, c.2 :: t.2)
    | some a, none => (some a :: t.1, t.2)
    | none, z => (z :: t.1, t.2)

/-- The root after `k` levels, with what every node reported. -/
def treeFold {α β : Type} (comb : α → α → α × β) : Nat → List (Option α) → Option α × List β
  | 0, l => ((match l with | x :: _ => x | [] => none), [])
  | k + 1, l =>
    let t := treeLevel comb l
    let r := treeFold comb k t.1
    (r.1, t.2 ++ r.2)

/-- A fixed tree over the elements of A; the root in element 0 of lane 0, the flags in lane 0. -/
def fReduce (f : Fields) (s : State) (o : Opnds) (comb : FpFmt → Nat → Nat → Nat × LaneFlags) : Act :=
  match o.a with
  | none => .trap illop
  | some a =>
    match wantA f a isFloat3, fpFmt (floatFmt f a) with
    | some e, _ => .trap e
    | none, none => .trap (fmtTrap 0 a.fmt)
    | none, some g =>
      let m := floatFmt f a
      let leaves := (List.range (elemCount m)).map (denseAt m a a.valid)
      let t := treeFold (comb g) (if elemCount m = 16 then 4 else 5) leaves
      let fl := t.2.foldl (fun x y => x ||| y) (0 : LaneFlags)
      match t.1 with
      | none => .done s (.one (.data (result a (resTag f a) (Vector.replicate 16 0) 0 a.poison))) noFlags
      | some x =>
        .done s (.one (.data (result a (resTag f a) (denseLanes m fun n => if n = 0 then x else 0) 1 a.poison)))
          (flagsAt 0 fl)

def execFredadd (f : Fields) (s : State) := runIns 0x09B .any f s fun s u o =>
  fReduce f s o fun g => fpAdd (modCtx' f u g)

def execFredmax (f : Fields) (s : State) := runIns 0x09C .any f s fun s u o =>
  fReduce f s o fun g => fpMin true (rneCtx u g)

def execFredmin (f : Fields) (s : State) := runIns 0x09D .any f s fun s u o =>
  fReduce f s o fun g => fpMin false (rneCtx u g)

end Sys2Proof.Machine
end

