-- ==== Sys2Proof/Machine/Exact.lean ====
section
/-! DEFINITION. Exact pairs and double-word arithmetic (05_arith_vector.md R151-R158). -/

namespace Sys2Proof.Machine

/-! ### Exact pairs (R151, R152) -/

/-- The rounded value's own value; the zero's for what is not finite. -/
def finOf (g : FpFmt) (bits : Nat) : Num := decodeNum g bits

/-- A pair of results with the flags of both. -/
structure PairOut where
  hi : Nat
  lo : Nat
  flags : LaneFlags
  deriving DecidableEq, Repr

/-- A sum and its error term; RNE, saturating under `.SAT`, `FTZ` ignored. -/
def pairSum (g : FpFmt) (sat : Bool) (a b : Num) : PairOut :=
  let c : FpCtx := ⟨g, .rne, sat, false⟩
  let v := addNum .rne a b
  match v with
  | .nan i => ⟨g.nan, g.nan, if i then LaneFlags.inv else 0⟩
  | .inf s => ⟨(roundNum c (.inf s) false).bits, 0, 0⟩
  | .fin .. =>
    let r := roundNum c v false
    if r.ovf then ⟨r.bits, 0, r.flags⟩
    else
      let e := addNum .rne v (finOf g r.bits).neg
      ⟨r.bits, if e.isZero then 0 else (roundNum c e false).bits, r.flags⟩

/-- A product and its error term, which is rounded, with `EINX`, where the format cannot hold it. -/
def pairProd (g : FpFmt) (sat : Bool) (a b : Num) : PairOut :=
  let c : FpCtx := ⟨g, .rne, sat, false⟩
  let v := mulNum a b
  match v with
  | .nan i => ⟨g.nan, g.nan, if i then LaneFlags.inv else 0⟩
  | .inf s => ⟨(roundNum c (.inf s) false).bits, 0, 0⟩
  | .fin .. =>
    let r := roundNum c v false
    if r.ovf then ⟨r.bits, 0, r.flags⟩
    else
      let d := addNum .rne v (finOf g r.bits).neg
      if d.isZero then ⟨r.bits, 0, r.flags⟩
      else
        let e := roundNum c d false
        ⟨r.bits, e.bits, r.flags ||| (if e.flags.getLsbD 4 then LaneFlags.einx else 0)⟩

/-- Two results element by element. -/
def pairOp (f : Fields) (s : State) (o : Opnds) (op : FpFmt → Num → Num → PairOut) : Act :=
  match o.a, o.b with
  | some a, some b =>
    (match firstTrap [wantA f a isFloat3, wantSame (floatFmt f a) 1 a b], fpFmt (floatFmt f a) with
     | some e, _ => .trap e
     | none, none => .trap (fmtTrap 0 a.fmt)
     | none, some g =>
       let m := floatFmt f a
       let v := a.valid &&& b.valid
       let at_ (i j : Nat) : PairOut := op g (decodeNum g (elemAt m a i j)) (decodeNum g (elemAt m b i j))
       let hi := elemWise m v fun i j => let r := at_ i j; (r.hi, r.flags)
       let lo := elemWise m v fun i j => ((at_ i j).lo, 0)
       let tok (l : Vector Lane 16) : Val := .data (result a (resTag f a) l v (a.poison || b.poison))
       .done s (.two (tok (lanesOf hi)) (tok (lanesOf lo))) (flagsOf hi))
  | _, _ => .trap illop

def execFaddx (f : Fields) (s : State) := runIns 0x09E .any f s fun s _ o =>
  pairOp f s o fun g x y => pairSum g (f.mod == 1) x y

def execFsubx (f : Fields) (s : State) := runIns 0x09F .any f s fun s _ o =>
  pairOp f s o fun g x y => pairSum g (f.mod == 1) x y.neg

def execFmulx (f : Fields) (s : State) := runIns 0x0A0 .any f s fun s _ o =>
  pairOp f s o fun g x y => pairProd g (f.mod == 1) x y

/-! ### Double words (R154-R158) -/

/-- What the steps of one double-word instruction have met: the sign of the first overflow, whether an RN
step was inexact, whether a product's error term was rounded. -/
structure DwAcc where
  ovf : Option Bool
  inx : Bool
  einx : Bool
  deriving DecidableEq, Repr

abbrev DwAcc.start : DwAcc := ⟨none, false, false⟩

/-- `RN`: `RoundTo`(·, FP32, RNE), without saturation or flushing. -/
def dwRn (k : DwAcc) (x : Num) : DwAcc × Num :=
  let r := roundNum ⟨.fp32, .rne, false, false⟩ x false
  if r.ovf then
    ({ k with ovf := k.ovf.or (some (match x with | .fin s _ _ => s | _ => false)) }, .zero false)
  else ({ k with inx := k.inx || r.flags.getLsbD 4 }, finOf .fp32 r.bits)

def dwAdd2 (a b : Num) : Num := addNum .rne a b

def twoSum (k : DwAcc) (a b : Num) : DwAcc × Num × Num :=
  let v := dwAdd2 a b
  let r := dwRn k v
  let e := dwAdd2 v r.2.neg
  (r.1, r.2, if e.isZero then .zero false else e)

/-- `TwoProd`; its error term is rounded by R152 without a flag but `EINX`. -/
def twoProd (k : DwAcc) (a b : Num) : DwAcc × Num × Num :=
  let v := mulNum a b
  let r := dwRn k v
  let d := dwAdd2 v r.2.neg
  if d.isZero then (r.1, r.2, .zero false)
  else
    let e := roundNum ⟨.fp32, .rne, false, false⟩ d false
    ({ r.1 with einx := r.1.einx || e.flags.getLsbD 4 }, r.2, finOf .fp32 e.bits)

def fastTwoSum (k : DwAcc) (a b : Num) : DwAcc × Num × Num :=
  let s := dwRn k (dwAdd2 a b)
  let z := dwRn s.1 (dwAdd2 s.2 a.neg)
  let e := dwRn z.1 (dwAdd2 b z.2.neg)
  (e.1, s.2, e.2)

/-- `DWAdd`. -/
def dwAddPairs (k : DwAcc) (xh xl yh yl : Num) : DwAcc × Num × Num :=
  let p := twoSum k xh yh
  let q := twoSum p.1 xl yl
  let e := dwRn q.1 (dwAdd2 p.2.2 q.2.1)
  let r := fastTwoSum e.1 p.2.1 e.2
  let g := dwRn r.1 (dwAdd2 r.2.2 q.2.2)
  fastTwoSum g.1 r.2.1 g.2

/-- `DWMul`. -/
def dwMulPairs (k : DwAcc) (xh xl yh yl : Num) : DwAcc × Num × Num :=
  let p := twoProd k xh yh
  let t := dwRn p.1 (mulNum xl yh)
  let t' := dwRn t.1 (dwAdd2 (mulNum xh yl) t.2)
  let e := dwRn t'.1 (dwAdd2 p.2.2 t'.2)
  fastTwoSum e.1 p.2.1 e.2

/-- R156: the special values and flags, from the operand elements, the value on the extended reals, and the steps. -/
def dwOut (opnds : List Num) (whole : Num) (steps : DwAcc → DwAcc × Num × Num) : PairOut :=
  let enc (n : Num) : Nat := (roundNum ⟨.fp32, .rne, false, false⟩ n false).bits
  let bad : PairOut := ⟨FpFmt.fp32.nan, FpFmt.fp32.nan, LaneFlags.inv⟩
  if opnds.any Num.isNan then bad
  else if opnds.any Num.isInf then
    match whole with
    | .inf s => ⟨enc (.inf s), 0, 0⟩
    | .nan _ => bad
    | x => ⟨enc x, 0, 0⟩
  else
    let r := steps .start
    match r.1.ovf with
    | some s => ⟨enc (.inf s), 0, LaneFlags.ovf ||| LaneFlags.inx⟩
    | none =>
      ⟨enc r.2.1, enc r.2.2,
        (if r.1.inx then LaneFlags.inx else 0) ||| (if r.1.einx then LaneFlags.einx else 0)⟩

def dwAddOut (xh xl yh yl : Num) : PairOut :=
  dwOut [xh, xl, yh, yl] (sumNum .rne [xh, xl, yh, yl]) fun k => dwAddPairs k xh xl yh yl

def dwMulOut (xh xl yh yl : Num) : PairOut :=
  dwOut [xh, xl, yh, yl] (mulNum (dwAdd2 xh xl) (dwAdd2 yh yl)) fun k => dwMulPairs k xh xl yh yl

/-- `DWFMA`: x + a × b by `DWAdd` of `TwoProd`. -/
def dwFmaOut (xh xl a b : Num) : PairOut :=
  dwOut [xh, xl, a, b] (sumNum .rne [xh, xl, mulNum a b]) fun k =>
    let p := twoProd k a b
    dwAddPairs p.1 xh xl p.2.1 p.2.2

def dwNormOut (h l : Num) : PairOut := dwOut [h, l] (dwAdd2 h l) fun k => twoSum k h l

/-- The value of an FP32 lane. -/
def fp32At (t : Token) (i : Nat) : Num := decodeNum .fp32 (laneAt t i).toNat

/-- Two FP32 results from lanewise pairs. -/
def dwResult (s : State) (a : Token) (v : BitVec 16) (poison : Bool) (out : Nat → PairOut) : Act :=
  let hi := elemWise Fmt.fp32 v fun i _ => let r := out i; (r.hi, r.flags)
  let lo := elemWise Fmt.fp32 v fun i _ => ((out i).lo, 0)
  .done s (.two (.data (result a Fmt.fp32 (lanesOf hi) v poison)) (.data (result a Fmt.fp32 (lanesOf lo) v poison)))
    (flagsOf hi)

/-- An instruction on the pair of registers that `IMM`[3:0] names and its two operands (R155). -/
def dwState (f : Fields) (s : State) (u : Cur) (o : Opnds) (out : Num → Num → Num → Num → PairOut) : Act :=
  match o.a, o.b with
  | some a, some b =>
    let reg (k : Nat) : Token :=
      ((if h : k < 16 then u.t.sregs[k] else none).getD { blankToken with fmt := Fmt.fp32 })
    let xh := reg (immN f % 16)
    let xl := reg (immN f % 16 + 1)
    (match firstTrap [wantTag 0 a Fmt.fp32, wantTag 1 b Fmt.fp32, wantTag 0 xh Fmt.fp32, wantTag 0 xl Fmt.fp32] with
     | some e => .trap e
     | none =>
       dwResult s a (a.valid &&& b.valid &&& xh.valid &&& xl.valid)
         (a.poison || b.poison || xh.poison || xl.poison) fun i =>
           out (fp32At xh i) (fp32At xl i) (fp32At a i) (fp32At b i))
  | _, _ => .trap illop

def execDwadd (f : Fields) (s : State) := runIns 0x0A1 .any f s fun s u o => dwState f s u o dwAddOut
def execDwsub (f : Fields) (s : State) := runIns 0x0B7 .any f s fun s u o =>
  dwState f s u o fun xh xl yh yl => dwAddOut xh xl yh.neg yl.neg
def execDwmul (f : Fields) (s : State) := runIns 0x0A2 .any f s fun s u o => dwState f s u o dwMulOut
def execDwfma (f : Fields) (s : State) := runIns 0x0A3 .any f s fun s u o => dwState f s u o dwFmaOut

/-- The two operands of `DWNORM`, `DWRED` and `DWTOF`. -/
def dwOperands (o : Opnds) : Except TrapInfo (Token × Token) :=
  match o.a, o.b with
  | some a, some b =>
    (match firstTrap [wantTag 0 a Fmt.fp32, wantTag 1 b Fmt.fp32] with
     | some e => .error e
     | none => .ok (a, b))
  | _, _ => .error illop

def bodyDwnorm (_f : Fields) (s : State) (_u : Cur) (o : Opnds) : Act :=
  match dwOperands o with
  | .error e => .trap e
  | .ok (a, b) =>
    dwResult s a (a.valid &&& b.valid) (a.poison || b.poison) fun i => dwNormOut (fp32At a i) (fp32At b i)

def execDwnorm (f : Fields) (s : State) := runIns 0x0A4 .any f s (bodyDwnorm f)

/-- One node of R158: `DWAdd` of two pairs of FP32 patterns. -/
def dwNode (x y : Nat × Nat) : (Nat × Nat) × LaneFlags :=
  let n (v : Nat) : Num := decodeNum .fp32 v
  let r := dwAddOut (n x.1) (n x.2) (n y.1) (n y.2)
  ((r.hi, r.lo), r.flags)

def bodyDwred (_f : Fields) (s : State) (_u : Cur) (o : Opnds) : Act :=
  match dwOperands o with
  | .error e => .trap e
  | .ok (a, b) =>
    let leaves := (List.range 16).map fun i =>
      if validAt a i && validAt b i then some ((laneAt a i).toNat, (laneAt b i).toNat) else none
    let t := treeFold dwNode 4 leaves
    let po := a.poison || b.poison
    let tok (x : Nat) (v : BitVec 16) : Val :=
      .data (result a Fmt.fp32 (Vector.ofFn fun i => if i.val = 0 then BitVec.ofNat 32 x else 0) v po)
    match t.1 with
    | none => .done s (.two (tok 0 0) (tok 0 0)) noFlags
    | some x => .done s (.two (tok x.1 1) (tok x.2 1)) (flagsAt 0 (t.2.foldl (fun p q => p ||| q) 0))

def execDwred (f : Fields) (s : State) := runIns 0x0A5 .any f s (bodyDwred f)

/-- R157. It gives one result, so R156 is not about it: its NaN operands are those of R92; `FTZ` flushes neither its operands
nor its result, as R112 says of the double-word instructions (LOG 14, DEDUCED). -/
def bodyDwtof (f : Fields) (s : State) (u : Cur) (o : Opnds) : Act :=
  match dwOperands o with
  | .error e => .trap e
  | .ok (a, b) =>
    let c : FpCtx := ⟨.fp32, modRm f u, false, false⟩
    let v := a.valid &&& b.valid
    let r := elemWise Fmt.fp32 v fun i _ =>
      let x := fp32At a i
      let y := fp32At b i
      store c (addNum c.mode x y)
    .done s (.one (.data (result a Fmt.fp32 (lanesOf r) v (a.poison || b.poison)))) (flagsOf r)

def execDwtof (f : Fields) (s : State) := runIns 0x0A6 .any f s (bodyDwtof f)

end Sys2Proof.Machine
end

