-- ==== Sys2Proof/Machine/Convert.lean ====
section
/-! DEFINITION. Conversions, packing, and the mode and flag instructions (05_arith_vector.md R159-R165,
04_arith_formats.md R97-R105). -/

namespace Sys2Proof.Machine

def isCbFmt (f : Fmt) : Bool := f == Fmt.cb4 || f == Fmt.cb4s

/-- The codebook operand: kind 100 and the tag of the CB4 side (R105). -/
def wantBook (slot : Nat) (t : Token) (tag : Fmt) : Option TrapInfo :=
  if t.kind == Kind.codebook && t.fmt == tag then none else some (fmtTrap slot t.fmt)

/-- Entry `k` of a codebook token, its BF16 bits (02 R34). -/
def bookEntry (t : Token) (k : Nat) : Nat := (laneAt t (k / 2)).toNat / 2 ^ (16 * (k % 2)) % 2 ^ 16

/-- The power of two of a scale byte (R100). -/
def scalePow (s : BitVec 8) : Int := (s.toNat : Int) - 127

/-- A source element's value: burst-scaled formats under their token's scale, a NaN scale reading as NaN
(R100, R103); FP32, BF16 and FP16 flushed under `FTZ`. -/
def sourceNum (ftz : Bool) (f : Fmt) (scale : BitVec 8) (x : Nat) : Num :=
  if burstScaled f && scale == 0xFF then .nan true
  else
    let v := match fpFmt f with
      | some g => flushNum ftz g (decodeNum g x)
      | none => let i := intOf f x; .fin (decide (i < 0)) i.natAbs 0
    if burstScaled f then v.scale (scalePow scale) else v

/-! ### Encoding into a codebook (R99) -/

/-- The distance of two finite values, as a non-negative value. -/
def distNum (x y : Num) : Num := match addNum .rne x y.neg with | .fin _ m e => .fin false m e | z => z

/-- Codes from the lowest: the best by a strict preference among those that qualify. -/
def bestCode (better : Num → Num → Bool) : List (Nat × Num) → Option (Nat × Num)
  | [] => none
  | c :: r =>
    match bestCode better r with
    | none => some c
    | some d => if better d.2 c.2 then some d else some c

/-- `a` lies nearer to `x` than `b` does. An infinite `x` is nearest to what compares closest to it (LOG 15, DEDUCED). -/
def nearer (x a b : Num) : Bool :=
  match x with
  | .inf false => ltNum b a
  | .inf true => ltNum a b
  | _ =>
    match a, b with
    | .inf _, _ => false
    | .fin .., .inf _ => true
    | _, _ => ltNum (distNum x a) (distNum x b)

/-- A number against a codebook whose entries are all NaN: the code and flags are free (LOG 31, DESIGN CHOICE). -/
def openCode (x : Num) : Nat × LaneFlags :=
  let at_ : Bool × Option (Nat × Int) := match x with
    | .fin s m e => (s, some (m, e))
    | .inf s => (s, none)
    | .nan _ => (false, none)
  (Config.nanBookCode at_.1 at_.2 % 16,
    Config.nanBookFlags at_.1 at_.2 &&& (LaneFlags.inv ||| LaneFlags.ovf ||| LaneFlags.inx))

/-- A value encoded against a codebook: the code and its flags. -/
def encodeCode (mode : Rm) (entries : List (Nat × Num)) (x : Num) : Nat × LaneFlags :=
  match x with
  | .nan _ =>
    (match entries.find? (·.2.isNan) with
     | some c => (c.1, LaneFlags.inv)
     | none => (0, LaneFlags.inv))
  | _ =>
    let nums := entries.filter (!·.2.isNan)
    let near := bestCode (nearer x) nums
    let up := bestCode (fun a b => ltNum a b) (nums.filter fun c => !ltNum c.2 x)
    let down := bestCode (fun a b => ltNum b a) (nums.filter fun c => !ltNum x c.2)
    let neg := match x with | .inf s => s | .fin s m _ => s && m != 0 | _ => false
    let pick := match mode with
      | .rne => near
      | .rup => up
      | .rdn => down
      | .rtz => if neg then up else down
    let miss := pick.isNone
    match (if miss then near else pick) with
    | none => openCode x
    | some c =>
      (c.1, (if miss then LaneFlags.ovf else 0) ||| (if eqNum c.2 x then 0 else LaneFlags.inx))

/-- The codebook's entries as values, by code. -/
def bookNums (t : Token) : List (Nat × Num) :=
  (List.range 16).map fun k => (k, decodeNum .bf16 (bookEntry t k))

/-- `RoundTo` an integer format (R109). -/
def toInteger (f : Fmt) (mode : Rm) (x : Num) : Nat × LaneFlags :=
  match x with
  | .nan _ => (0, LaneFlags.inv)
  | .inf s => (wrapInt f (if s then intMin f else intMax f), LaneFlags.inv)
  | .fin s m e =>
    if m = 0 then (0, 0)
    else if 70 < (Nat.log2 m : Int) + e then (wrapInt f (if s then intMin f else intMax f), LaneFlags.inv)
    else
      let r := roundAt mode s m e false 0
      let v : Int := if s then -(r.1 : Int) else r.1
      if v < intMin f then (wrapInt f (intMin f), LaneFlags.inv)
      else if intMax f < v then (wrapInt f (intMax f), LaneFlags.inv)
      else (wrapInt f v, if r.2 then LaneFlags.inx else 0)

/-! ### Parts (R159) -/

/-- How a conversion rounds and into what. -/
structure ConvCtx where
  tag : Fmt
  scale : BitVec 8
  mode : Rm
  sat : Bool
  ftz : Bool
  book : List (Nat × Num)

/-- One value into the target format, divided by the result's scale where that is burst-scaled. -/
def convertNum (k : ConvCtx) (x : Num) : Nat × LaneFlags :=
  let y := if burstScaled k.tag then x.scale (-(scalePow k.scale)) else x
  if isCbFmt k.tag then encodeCode k.mode k.book y
  else
    match fpFmt k.tag with
    | some g => store ⟨g, k.mode, k.sat, k.ftz⟩ y
    | none => toInteger k.tag k.mode y

/-- Lanes of a conversion within each lane: `ws` source elements, `wd` result elements, part `p`. -/
def convLanes (ws wd p : Nat) (tag : Fmt) (v : BitVec 16) (conv : Nat → Nat → Nat × LaneFlags) :
    Vector (Lane × LaneFlags) 16 :=
  elemWise tag v fun i j =>
    if wd ≤ ws then (if p * wd + j < ws then conv i (p * wd + j) else (0, 0))
    else if p * ws ≤ j && j < p * ws + ws then conv i (j - p * ws) else (0, 0)

/-- The part lies in its range (R159). -/
def partOk (ws wd p : Nat) : Bool := if wd ≤ ws then decide (p * wd < ws) else decide (p * ws < wd)

/-- The scale of a conversion's result (R105): the source's where both are burst-scaled, else 0x7F. -/
def convScale (tag : Fmt) (a : Token) (src : Fmt) : BitVec 8 :=
  if burstScaled tag && burstScaled src then a.scale else 0x7F

/-- The result token of a conversion: `VALID` of A, the tag and the scale given. `BHEAD` and `SEQ` are no instruction's to
set (02 R38), so they are as in a token without a port, also where R163 has the result equal A (LOG 32, DESIGN CHOICE). -/
def convResult (a : Token) (tag : Fmt) (scale : BitVec 8) (lanes : Vector Lane 16) (v : BitVec 16) (poison : Bool) : Token :=
  normal { a with lanes := lanes, valid := v, fmt := tag, kind := 0, poison := poison, bhead := false, seq := 0, scale := scale }

/-- The conversion of each source element into parts of the target. -/
def convert (f : Fields) (s : State) (a : Token) (src : Fmt) (k : ConvCtx) (poison : Bool)
    (value : Nat → Num) : Act :=
  let ws := perLane src
  let wd := perLane k.tag
  if !partOk ws wd (immN f) then .trap illop
  else
    let r := convLanes ws wd (immN f) k.tag a.valid fun i j => convertNum k (value (subAt src (laneAt a i) j))
    .done s (.one (.data (convResult a k.tag k.scale (lanesOf r) a.valid poison))) (flagsOf r)

/-- The sources of `FCVT` and `FTOI` (R105). -/
def isFloatSource (f : Fmt) : Bool := (fpFmt f).isSome

/-- The sources of `ITOF`. -/
def isIntSource (f : Fmt) : Bool := isIntFmt f || f == Fmt.int8s

/-- The tag a pointer operand is read under (R123, LOG 9, DEDUCED). -/
def convSrc (t : Token) (asPtr : Fmt) : Fmt := if t.fmt == Fmt.ptr then asPtr else t.fmt

/-- The codebook operand where `FT` needs one. -/
def bookOf (f : Fields) (slot : Nat) (b : Option Token) : Except TrapInfo (Option Token) :=
  if isCbFmt f.ft then
    match b with
    | none => .error illop
    | some t => (match wantBook slot t f.ft with | some e => .error e | none => .ok (some t))
  else .ok none

def bookEntries (t : Option Token) : List (Nat × Num) := match t with | some b => bookNums b | none => []
def bookPoison (t : Option Token) : Bool := match t with | some b => b.poison | none => false

def bodyFcvt (f : Fields) (s : State) (u : Cur) (o : Opnds) : Act :=
  match o.a with
  | none => .trap illop
  | some a =>
    let src := convSrc a Fmt.fp32
    match wantIn 0 a isFloatSource, bookOf f 1 o.b with
    | some e, _ => .trap e
    | none, .error e => .trap e
    | none, .ok b =>
      convert f s a src ⟨f.ft, convScale f.ft a src, modRm f u, modSat f, taskFtz u, bookEntries b⟩
        (a.poison || bookPoison b) (sourceNum (taskFtz u) src a.scale)

def execFcvt (f : Fields) (s : State) := runIns 0x0A7 .any f s (bodyFcvt f)

/-- Elements of INT64 from eight FP32 lanes (R159). -/
def ftoi64 (f : Fields) (s : State) (u : Cur) (a : Token) : Act :=
  let p := immN f
  if 1 < p then .trap illop
  else
    let v : BitVec 16 := BitVec.ofFnLE fun i => validAt a (8 * p + i.val / 2)
    let r := elemWise Fmt.int64 v fun i _ =>
      toInteger Fmt.int64 (modRm f u) (sourceNum (taskFtz u) Fmt.fp32 a.scale (laneAt a (8 * p + i / 2)).toNat)
    .done s (.one (.data (convResult a Fmt.int64 0x7F (lanesOf r) v a.poison))) (flagsOf r)

def bodyFtoi (f : Fields) (s : State) (u : Cur) (o : Opnds) : Act :=
  match o.a with
  | none => .trap illop
  | some a =>
    let src := convSrc a Fmt.fp32
    match wantIn 0 a isFloatSource with
    | some e => .trap e
    | none =>
      if f.ft == Fmt.int64 then
        (if src == Fmt.fp32 then ftoi64 f s u a else .trap (fmtTrap 0 a.fmt))
      else
        convert f s a src ⟨f.ft, convScale f.ft a src, modRm f u, false, taskFtz u, []⟩ a.poison
          (sourceNum (taskFtz u) src a.scale)

def execFtoi (f : Fields) (s : State) := runIns 0x0A8 .any f s (bodyFtoi f)

/-- INT64 elements into eight FP32 lanes (R159). -/
def itof64 (f : Fields) (s : State) (u : Cur) (a : Token) : Act :=
  let p := immN f
  if 1 < p then .trap illop
  else
    let inPart (i : Nat) : Bool := i / 8 == p
    let v : BitVec 16 := BitVec.ofFnLE fun i => if inPart i.val then validAt a (2 * (i.val % 8)) else true
    let r := elemWise Fmt.fp32 v fun i _ =>
      if inPart i then store ⟨.fp32, modRm f u, false, taskFtz u⟩ (sourceNum false Fmt.int64 0x7F (pairAt a (i % 8)))
      else (0, 0)
    .done s (.one (.data (convResult a Fmt.fp32 0x7F (lanesOf r) v a.poison))) (flagsOf r)

/-- R159; of a codebook token that is not as wanted and an INT64 source that no codebook goes with, the token is reported (LOG 35,
DESIGN CHOICE). -/
def bodyItof (f : Fields) (s : State) (u : Cur) (o : Opnds) : Act :=
  match o.a with
  | none => .trap illop
  | some a =>
    let src := convSrc a (if f.ft == Fmt.fp32 then Fmt.int64 else Fmt.int32)
    match wantIn 0 a isIntSource, bookOf f 1 o.b with
    | some e, _ => .trap e
    | none, .error e => .trap e
    | none, .ok b =>
      if src == Fmt.int64 then
        (if f.ft == Fmt.fp32 then itof64 f s u a else .trap (fmtTrap 0 a.fmt))
      else
        convert f s a src ⟨f.ft, convScale f.ft a src, modRm f u, false, taskFtz u, bookEntries b⟩
          (a.poison || bookPoison b) (sourceNum false src a.scale)

def execItof (f : Fields) (s : State) := runIns 0x0A9 .any f s (bodyItof f)

/-- A CB4 code decodes to its entry bit for bit; a CB4S code to the scaled entry, rounded to nearest even
(R105, R107) and never flushed. LOG 18, DEDUCED. -/
def decodeCode (src : Fmt) (scale : BitVec 8) (book : Token) (code : Nat) : Nat × LaneFlags :=
  if src == Fmt.cb4 then (bookEntry book code, 0)
  else
    let x := if scale == 0xFF then Num.nan true else (decodeNum .bf16 (bookEntry book code)).scale (scalePow scale)
    store ⟨.bf16, .rne, false, false⟩ x

def bodyCbdec (f : Fields) (s : State) (_u : Cur) (o : Opnds) : Act :=
  match o.a, o.b with
  | some a, some b =>
    let src := convSrc a (if b.fmt == Fmt.cb4s then Fmt.cb4s else Fmt.cb4)
    (match firstTrap [wantIn 0 a isCbFmt, wantBook 1 b src] with
     | some e => .trap e
     | none =>
       if !partOk 8 2 (immN f) then .trap illop
       else
         let r := convLanes 8 2 (immN f) Fmt.bf16 a.valid fun i j => decodeCode src a.scale b (subAt src (laneAt a i) j)
         .done s (.one (.data (convResult a Fmt.bf16 0x7F (lanesOf r) a.valid (a.poison || b.poison)))) (flagsOf r))
  | _, _ => .trap illop

def execCbdec (f : Fields) (s : State) := runIns 0x0AA .any f s (bodyCbdec f)

def bodyCbenc (f : Fields) (s : State) (u : Cur) (o : Opnds) : Act :=
  match o.a, o.b with
  | some a, some b =>
    let src := convSrc a Fmt.fp32
    (match firstTrap [wantIn 0 a isFloat3, wantBook 1 b f.ft] with
     | some e => .trap e
     | none =>
       convert f s a src ⟨f.ft, 0x7F, .rne, false, taskFtz u, bookNums b⟩ (a.poison || b.poison)
         (sourceNum (taskFtz u) src a.scale))
  | _, _ => .trap illop

def execCbenc (f : Fields) (s : State) := runIns 0x0AB .any f s (bodyCbenc f)

/-- The result's `SCALE` is the scale given, whatever its format (R161). -/
def scaledBy (sc : BitVec 8) : Act → Act
  | .done s (.one (.data t)) fl => .done s (.one (.data { t with scale := sc })) fl
  | x => x

/-- R161; a poisoned scale operand is a control use (16 R409). LOG 18, DEDUCED. -/
def bodyBscl (f : Fields) (s : State) (u : Cur) (o : Opnds) : Act :=
  match o.a, o.b with
  | some a, some b =>
    if b.poison then .control
    else
      let src := convSrc a Fmt.fp32
      (match firstTrap [wantIn 0 a isFloat3, wantWord 1 b], bookOf f 3 o.c with
       | some e, _ => .trap e
       | none, .error e => .trap e
       | none, .ok c =>
         let sc := (laneAt b 0).extractLsb' 0 8
         let po := a.poison || bookPoison c
         if sc == 0xFF then
           (if !partOk (perLane src) (perLane f.ft) (immN f) then .trap illop
            else .done s (.one (.data (convResult a f.ft 0xFF (Vector.replicate 16 0) a.valid po)))
              (Vector.ofFn fun i => if validAt a i.val then LaneFlags.inv else 0))
         else
           scaledBy sc <| convert f s a src ⟨f.ft, if burstScaled f.ft then sc else 0x7F, modRm f u, modSat f, taskFtz u, bookEntries c⟩ po
             (sourceNum (taskFtz u) src a.scale))
  | _, _ => .trap illop

def execBscl (f : Fields) (s : State) := runIns 0x0AE .any f s (bodyBscl f)

/-! ### The scale of a burst (R162) -/

def absNum : Num → Num
  | .fin _ m e => .fin false m e
  | .inf _ => .inf false
  | x => x

def maxAbs : List Num → Num
  | [] => .zero false
  | x :: r => let y := maxAbs r; if ltNum y (absNum x) then absNum x else y

def finiteEntries (book : Option Token) : List Num :=
  ((bookEntries book).map (·.2)).filter fun n => !n.isNan && !n.isInf

/-- The largest finite magnitude of a target format, or of a codebook's finite entries. -/
def targetMax (f : Fmt) (book : Option Token) : Num :=
  match fpFmt f with
  | some g => decodeNum g g.maxFin
  | none =>
    if isCbFmt f then maxAbs (finiteEntries book)
    else .fin false 127 0

def floorLog2 : Num → Int
  | .fin _ m e => (Nat.log2 m : Int) + e
  | _ => 0

def clampScale (v : Int) : Nat := if v < 0 then 0 else if 0xFE < v then 0xFE else v.toNat

/-- The least `s` in [0, 0xFE] with amax / 2^(s − 127) ≤ M, 0xFE if there is none. -/
def leastScale (amax mx : Num) : Nat → Nat → Nat
  | 0, _ => 0xFE
  | k + 1, sc => if !ltNum (mx.scale ((sc : Int) - 127)) amax then sc else leastScale amax mx k (sc + 1)

/-- The scale where the codebook has no finite entry, so that no M is defined, is free (LOG 31, DESIGN CHOICE). -/
def openScale : Num → Nat
  | .fin _ m e => min 0xFE (Config.noMaxScale m e)
  | _ => 127

/-- R162: a NaN or infinite element gives 0xFF whatever amax and M are, the last of the special cases (LOG 32, DESIGN CHOICE). -/
def bodyBscalc (f : Fields) (s : State) (u : Cur) (o : Opnds) : Act :=
  match o.a with
  | none => .trap illop
  | some a =>
    let src := convSrc a Fmt.fp32
    match wantIn 0 a isFloat3, bookOf f 1 o.b with
    | some e, _ => .trap e
    | none, .error e => .trap e
    | none, .ok b =>
      let xs := (List.range (elemCount src)).filterMap fun n =>
        (denseAt src a a.valid n).map (sourceNum (taskFtz u) src a.scale)
      let amax := maxAbs (xs.filter (!·.isNan))
      let mx := targetMax f.ft b
      let sc : Nat :=
        if xs.any (fun n => n.isNan || n.isInf) then 0xFF
        else if amax.isZero then 127
        else if isCbFmt f.ft && (finiteEntries b).isEmpty then openScale amax
        else if mx.isZero then 127
        else if f.mod == 0 then leastScale amax mx 255 0
        else clampScale (127 + floorLog2 amax - floorLog2 mx)
      .done s (.one (.data (convResult a Fmt.uint32 0x7F (broadcast (BitVec.ofNat 32 sc)) 0xFFFF (a.poison || bookPoison b)))) noFlags

def execBscalc (f : Fields) (s : State) := runIns 0x0AF .any f s (bodyBscalc f)

/-! ### Packing (R163) -/

/-- Element `j` of a lane. -/
def denseSub (f : Fmt) (x : Lane) (j : Nat) : Nat := x.toNat / 2 ^ (denseWidth f * j) % 2 ^ denseWidth f

/-- Lane `i`, sub-element 0 := dense element 16p + i. -/
def unpackLane (m : Fmt) (a : Token) (p i : Nat) : Lane × Bool :=
  let n := 16 * p + i
  (BitVec.ofNat 32 (denseSub m (laneAt a (n / perLane m)) (n % perLane m)), validAt a (n / perLane m))

/-- Dense element 16p + i := sub-element 0 of lane i; the lane's validity that of every lane supplying it. -/
def packLane (m : Fmt) (a : Token) (p l : Nat) : Lane × Bool :=
  let w := perLane m
  let src (j : Nat) : Option Nat := if 16 * p ≤ l * w + j && l * w + j < 16 * p + 16 then some (l * w + j - 16 * p) else none
  (BitVec.ofNat 32 (packSubs (denseWidth m) ((List.range w).map fun j =>
    match src j with | some i => denseSub m (laneAt a i) 0 | none => 0)),
   (List.range w).all fun j => match src j with | some i => validAt a i | none => true)

/-- LOG 18, DEDUCED. -/
def packing (f : Fields) (s : State) (o : Opnds) (lane : Fmt → Token → Nat → Nat → Lane × Bool) : Act :=
  match o.a with
  | none => .trap illop
  | some a =>
    let m := if f.ft == Fmt.fromOperand then a.fmt else f.ft
    if f.ft == Fmt.fromOperand && (a.fmt == Fmt.int64 || a.fmt == Fmt.ptr) then .trap (fmtTrap 0 a.fmt)
    else
      match wantA f a knownFmt with
      | some e => .trap e
      | none =>
        let p := immN f
        if perLane m ≤ p then .trap illop
        else
          .done s (.one (.data (convResult a m a.scale (Vector.ofFn fun i => (lane m a p i.val).1)
            (BitVec.ofFnLE fun i => (lane m a p i.val).2) a.poison))) noFlags

def execPack (f : Fields) (s : State) := runIns 0x0AC .any f s fun s _ o => packing f s o packLane
def execUnpack (f : Fields) (s : State) := runIns 0x0AD .any f s fun s _ o => packing f s o unpackLane

/-! ### Modes and flags (R164, R165) -/

/-- An effect that takes place when the firing retires. -/
def later (s : State) (u : Cur) (d : Deferred) : State :=
  modFiring s u.key fun fr => { fr with deferred := fr.deferred ++ [(u.ins, d)] }

def bodySetmode (f : Fields) (s : State) (u : Cur) (o : Opnds) : Act :=
  match o.a with
  | none => .done (later s u (.setMode (f.imm.extractLsb' 0 3))) .none noFlags
  | some a =>
    if a.poison then .control
    else
      match wantIn 0 a fun g => g == Fmt.uint32 || g == Fmt.int32 with
      | some e => .trap e
      | none =>
        if validAt a 0 then .done (later s u (.setMode ((laneAt a 0).extractLsb' 0 3))) .none noFlags
        else .done s .none noFlags

def execSetmode (f : Fields) (s : State) := runIns 0x0B0 .any f s (bodySetmode f)

def bodyGetmode (_f : Fields) (s : State) (u : Cur) (_o : Opnds) : Act :=
  oneData s { blankToken with
    lanes := (Vector.replicate 16 0).set 0 (u.t.mode.zeroExtend 32), valid := 1, fmt := Fmt.uint32
    poison := u.t.spoilt.contains .mode }

def execGetmode (f : Fields) (s : State) := runIns 0x0B6 .any f s (bodyGetmode f)

def bodyGetflags (_f : Fields) (s : State) (u : Cur) (_o : Opnds) : Act :=
  oneData s { blankToken with 
    lanes := Vector.ofFn fun i => u.t.flags[i].zeroExtend 32, fmt := Fmt.uint32, poison := u.t.spoilt.contains .flags }

def execGetflags (f : Fields) (s : State) := runIns 0x0B1 .any f s (bodyGetflags f)

def bodyClrflags (f : Fields) (s : State) (u : Cur) (o : Opnds) : Act :=
  match o.a with
  | none =>
    .done (later s u (.clearFlags (Vector.ofFn fun i => if f.imm.getLsbD (7 + i.val) then f.imm.extractLsb' 0 7 else 0)))
      .none noFlags
  | some a =>
    if a.poison then .control
    else
      match wantIn 0 a fun g => g == Fmt.uint32 || g == Fmt.int32 with
      | some e => .trap e
      | none =>
        .done (later s u (.clearFlags (Vector.ofFn fun i => if validAt a i.val then a.lanes[i].extractLsb' 0 7 else 0)))
          .none noFlags

def execClrflags (f : Fields) (s : State) := runIns 0x0B2 .any f s (bodyClrflags f)

end Sys2Proof.Machine
end

