-- ==== Sys2Proof/Machine/Dataflow.lean ====
section
/-! DEFINITION. The dataflow, port and control instructions (05_arith_vector.md R125-R132). -/

namespace Sys2Proof.Machine

/-- The head of an input port. -/
def portHead (s : State) (cell port : Nat) : Option SlotTok :=
  match inArc s cell port with
  | some (_, a) => headOf a
  | none => none

/-- The head as a value of the block (R43, R50). -/
def bodyRdp (f : Fields) (s : State) (u : Cur) (_o : Opnds) : Act :=
  match portHead s u.cell (immN f) with
  | some { item := .data t, .. } =>
    (match readTag 0 f t with
     | some e => .trap e
     | none => .done s (.one (.data t)) noFlags)
  | some { item := .pred p, .. } =>
    if f.ft == Fmt.pred || f.ft == Fmt.fromOperand then .done s (.one (.pred p)) noFlags
    else .trap (fmtTrap 0 Fmt.pred)
  | _ => .wait

def execRdp (f : Fields) (s : State) := runIns 0x001 .any f s (bodyRdp f)

/-- A state register as it stood when the firing began, or the token an unset register reads as (R122). -/
def sregRead (f : Fields) (u : Cur) (k : Nat) : Except TrapInfo Token :=
  match (if h : k < 16 then u.t.sregs[k] else none) with
  | some t => (match readTag 0 f t with | some e => .error e | none => .ok t)
  | none =>
    if f.ft == Fmt.ptr then .error (trapOf .ptrTag)
    else .ok { blankToken with fmt := if f.ft == Fmt.fromOperand then Fmt.int32 else f.ft }

def bodyRds (f : Fields) (s : State) (u : Cur) (_o : Opnds) : Act :=
  match sregRead f u (immN f) with
  | .error e => .trap e
  | .ok t => .done s (.one (.data t)) noFlags

def execRds (f : Fields) (s : State) := runIns 0x002 .any f s (bodyRds f)

def constAt (u : Cur) (k : Nat) : BitVec 32 := if h : k < 16 then u.c.consts[k] else 0

def bodyRdk (f : Fields) (s : State) (u : Cur) (_o : Opnds) : Act :=
  oneData s { blankToken with
    lanes := broadcast (constAt u (immN f))
    fmt := if f.ft == Fmt.fromOperand then Fmt.raw else f.ft }

def execRdk (f : Fields) (s : State) := runIns 0x003 .any f s (bodyRdk f)

def bodyImm (f : Fields) (s : State) (_u : Cur) (o : Opnds) : Act :=
  if f.mod == 0 then
    if f.ft == Fmt.fromOperand then oneData s { blankToken with lanes := broadcast (f.imm.signExtend 32) }
    else oneData s (fillToken f.ft f.imm)
  else
    match o.a with
    | none => .trap illop
    | some a =>
      match wantA f a isIntFmt with
      | some e => .trap e
      | none =>
        oneData s (result a (if a.fmt == Fmt.ptr then resTag f a else a.fmt)
          (Vector.ofFn fun i => (f.imm.extractLsb' 0 16 ++ a.lanes[i].extractLsb' 0 16 : BitVec 32)) a.valid a.poison)

def execImm (f : Fields) (s : State) := runIns 0x004 .any f s (bodyImm f)

/-- Add a send to the firing; a second one to the same port, or one to a port with no arc, traps `ILLOP` (R50, LOG 10, DEDUCED). -/
def addSend (s : State) (u : Cur) (port : Nat) (x : Outgoing) : Act :=
  if u.fr.sends.any (·.1 == port) then .trap illop
  else .done (modFiring s u.key fun fr => { fr with sends := fr.sends ++ [(port, x)] }) .none noFlags

def outIsPred (s : State) (cell port : Nat) : Bool :=
  match arcsFrom s cell port with
  | (_, a) :: _ => a.isPred
  | [] => false

def bodyWrp (f : Fields) (s : State) (u : Cur) (o : Opnds) : Act :=
  match o.a with
  | none => .trap illop
  | some a =>
    match carryTag 0 f a with
    | some e => .trap e
    | none =>
      if (arcsFrom s u.cell (immN f)).isEmpty then .trap illop
      else if outIsPred s u.cell (immN f) then
        if a.kind == 0 && a.fmt == Fmt.pred then addSend s u (immN f) (.token (.pred (tokenToPred a)))
        else .trap (fmtTrap 0 a.fmt)
      else addSend s u (immN f) (.token (.data a))

def execWrp (f : Fields) (s : State) := runIns 0x005 .any f s (bodyWrp f)

/-- A state register is written at most once in a firing (R132). -/
def addWrite (s : State) (u : Cur) (k : Nat) (t : Token) (r : Res) : Act :=
  if u.fr.writes.any (·.1 == k) then .trap illop
  else .done (modFiring s u.key fun fr => { fr with writes := fr.writes ++ [(k, t)] }) r noFlags

def bodyWrs (f : Fields) (s : State) (u : Cur) (o : Opnds) : Act :=
  match o.a with
  | none => .trap illop
  | some a =>
    match carryTag 0 f a with
    | some e => .trap e
    | none => addWrite s u (immN f) a .none

def execWrs (f : Fields) (s : State) := runIns 0x006 .any f s (bodyWrs f)

/-- The token that a variant of `SENDT` forms (R127, R34). -/
def sendtToken (f : Fields) (a : Token) : Except TrapInfo Token :=
  if f.mod == 2 then
    if a.kind == 0 && (a.fmt == Fmt.bf16 || a.fmt == Fmt.ptr) && (a.valid.extractLsb' 0 8) == 0xFF#8 then
      .ok { blankToken with
        lanes := Vector.ofFn fun i => if i.val < 8 then a.lanes[i] else 0
        valid := 0x00FF, fmt := Fmt.cb4, kind := Kind.codebook, poison := a.poison }
    else .error (fmtTrap 0 a.fmt)
  else
    match wantWord 0 a with
    | some e => .error e
    | none =>
      let x := laneAt a 0
      if f.mod == 1 then
        .ok { blankToken with
          lanes := (Vector.replicate 16 0).set 0 (x &&& 7), valid := 1, kind := Kind.steering, poison := a.poison }
      else
        .ok { blankToken with
          lanes := (Vector.replicate 16 0).set 0 x, valid := 1, kind := Kind.endOfReduction, poison := a.poison }

def bodySendt (f : Fields) (s : State) (u : Cur) (o : Opnds) : Act :=
  match o.a with
  | none => .trap illop
  | some a =>
    match sendtToken f a with
    | .error e => .trap e
    | .ok t =>
      if (arcsFrom s u.cell (immN f)).isEmpty || outIsPred s u.cell (immN f) then .trap illop
      else addSend s u (immN f) (.token (.data t))

def execSendt (f : Fields) (s : State) := runIns 0x007 .any f s (bodySendt f)

/-- A carried unchanged (R121, R123). -/
def bodyMov (f : Fields) (s : State) (_u : Cur) (o : Opnds) : Act :=
  match o.a with
  | none => .trap illop
  | some a =>
    match carryTag 0 f a with
    | some e => .trap e
    | none => .done s (.one (.data a)) noFlags

def execMov (f : Fields) (s : State) := runIns 0x008 .any f s (bodyMov f)

/-- The firing's exit; a second one in the firing traps `ILLOP` (R49). -/
def addExit (s : State) (u : Cur) (e : Nat) : Act :=
  match u.fr.exit with
  | some _ => .trap illop
  | none => .done (modFiring s u.key fun fr => { fr with exit := some e }) .none noFlags

def bodyExit (f : Fields) (s : State) (u : Cur) (_o : Opnds) : Act := addExit s u (immN f % 4)

def execExit (f : Fields) (s : State) := runIns 0x009 .any f s (bodyExit f)

def execSteer (f : Fields) (s : State) := runIns 0x00A .any f s (bodyMov f)

/-- R128: the lanes split by the lane predicate; both targets always receive a token. -/
def bodySteerl (f : Fields) (s : State) (_u : Cur) (o : Opnds) : Act :=
  match o.a, o.p with
  | some a, some p =>
    if a.kind != 0 then .trap (fmtTrap 0 a.fmt)
    else
      match carryTag 0 f a with
      | some e => .trap e
      | none =>
        let po := a.poison || p.poison
        .done s (.two (.data (normal { a with valid := a.valid &&& p.lp, poison := po }))
          (.data (normal { a with valid := a.valid &&& ~~~p.lp, poison := po }))) noFlags
  | _, _ => .trap illop

def execSteerl (f : Fields) (s : State) := runIns 0x00B .any f s (bodySteerl f)

/-- R129. -/
def bodyMerge (f : Fields) (s : State) (u : Cur) (o : Opnds) : Act :=
  match o.a, o.b with
  | some _, some _ => .trap illop
  | some a, none => bodyMov f s u { o with a := some a }
  | none, some b =>
    (match carryTag 1 f b with
     | some e => .trap e
     | none => .done s (.one (.data b)) noFlags)
  | none, none => .nullified

def execMerge (f : Fields) (s : State) := runIns 0x00C .merge f s (bodyMerge f)

/-- R130: `CARRY` gives the register's old token and writes A. -/
def bodyCarry (f : Fields) (s : State) (u : Cur) (o : Opnds) : Act :=
  match o.a with
  | none => .trap illop
  | some a =>
    match carryTag 0 f a with
    | some e => .trap e
    | none =>
      match sregRead f u (immN f) with
      | .error e => .trap e
      | .ok t => addWrite s u (immN f) a (.one (.data t))

def execCarry (f : Fields) (s : State) := runIns 0x00D .any f s (bodyCarry f)

/-- R130: `INVAR` gives A and writes it, checking the tag of a register that is set; or, with A null, gives
the register's token (LOG 11, DEDUCED). -/
def bodyInvar (f : Fields) (s : State) (u : Cur) (o : Opnds) : Act :=
  match o.a with
  | none =>
    (match sregRead f u (immN f) with
     | .error e => .trap e
     | .ok t => .done s (.one (.data t)) noFlags)
  | some a =>
    match carryTag 0 f a with
    | some e => .trap e
    | none =>
      match (if h : immN f < 16 then u.t.sregs[immN f] else none) with
      | some t =>
        (match readTag 0 f t with
         | some e => .trap e
         | none => addWrite s u (immN f) a (.one (.data a)))
      | none => addWrite s u (immN f) a (.one (.data a))

def execInvar (f : Fields) (s : State) := runIns 0x00E .invar f s (bodyInvar f)

def bodyNullt (_f : Fields) (s : State) (_u : Cur) (o : Opnds) : Act :=
  match o.a with
  | none => .trap illop
  | some a => oneData s { a with valid := 0 }

def execNullt (f : Fields) (s : State) := runIns 0x00F .any f s (bodyNullt f)

/-- R131: a data token keeps its payload and takes the tag of the result; a codebook token may take CB4 or CB4S. -/
def bodySettag (f : Fields) (s : State) (_u : Cur) (o : Opnds) : Act :=
  match o.a with
  | none => .trap illop
  | some a =>
    let tag := f.imm.extractLsb' 0 8
    if a.kind == Kind.codebook then
      if f.ft == Fmt.fromOperand then .done s (.one (.data { a with tag := tag })) noFlags
      else if f.ft == Fmt.cb4 || f.ft == Fmt.cb4s then .done s (.one (.data { a with tag := tag, fmt := f.ft })) noFlags
      else .trap (fmtTrap 0 a.fmt)
    else
      match wantA f a knownFmt with
      | some e => .trap e
      | none => oneData s { a with tag := tag, fmt := resTag f a }

def execSettag (f : Fields) (s : State) := runIns 0x010 .any f s (bodySettag f)

/-- The value that a variant of `SBGET` reads (R131). -/
def sbgetValue (m : BitVec 3) (a : Token) : Nat :=
  if m == 0 then a.valid.toNat
  else if m == 1 then a.fmt.toNat + 2 ^ 5 * a.kind.toNat + 2 ^ 8 * a.poison.toNat + 2 ^ 9 * a.bhead.toNat
  else if m == 2 then a.scale.toNat
  else a.seq.toNat + 2 ^ 22 * a.tag.toNat

def bodySbget (f : Fields) (s : State) (_u : Cur) (o : Opnds) : Act :=
  match o.a with
  | none => .trap illop
  | some a =>
    oneData s { blankToken with
      lanes := broadcast (BitVec.ofNat 32 (sbgetValue f.mod a)), fmt := Fmt.uint32, poison := a.poison, tag := a.tag }

def execSbget (f : Fields) (s : State) := runIns 0x011 .any f s (bodySbget f)

def bodyNop (_f : Fields) (s : State) (_u : Cur) (_o : Opnds) : Act := .done s .none noFlags

def execNop (f : Fields) (s : State) := runIns 0x012 .any f s (bodyNop f)

end Sys2Proof.Machine
end

