-- ==== Sys2Proof/Machine/Translate.lean ====
section
/-! DEFINITION. From a virtual address to the byte it names: windows, symbols, range entries, page tables, and
the checks on an access (09_order_model.md R228-R231, 15_isolation.md R378-R390). -/

namespace Sys2Proof.Machine

/-- On whose behalf an access is made: the page, context and instance it belongs to, the die it stands on, and
the task whose bank tokens govern it. -/
structure Party where
  page : Nat
  asid : BitVec 8
  inst : BitVec 32
  die : Nat
  task : Nat × Nat
  ponly : Bool
  deriving DecidableEq, Repr

/-- Fields of the context word (R375). -/
def ctxPtRoot (w : BitVec 64) : Nat := (w.extractLsb' 12 40).toNat * 2 ^ 12
def ctxPonly (w : BitVec 64) : Bool := w.getLsbD 8

def partyOf (s : State) (cell task : Nat) : Party :=
  { page := pageIdOf s cell, asid := asidOf s cell
    inst := match pageOf s cell with
      | some p => p.inst
      | none => 0
    die := dieOf s cell, task := (cell, task)
    ponly := match ctxOf s cell with
      | some x => ctxPonly x.word
      | none => false }

/-- What an access does: reads, writes, and whether its data is tagged PTR. -/
structure Need where
  rd : Bool
  wr : Bool
  ptr : Bool
  deriving DecidableEq, Repr

abbrev Need.read : Need := ⟨true, false, false⟩
abbrev Need.write : Need := ⟨false, true, false⟩
abbrev Need.both : Need := ⟨true, true, false⟩

abbrev windowBase : Nat := 0x1FFFFFFFFC00000
abbrev symbolBase : Nat := 0x1FFFFFFFFB00000

def inWindow (v : Nat) : Bool := decide (windowBase ≤ v)
def inSymbols (v : Nat) : Bool := decide (symbolBase ≤ v ∧ v < symbolBase + 0x10000)

/-! ### Tiles and banks (09 R229, 10 R287) -/

/-- The sites of the twelve memory tiles by tile number (R229). -/
def tileSites : List (Nat × Nat) :=
  [(1, 1), (6, 1), (3, 2), (4, 2), (2, 3), (5, 3), (2, 4), (5, 4), (3, 5), (4, 5), (1, 6), (6, 6)]

/-- The declared cell of tile `t` of a page. -/
def tileCell (s : State) (page t : Nat) : Option Nat :=
  match tileSites[t]? with
  | none => none
  | some xy =>
    (s.cells.find? fun kc => kc.2.page == page && kc.2.kind == .t && kc.2.sx == xy.1 && kc.2.sy == xy.2).map (·.1)

/-- A task holds a bank's token (R286, R288). -/
def holdsBank (s : State) (task : Nat × Nat) (b : Nat × Nat) : Bool :=
  match tget s.banks b with
  | none => false
  | some x => x.holder == some task

/-- The bank of a window offset is one the task names and does not hold (R287). -/
def bankBlocked (s : State) (p : Party) (off : Nat) : Bool :=
  match tget s.tasks p.task, tileCell s p.page (off / 0x40000) with
  | some t, some c =>
    let b := (c, off / 0x4000 % 16)
    t.banks.contains b && !holdsBank s p.task b
  | _, _ => false

/-! ### Physical addresses (01 R25) -/

def ownPackage (s : State) : Nat := (s.pkg.domid.extractLsb' 0 4).toNat

/-- The package that a physical address names. -/
def packageOf (pa : Nat) : Nat := pa / 2 ^ 48

def dieFitted (s : State) (n : Nat) : Bool := if h : n < 4 then s.pkg.dies[n].fitted else false

/-- `DOMID`[11:8] + 1, the packages of the load-store domain (18 R445), numbered from 0 (LOG 4, DESIGN CHOICE). -/
def domainSize (s : State) : Nat := (s.pkg.domid.extractLsb' 8 4).toNat + 1

/-- A package of the domain that some path of working Reach links reaches (18 R450). LOG 4, DESIGN CHOICE. -/
def reachable (s : State) (k : Nat) : Bool :=
  decide (k < domainSize s) && !s.pkg.unreachable.contains k && decide (s.pkg.linksDown.length < 12)

/-- The address is no hole: HBM of a fitted die, or the second tier; management space is mapped by no
translation (18 R445). Of another package every stack counts as fitted (LOG 4, DESIGN CHOICE). -/
def physExists (s : State) (pa : Nat) : Bool :=
  let o := pa % 2 ^ 48
  decide (pa < 2 ^ 52) && (packageOf pa == ownPackage s || reachable s (packageOf pa)) &&
    (if o < 0x8000000000 then packageOf pa != ownPackage s || dieFitted s (o / 0x2000000000)
     else decide (0x80000000000 ≤ o ∧ o < 0x100000000000))

/-! ### Range entries (R384, R385) -/

def rgValid (e : RangeEntry) : Bool := e.ctl.getLsbD 0
def rgReadable (e : RangeEntry) : Bool := e.ctl.getLsbD 1
def rgWritable (e : RangeEntry) : Bool := e.ctl.getLsbD 2
def rgFmt (e : RangeEntry) : Fmt := e.ctl.extractLsb' 7 5
/-- The codebook pointer's virtual address. -/
def rgBook (e : RangeEntry) : Nat := (e.ctl.extractLsb' 12 52).toNat * 32 % 2 ^ 57

def covers (v : Nat) (e : RangeEntry) : Bool := rgValid e && decide (e.base ≤ v ∧ v < e.lim)

/-- The entry that covers an address: one the die's range cache holds, else the context's own. -/
def entryAt (s : State) (p : Party) (v : Nat) : Option RangeEntry :=
  if inWindow v || inSymbols v then none
  else
    match s.rangeHeld.find? (fun h => h.die == p.die && h.asid == p.asid && covers v h.entry) with
    | some h => some h.entry
    | none =>
      match tget s.contexts p.asid with
      | none => none
      | some x => x.ranges.find? (covers v)

/-! ### Page tables (R386-R388) -/

/-- A translation: the page's virtual and physical bases, its size and permissions. -/
structure PageMap where
  vbase : Nat
  size : Nat
  pbase : Nat
  readable : Bool
  writable : Bool
  deriving DecidableEq, Repr

/-- The entries of a group by level and size code (R387); none outside the table. -/
def groupCount (level sz : Nat) : Option Nat :=
  if level = 0 then (if sz ≤ 4 then some (4 ^ sz) else none)
  else if level = 1 then
    (match sz with
     | 0 => some 1
     | 1 => some 8
     | 2 => some 32
     | 3 => some 128
     | _ => none)
  else if level = 2 ∧ sz = 0 then some 1
  else none

/-- A table entry, as its home holds it. -/
def tableEntry (s : State) (addr : Nat) : BitVec 64 := BitVec.ofNat 64 (readNat s.phys addr 8)

def pteOk (e : BitVec 64) : Bool := e.getLsbD 0 && e.extractLsb' 52 12 == 0#12 && e.extractLsb' 4 4 == 0#4
def pteLeaf (e : BitVec 64) : Bool := e.getLsbD 1
def pteSz (e : BitVec 64) : Nat := (e.extractLsb' 8 4).toNat
def ptePa (e : BitVec 64) : Nat := (e.extractLsb' 12 40).toNat * 2 ^ 12

/-- The leaf that translates an address of a group: where the group's entries differ, any of them (R387). -/
def groupLeaf (s : State) (table idx v : Nat) (e : BitVec 64) (count : Nat) : BitVec 64 :=
  let first := idx / count * count
  let at_ (k : Nat) := tableEntry s (table + 8 * (first + k))
  if (List.range count).all (fun k => at_ k == e) then e else at_ (Config.groupEntry s.free v % count)

/-- A leaf read at a level. LOG 22, DEDUCED. -/
def leafMap (level v : Nat) (e : BitVec 64) : Option PageMap :=
  match groupCount level (pteSz e) with
  | none => none
  | some c =>
    let size := c * 2 ^ (12 + 9 * level)
    if !pteOk e || !pteLeaf e || ptePa e % size != 0 then none
    else some ⟨v / size * size, size, ptePa e, e.getLsbD 2, e.getLsbD 3⟩

/-- The walk from a table at a level downward: none is the fault `TRANSLATE`. -/
def walkFrom (s : State) (v : Nat) : Nat → Nat → Option PageMap
  | 0, _ => none
  | level + 1, table =>
    let idx := v / 2 ^ (12 + 9 * level) % 512
    let e := tableEntry s (table + 8 * idx)
    if !physExists s (table + 8 * idx) || !pteOk e then none
    else if pteLeaf e then
      if 3 ≤ level then none
      else
        match groupCount level (pteSz e) with
        | none => none
        | some c => leafMap level v (groupLeaf s table idx v e c)
    else if pteSz e != 0 || e.getLsbD 2 || e.getLsbD 3 then none
    else walkFrom s v level (ptePa e)

/-- The page that holds an address: a translation that the die holds, else a walk (R388, R389). -/
def pageMap (s : State) (p : Party) (v : Nat) : Option PageMap :=
  match s.xlates.find? (fun x => x.die == p.die && x.asid == p.asid && decide (x.vbase ≤ v ∧ v < x.vbase + x.size)) with
  | some x => some ⟨x.vbase, x.size, x.pbase, x.readable, x.writable⟩
  | none =>
    match tget s.contexts p.asid with
    | none => none
    | some x => walkFrom s v 5 (ctxPtRoot x.word)

/-! ### One granule, one span -/

def permOk (n : Need) (readable writable : Bool) : Bool := (!n.rd || readable) && (!n.wr || writable)

/-- The place of a physical address, if it exists. -/
def physAt (s : State) (pa : Nat) : Except TrapCode (Space × Nat) :=
  if physExists s pa then .ok (.phys, pa) else .error .translate

/-- Where the byte at `v` lies, for an access whose first byte lies in `entry` or in none. The window and the symbol region
are never translated, by an entry as little as by a page table (R229, R390). -/
def place (s : State) (p : Party) (n : Need) (entry : Option RangeEntry) (v : Nat) : Except TrapCode (Space × Nat) :=
  if entry.any fun e => !covers v e then .error .bounds
  else if inWindow v then
    (if 0x300000 ≤ v - windowBase then .error .bounds
     else if bankBlocked s p (v - windowBase) then .error .perm
     else .ok (.window p.page, v - windowBase))
  else if inSymbols v then
    (if n.wr then .error .perm else .ok (.symbols p.inst, v - symbolBase))
  else
    match entry with
    | some e =>
      if !permOk n (rgReadable e) (rgWritable e) then .error .perm
      else physAt s ((v + e.off) % 2 ^ 57)
    | none =>
      if (entryAt s p v).isSome then .error .bounds
      else
        match pageMap s p v with
        | none => .error .translate
        | some m => if permOk n m.readable m.writable then physAt s (m.pbase + (v - m.vbase)) else .error .perm

/-- A base: the address and, for a pointer, its bounds word (R263). -/
structure Base where
  addr : Nat
  bound : Option (BitVec 64)
  deriving DecidableEq, Repr

/-- Checks 1 and 2 of R382, and `PONLY`'s refusal of an integer base. LOG 22, DEDUCED. -/
def baseRefused (p : Party) (b : Base) (n : Need) (v len : Nat) : Bool :=
  match b.bound with
  | none => p.ponly && !(n.rd && n.ptr && !n.wr && inSymbols v && inSymbols (v + len - 1))
  | some w =>
    bSeal w != 0 || (n.rd && !w.getLsbD 63) || (n.wr && !w.getLsbD 62)
      || (n.ptr && n.rd && !w.getLsbD 61) || (n.ptr && n.wr && !w.getLsbD 60)

/-- The first byte of [v, v + len) outside a pointer's bounds, by its offset. -/
def outOfBounds (b : Base) (v len : Nat) : Option Nat :=
  match b.bound with
  | none => none
  | some w =>
    if (v : Int) < pBase w b.addr then some 0
    else if pTop w b.addr < (v : Int) + len then some (pTop w b.addr - v).toNat
    else none

/-- The granules of a span from offset `k` on, each placed; the first fault by its byte. -/
def placeSegs (s : State) (p : Party) (n : Need) (entry : Option RangeEntry) (oob : Option Nat) (v len : Nat) :
    Nat → Nat → Except (TrapCode × Nat) (List Seg)
  | 0, _ => .ok []
  | fuel + 1, k =>
    if len ≤ k then .ok []
    else
      let l := min (64 - (v + k) % 64) (len - k)
      if (match oob with | some f => decide (f ≤ k) | none => false) then .error (.bounds, va57 ((v + k : Nat) : Int))
      else
        match place s p n entry (va57 ((v + k : Nat) : Int)) with
        | .error c => .error (c, va57 ((v + k : Nat) : Int))
        | .ok (sp, a) =>
          match oob with
          | some f =>
            if f < k + l then .error (.bounds, va57 ((v + f : Nat) : Int))
            else (placeSegs s p n entry oob v len fuel (k + l)).map (⟨k, l, sp, a⟩ :: ·)
          | none => (placeSegs s p n entry oob v len fuel (k + l)).map (⟨k, l, sp, a⟩ :: ·)

/-- An access of `len` bytes at `v` checked whole (R231, R382): its places, or the trap with its lowest faulting byte. -/
def spanOf (s : State) (p : Party) (b : Base) (n : Need) (v len : Nat) : Except (TrapCode × Nat) (List Seg) :=
  if len = 0 then .ok []
  else if baseRefused p b n v len then .error (.perm, v)
  else placeSegs s p n (entryAt s p v) (outOfBounds b v len) v len (len / 64 + 2) 0

/-- The trap of a failed access, naming the lane or element. -/
def accessTrap (lane : Nat) (e : TrapCode × Nat) : TrapInfo := ⟨e.1, 0, lane, e.2, 0⟩

/-- Several elements, each an access of its own: the lowest that fails gives the trap (R264). -/
def spansOf (s : State) (p : Party) (b : Base) (n : Need) : List (Nat × Nat × Nat) → Except TrapInfo (List (Nat × List Seg))
  | [] => .ok []
  | (j, v, len) :: r =>
    match spanOf s p b n v len with
    | .error e => .error (accessTrap j e)
    | .ok g => (spansOf s p b n r).map ((j, g) :: ·)

end Sys2Proof.Machine
end

