-- ==== Sys2Proof/Machine/Homes.lean ====
section
/-! DEFINITION. The homes of memory and the order in which each applies what arrives at it: channels (01_machine.md R26), address
comparators (09_order_model.md R237, 01 R22), input ports served in turn (R252), outbound queues to other packages (R249). -/

namespace Sys2Proof.Machine

/-! ### Where a byte is at home (01 R26, 09 R228) -/

/-- The index that a die itself gives to one of its two stacks, by the package's index `j`: `j` XOR `STKSWAP`. -/
def dieStack (d : DieState) (j : Nat) : Nat := if d.orient.getLsbD 7 then 1 - j else j

/-- A stack's channel of a byte: Bits(PA, 12, 8) XOR Bits(PA, 17, 13). -/
def stackChannel (pa : Nat) : Nat := bits pa 12 8 ^^^ bits pa 17 13

/-- The package channel number, 32 * s + c, of an HBM address. -/
def packageChannel (pa : Nat) : Nat := 32 * (pa % 2 ^ 48 / 2 ^ 36) + stackChannel pa

/-- The die that a package stack belongs to. -/
def stackDie (stack : Nat) : Nat := stack / 2

def homeOf (sp : Space) (a : Nat) : Home :=
  match sp with
  | .window p => .tile p (a / 0x40000)
  | .symbols i => .symbols i
  | .phys => if a % 2 ^ 48 < 0x8000000000 then .hbm (packageOf a) (packageChannel a) else .tier (packageOf a)

/-- The granules that a home's address comparator holds (R237); of the other homes the spec gives none. -/
def comparatorSize : Home → Option Nat
  | .tile _ _ => some 32
  | .hbm _ _ => some 256
  | _ => none

/-! ### Edge ports (01 R22, R23) -/

/-- A side of a page: south, east, north, west. -/
inductive Side where
  | south | east | north | west
  deriving DecidableEq, Repr

/-- Edge port `n` = 4 * side + k: its side, and its place there. -/
def edgeSide (n : Nat) : Side :=
  match n / 4 with
  | 0 => .south
  | 1 => .east
  | 2 => .north
  | _ => .west

/-- The edge cell that holds a side's four ports. -/
def edgeCell : Side → Nat × Nat
  | .south => (3, 0)
  | .east => (7, 3)
  | .north => (4, 7)
  | .west => (0, 4)

/-! ### What stands at the homes (R237, R252) -/

/-- An access that has arrived at its home and has not been applied: its port, its place in the order of arrival, and the
granule that it names. -/
structure Standing where
  port : HomePort
  order : Nat
  home : Home
  space : Space
  granule : Nat
  deriving DecidableEq, Repr

/-- The space and the first byte of an access. -/
def accessStart : PendingAccess → Option (Space × Nat)
  | .write w => w.patches.head?.map fun p => (w.space, p.addr)
  | .atomic e => some (e.space, e.addr)
  | .order _ => none

def standingOf (cell : Nat) (e : Pending) : Option Standing :=
  match e.arrived, accessStart e.access with
  | some n, some (sp, a) => some ⟨.cell cell, n, homeOf sp a, sp, a / 64⟩
  | _, _ => none

/-- Every access that stands at a home. -/
def standing (s : State) : List Standing := s.tasks.flatMap fun kt => kt.2.pending.filterMap (standingOf kt.1.1)

/-- The ports other than `p` at whose head an access stands at a home. -/
def waitingPorts (l : List Standing) (h : Home) (p : HomePort) : List HomePort :=
  ((l.filter fun x => x.home = h && x.port != p).map (·.port)).dedup

/-- An access to a granule that is held waits behind what holds it; one to a new granule, while the comparator is full. -/
def comparatorOpen (l : List Standing) (sp : Space) (a : Nat) : Bool :=
  let h := homeOf sp a
  let held := (l.filter fun x => x.home = h).map fun x => (x.space, x.granule)
  !held.contains (sp, a / 64) && (comparatorSize h).all fun n => decide (held.dedup.length < n)

/-- One access per port in each turn: port `p` is not past the head of a port that still waits. -/
def turnOpen (s : State) (l : List Standing) (h : Home) (p : HomePort) : Bool :=
  (waitingPorts l h p).all fun q => !s.homes.contains ⟨h, q, p⟩

/-- The home of a segment, as its first byte gives it; a segment lies in one granule. -/
def segHome (g : Seg) : Home := homeOf g.space g.addr

/-- The places of some accesses gathered by granule: each granule is touched once (R232, R252). -/
def byGranule : List Seg → List (List Seg)
  | [] => []
  | g :: r =>
    let l := byGranule r
    let mine (x : List Seg) : Bool := x.head?.any fun h => h.space = g.space && h.addr / 64 == g.addr / 64
    (g :: (l.filter mine).flatten) :: l.filter fun x => !mine x

/-- The first place of each access. -/
def accHeads (l : List (List Seg)) : List Seg := l.filterMap (·.head?)

/-- The accesses of a party that go straight to their homes, each told by its first place, may be applied there now: its port
holds none before them, and where another port waits at a home only one of them goes there in this turn (R252). -/
def homesOpen (s : State) (p : HomePort) (accs : List Seg) : Bool :=
  let l := standing s
  l.isEmpty || accs.all fun g => !(l.any fun x => x.home = segHome g && x.port == p) && comparatorOpen l g.space g.addr
    && turnOpen s l (segHome g) p
    && ((waitingPorts l (segHome g) p).isEmpty || decide ((accs.filter fun h => segHome h = segHome g).length ≤ 1))

/-- Port `p` has been served at a home: it is past the heads that stand there, and what went past its own head is forgotten. -/
def serveHome (s : State) (p : HomePort) (h : Home) : State :=
  { s with homes := (s.homes.filter fun x => !(x.home = h && (x.waits == p || x.past == p)))
      ++ (waitingPorts (standing s) h p).map fun q => ⟨h, q, p⟩ }

def serveHomes (s : State) (p : HomePort) : List Home → State
  | [] => s
  | h :: r => serveHomes (serveHome s p h) p r

/-- The homes of some segments, each once. -/
def segHomes (segs : List Seg) : List Home := (segs.map segHome).dedup

/-- A party's accesses have been applied at their homes. -/
def servePort (s : State) (p : HomePort) (segs : List Seg) : State :=
  if (standing s).isEmpty && s.homes.isEmpty then s else serveHomes s p (segHomes segs)

/-- An access that stands at its home is next there: at the head of its port, before every other to its granule, its turn come. -/
def standsNext (s : State) (x : Standing) : Bool :=
  let l := standing s
  l.all (fun y => decide (x.order ≤ y.order) || y.home != x.home
    || !(y.port == x.port || (y.space = x.space && y.granule == x.granule))) && turnOpen s l x.home x.port

/-- The place that the next access to arrive takes. -/
def nextArrival (s : State) : Nat := (standing s).foldl (fun m x => max m (x.order + 1)) 0

/-! ### Other packages (R249) -/

/-- The package, other than this one, that a segment lies on. -/
def remoteOf (s : State) (sp : Space) (a : Nat) : Option Nat :=
  if sp = .phys && packageOf a != ownPackage s then some (packageOf a) else none

/-- An access to another package stands behind what the outbound queue to it holds (R249). -/
def behindOutbound (s : State) (segs : List Seg) : Bool :=
  !s.outbound.isEmpty && segs.any fun g =>
    match remoteOf s g.space g.addr with
    | some d => s.outbound.any (·.dest == d)
    | none => false

/-- Accesses that a party makes at their homes, one to a granule, must wait: behind an outbound queue, or for the homes. -/
def accessWaits (s : State) (p : HomePort) (segs : List Seg) : Bool :=
  behindOutbound s segs || !homesOpen s p (accHeads (byGranule segs))

end Sys2Proof.Machine
end

