-- ==== Sys2Proof/Machine/Access.lean ====
section
/-! DEFINITION. Accesses as they perform: homes, line buffers, pending operations and program order
(09_order_model.md R233-R239, R244-R250, 10_order_instructions.md R262-R268, 16_recovery.md R420). -/

namespace Sys2Proof.Machine

/-! ### Homes -/

/-- The memory that a space names. -/
def memOf (s : State) : Space → Mem
  | .phys => s.phys
  | .window p => (match tget s.pages p with | some pg => pg.window | none => Mem.empty)
  | .symbols i => (match tget s.instances i with | some x => x.symbols | none => Mem.empty)

def setMem (s : State) (sp : Space) (m : Mem) : State :=
  match sp with
  | .phys => { s with phys := m }
  | .window p => modPage s p fun pg => { pg with window := m }
  | .symbols i => modInst s i fun x => { x with symbols := m }

/-- Old contents kept for a rollback: the first write to a window granule since the page's last save goes to
the cut's undo log, which holds 16,384 granules; a full log makes the interval void (R420). -/
def logUndo (s : State) (page g : Nat) : State :=
  modPage s page fun p =>
    if p.saved = 0 || p.undo.any (fun e => e.1 == p.saved && e.2.1 == g) then p
    else
      let kept := (p.undo.filter (·.1 == p.saved)).length
      { p with
        undo := if 16384 ≤ kept then p.undo
          else (p.saved, g, readBytes p.window (64 * g) 64, (List.range 4).filter (fun k => p.window.tags.contains (4 * g + k)),
            p.window.poison.contains g) :: p.undo
        undoVoid := if kept + 1 < 16384 || p.undoVoid.contains p.saved then p.undoVoid else p.saved :: p.undoVoid }

def logUndos (s : State) (page : Nat) : List Nat → State
  | [] => s
  | g :: r => logUndos (logUndo s page g) page r

/-- A write applied at its home (09 R237), after the undo log took what it overwrites. -/
def applyAt (s : State) (w : Write) : State :=
  let s := match w.space with
    | .window p => logUndos s p (granulesOf w.patches)
    | _ => s
  setMem s w.space (applyWrite (memOf s w.space) w)

/-! ### Line buffers (R233) -/

/-- A granule as its home holds it. -/
def freshLine (m : Mem) (g : Nat) : Line :=
  { addr := 64 * g, bytes := readBytes m (64 * g) 64
    tags := (List.range 4).filter (fun k => m.tags.contains (4 * g + k)), poisoned := m.poison.contains g }

def lineHeld (s : State) (page g : Nat) : Option Line :=
  match tget s.pages page with
  | none => none
  | some p => p.lines.find? (·.addr == 64 * g)

def dropLine (s : State) (page g : Nat) : State :=
  modPage s page fun p => { p with lines := p.lines.filter (·.addr != 64 * g) }

/-- A line filled; when 512 are held, one of the device's choosing is replaced. -/
def fillLine (s : State) (page g : Nat) : State :=
  let l := freshLine s.phys g
  modPage s page fun p =>
    let rest := p.lines.filter (·.addr != 64 * g)
    { p with lines := l :: (if 512 ≤ rest.length then rest.eraseIdx (Config.lineVictim s.free g % rest.length) else rest) }

def emptyLines (s : State) (page : Nat) : State := modPage s page fun p => { p with lines := [] }

/-- A line with the bytes that a write gave, and the tags of their units, as its home holds them, and its mark as the
write leaves marks (10 R268). -/
def patchLine (m : Mem) (w : Write) (l : Line) : Line :=
  { l with
    bytes := (List.range 64).map fun k =>
      if w.patches.any (·.addr == l.addr + k) then readByte m (l.addr + k) else l.bytes.getD k 0
    tags := (List.range 4).filter fun k =>
      if w.patches.any (·.addr / 16 == l.addr / 16 + k) then tagAt m (l.addr + 16 * k) else l.tags.contains k
    poisoned := w.poisoned || (l.poisoned && !coversBytes w.patches l.addr 64) }

/-- A write of the page that performed updates its bytes in a granule that the buffer holds (R233). -/
def refreshLine (s : State) (page : Nat) (w : Write) (g : Nat) : State :=
  modPage s page fun p => { p with lines := p.lines.map fun x => if x.addr == 64 * g then patchLine s.phys w x else x }

def refreshLines (s : State) (page : Nat) (w : Write) : List Nat → State
  | [] => s
  | g :: r => refreshLines (refreshLine s page w g) page w r

def dropLines (s : State) (page : Nat) : List Nat → State
  | [] => s
  | g :: r => dropLines (dropLine s page g) page r

/-- A write of a cell of a page performs: at its home, and in the page's own line buffer (R233, 10 R270). -/
def performWrite (s : State) (page : Nat) (w : Write) : State :=
  let s := applyAt s w
  match w.space with
  | .phys => if w.drops then dropLines s page (granulesOf w.patches) else refreshLines s page w (granulesOf w.patches)
  | _ => s

/-! ### Reading -/

/-- Bytes with the tag bit of the unit that each lies in. -/
def taggedBytes (bytes : List Byte) (addr : Nat) (tagged : Nat → Bool) : List (Byte × Bool) :=
  match bytes with
  | [] => []
  | b :: r => (b, tagged addr) :: taggedBytes r (addr + 1) tagged

def homeBytes (m : Mem) (g : Seg) : List (Byte × Bool) :=
  taggedBytes (readBytes m g.addr g.len) g.addr (tagAt m)

def lineBytes (l : Line) (g : Seg) : List (Byte × Bool) :=
  taggedBytes ((l.bytes.drop (g.addr - l.addr)).take g.len) g.addr fun a => l.tags.contains ((a - l.addr) / 16)

/-- What a read at the home returned is never older in the page's line: a line that differs in what was read is given up
whole, since a write of a whole granule is never seen in part (R232, R238 item 3). LOG 20, DEDUCED. -/
def syncLine (s : State) (page : Nat) (m : Mem) (l : Line) (g : Seg) : State :=
  if lineBytes l g = homeBytes m g && l.poisoned == poisonAt m g.addr then s else dropLine s page (g.addr / 64)

/-- One segment read: a plain load of a buffered level may be served from the line buffer or goes to the home
and fills the line; any other read goes to the home (R233). -/
def readSeg (s : State) (page : Nat) (plain : Bool) (g : Seg) : State × List (Byte × Bool) × Bool :=
  let m := memOf s g.space
  let fromHome := (homeBytes m g, poisonAt m g.addr)
  if g.space = .phys then
    let gr := g.addr / 64
    match plain, lineHeld s page gr with
    | true, some l =>
      if Config.lineHit s.free gr then (s, lineBytes l g, l.poisoned) else (fillLine s page gr, fromHome)
    | true, none => (fillLine s page gr, fromHome)
    | false, some l => (syncLine s page m l g, fromHome)
    | false, none => (s, fromHome)
  else (s, fromHome)

/-- Several segments read in turn: their bytes joined, poisoned if any granule is. -/
def readSegs (s : State) (page : Nat) (plain : Bool) : List Seg → State × List (Byte × Bool) × Bool
  | [] => (s, [], false)
  | g :: r =>
    let x := readSeg s page plain g
    let y := readSegs x.1 page plain r
    (y.1, x.2.1 ++ y.2.1, x.2.2 || y.2.2)

/-- A load makes its open choices anew. LOG 2, DESIGN CHOICE. -/
def freshChoice (s : State) : State := { s with free := s.free + 1 }

/-! ### Writes as one access per home granule (R231) -/

/-- One byte to write: its space, the patch, and whether it starts a valid pointer's unit. -/
abbrev Put := Space × Patch

def putKeys : List Put → List (Space × Nat)
  | [] => []
  | (sp, p) :: r =>
    let k := (sp, p.addr / 64)
    if (putKeys r).contains k then putKeys r else k :: putKeys r

/-- Bytes grouped into one write for each granule. -/
def groupWrites (ps : List Put) (units : List (Space × Nat)) (poisoned drops : Bool) : List Write :=
  (putKeys ps).map fun k =>
    { space := k.1
      patches := (ps.filter fun x => x.1 = k.1 && x.2.addr / 64 == k.2).map (·.2)
      tagUnits := (units.filter fun x => x.1 = k.1 && x.2 / 4 == k.2).map (·.2)
      poisoned := poisoned, drops := drops }

/-- Indices of the `n`-byte elements that patches touch. -/
def elementsOf (n : Nat) : List Patch → List Nat
  | [] => []
  | p :: r => natInsert (elementsOf n r) (p.addr / n)

def wholeGranule (w : Write) : Bool :=
  match w.patches with
  | p :: _ => coversBytes w.patches (64 * (p.addr / 64)) 64
  | [] => false

/-- A write as one for each of its `n`-byte elements. -/
def splitWrite (n : Nat) (w : Write) : List Write :=
  (elementsOf n w.patches).map fun k =>
    { w with patches := w.patches.filter fun p => p.addr / n == k, tagUnits := w.tagUnits.filter fun q => 16 * q / n == k }

/-- The writes of a contiguous store by what is single-copy atomic (R232): a whole granule, all of an access within 8
aligned bytes, or else an element word of `n` bytes. LOG 20, DEDUCED. -/
def elementWrites (n : Nat) (ps : List Put) (units : List (Space × Nat)) (poisoned drops : Bool) : List Write :=
  let ws := groupWrites ps units poisoned drops
  if (elementsOf 8 (ps.map (·.2))).length ≤ 1 then ws
  else ws.flatMap fun w => if wholeGranule w then [w] else splitWrite n w

/-- The bytes of a value laid over the segments of its access. -/
def putBytes (segs : List Seg) (bytes : List Byte) : List Put :=
  segs.flatMap fun g => (patchesOf g.addr ((bytes.drop g.off).take g.len)).map fun p => (g.space, p)

/-! ### Program order (R234-R239, R250) -/

/-- Bytes that an access touches. -/
def accessHits (a : PendingAccess) (g : Seg) : Bool :=
  match a with
  | .write w => w.space = g.space && w.patches.any fun p => decide (g.addr ≤ p.addr ∧ p.addr < g.addr + g.len)
  | .atomic e => e.space = g.space && decide (e.addr < g.addr + g.len ∧ g.addr < e.addr + fmtWidth e.fmt / 8)
  | .order _ => false

def accessSegs : PendingAccess → List Seg
  | .write w => w.patches.map fun p => ⟨0, 1, w.space, p.addr⟩
  | .atomic e => [⟨0, fmtWidth e.fmt / 8, e.space, e.addr⟩]
  | .order _ => []

def isOrder (e : Pending) : Bool := match e.access with | .order _ => true | _ => false

/-- The operations of a task that have not performed: its pending ones and those in outbound queues. -/
def unperformed (s : State) (k : Nat × Nat) : List Pending :=
  ((s.outbound.filter fun o => o.cell == k.1 && o.task == k.2).map (·.entry))
    ++ (match tget s.tasks k with | some t => t.pending | none => [])

/-- An operation of the current firing may perform now: lower indices of its firing have performed (R235), no
unperformed operation overlaps it (R236) or holds later ones back (R262), and its homes are open to its accesses (R237, R252). -/
def mayPerform (s : State) (u : Cur) (accs : List (List Seg)) : Bool :=
  (unperformed s u.key).all (fun d =>
    d.firing != u.t.firings && !d.holdsLater && !(accs.flatten.any fun g => accessHits d.access g))
    && homesOpen s (.cell u.cell) (accHeads accs)

/-- Places that are each an access of their own. -/
def eachSeg (l : List Seg) : List (List Seg) := l.map fun g => [g]

/-- Every earlier operation of the task has performed, those to other packages counting, up to level 5, once
they have entered the outbound queue (R245, R249). -/
def quiet (s : State) (u : Cur) (level : Nat) : Bool :=
  u.t.pending.all isOrder && (decide (level ≤ 5) || (unperformed s u.key).isEmpty)

def ordAcq (f : Fields) : Bool := f.mod == 1 || f.mod == 3
def ordRel (f : Fields) : Bool := f.mod == 2 || f.mod == 3
def lvlOf (f : Fields) : Nat := bits (immN f) 2 0
def moField (f : Fields) : Nat := bits (immN f) 23 19

/-- An acquire at a level: at level 2 and above the page's line buffer is emptied (R246). -/
def acquireAt (s : State) (page level : Nat) : State := if 2 ≤ level then emptyLines s page else s

/-- An acquire, where there is one. -/
def acquireOf (s : State) (page : Nat) (level : Option Nat) : State := match level with | some l => acquireAt s page l | none => s

/-- Operations of an instruction that are to perform later, the last of them with an acquire or an append. LOG 20, DEDUCED. -/
def addPendingAs (s : State) (u : Cur) (f : Fields) (holds : Bool) (acq card : Option Nat) (l : List PendingAccess) : State :=
  modTask s u.key fun t =>
    { t with pending := t.pending ++ l.mapIdx fun k a =>
        let last := k + 1 == l.length
        ⟨a, holds, t.firings, moField f, none, if last then acq else none, if last then card else none⟩ }

/-- Operations of an instruction that are to perform later. -/
def addPending (s : State) (u : Cur) (f : Fields) (holds : Bool) (l : List PendingAccess) : State :=
  addPendingAs s u f holds none none l

/-! ### Accesses of one instruction, one after another (R231, 10 R271, R282) -/

/-- What has been performed of an instruction of which not everything has. -/
def partOf (u : Cur) : PartAccess := (u.fr.parts.find? (·.ins == u.ins)).getD ⟨u.ins, 0, [], false, [], [], []⟩

/-- Only the next access of the instruction performs in this turn (LOG 33, DESIGN CHOICE). -/
def pieceTurn (s : State) : Bool := s.focus.map (·.guardHit) == some .piece

def keepPart (s : State) (u : Cur) (p : PartAccess) : State :=
  modFiring s u.key fun fr => { fr with parts := p :: fr.parts.filter (·.ins != u.ins) }

/-! ### Formats and words (10 R265, R459) -/

/-- The element word in bytes. -/
def wordBytes (m : Fmt) : Nat := if m == Fmt.int64 then 8 else if m == Fmt.ptr then 16 else 4

/-- The format of an access: `FT`; under 0x1F the covering entry's, or `dflt` where there is none. -/
def memFmt (f : Fields) (e : Option RangeEntry) (dflt : Fmt) : Fmt :=
  if f.ft != Fmt.fromOperand then f.ft else match e with | some x => rgFmt x | none => dflt

/-- Through a range entry the format must be the entry's (04 R104). -/
def entryTrap (m : Fmt) (e : Option RangeEntry) : Option TrapInfo :=
  match e with
  | some x => if rgFmt x == m then none else some (fmtTrap 0 (rgFmt x))
  | none => none

/-- Checks 1 to 3 of 15 R382 on the lowest byte of an access, and `PONLY`'s refusal of its base. -/
def baseTrap (p : Party) (b : Base) (n : Need) (v len : Nat) : Option (TrapCode × Nat) :=
  if len = 0 then none
  else if baseRefused p b n v len then some (.perm, v)
  else if outOfBounds b v len = some 0 then some (.bounds, v)
  else none

/-- The checks of a base come before those of the entry that it leads to (15 R382). -/
def baseFirst (p : Party) (b : Base) (n : Need) (lane v len : Nat) (t : Option TrapInfo) : Option TrapInfo :=
  match baseTrap p b n v len with
  | some e => some (accessTrap lane e)
  | none => t

/-- The base of an access: element 0 of operand A, tagged INT64 or PTR (R263). -/
def baseOf (a : Token) : Option Base :=
  if a.kind == 0 && (a.fmt == Fmt.int64 || a.fmt == Fmt.ptr) && validAt a 0 && validAt a 1 then
    some ⟨pairAt a 0 % 2 ^ 57, if a.fmt == Fmt.ptr then some (boundAt a 0) else none⟩
  else none

/-- An INT64 operand's element 0, signed; a pointer's address words pass (05 R123). -/
def wantOffset (slot : Nat) (t : Token) : Option TrapInfo :=
  if t.kind == 0 && (t.fmt == Fmt.int64 || t.fmt == Fmt.ptr) && validAt t 0 && validAt t 1 then none
  else some (fmtTrap slot t.fmt)

def wantStride (t : Token) : Option TrapInfo :=
  if t.kind == 0 && (t.fmt == Fmt.int32 || t.fmt == Fmt.ptr) && validAt t 0 then none else some (fmtTrap 3 t.fmt)

def alignTrap (lane v : Nat) : TrapInfo := ⟨.align, 0, lane, v, 0⟩

def isPoisoned (t : Option Token) : Bool := match t with | some x => x.poison | none => false

/-- EA := base + 64 × `OFF` + c, wrapping at 2^57 (R269). -/
def effAddr (f : Fields) (b : Base) (c : Option Token) : Nat :=
  va57 ((b.addr : Int) + 64 * (bits (immN f) 18 6 : Int)
    + (match c with | some t => signedOf 64 (pairAt t 0) | none => 0))

/-- The place of element `e` of a tensor (07 R203): its element word and, in it, its sub-element. -/
def elemPlace (m : Fmt) (base : Nat) (e : Int) : Nat × Nat :=
  if m == Fmt.int64 then (va57 ((base : Int) + 8 * e), 0)
  else if m == Fmt.ptr then (va57 ((base : Int) + 16 * e), 0)
  else
    let w : Int := perLane m
    (va57 ((base : Int) + 4 * (e / w)), (e % w).toNat)

/-- The scale byte of an address read through an entry (04 R102), by its own virtual address. -/
def scaleVa (e : RangeEntry) (v : Nat) : Nat :=
  va57 (((rgBook e) + (if rgFmt e == Fmt.cb4s then 32 else 0) + (v - e.base) / 64 : Nat) : Int)

/-- Where the scale byte of a token lies, if its format has one: the entry's own read of memory (R384), which no
pointer bounds and `PONLY` does not refuse. -/
def scaleSegs (s : State) (p : Party) (e : Option RangeEntry) (v : Option Nat) : Except TrapInfo (List Seg) :=
  match e, v with
  | some x, some a =>
    if burstScaled (rgFmt x) then
      match spanOf s { p with ponly := false } ⟨0, none⟩ Need.read (scaleVa x a) 1 with
      | .error z => .error (accessTrap 0 z)
      | .ok g => .ok g
    else .ok []
  | _, _ => .ok []

def byteAt (l : List (Byte × Bool)) (k : Nat) : Byte := match l[k]? with | some x => x.1 | none => 0

/-- The number in `n` bytes from offset `k` on. -/
def numAt (l : List (Byte × Bool)) (k n : Nat) : Nat := leNat ((List.range n).map fun i => byteAt l (k + i))

def taggedAt (l : List (Byte × Bool)) (k : Nat) : Bool := match l[k]? with | some x => x.2 | none => false

/-- The token that a load forms (R276): `KIND` 000, `TAG` 0x00, and the scale byte where one was read. -/
def loadedToken (m : Fmt) (lanes : Vector Lane 16) (v : BitVec 16) (bounds : Vector (BitVec 64) 8)
    (scale : List (Byte × Bool)) (poison : Bool) : Token :=
  normal { blankToken with
    lanes := lanes, valid := v, fmt := m, poison := poison, bounds := bounds
    scale := match scale with | x :: _ => x.1 | [] => 0x7F }

end Sys2Proof.Machine
end

