-- ==== Sys2Proof/Machine/MemoryOps.lean ====
section
/-! DEFINITION. Loads, stores, gathers, scatters, prefetch, fences, acquire and release
(10_order_instructions.md R260-R285, R459). -/

namespace Sys2Proof.Machine

/-! ### Loads -/

/-- What a load has checked: its accesses, each the places that it reads at once (R208, R232), and where its scale byte lies,
which is an access of its own, after them (LOG 33, DESIGN CHOICE). -/
structure LoadPlan where
  fmt : Fmt
  accs : List (List Seg)
  scale : List Seg
  deriving DecidableEq, Repr

/-- Accesses of the firing's cell that must wait: for what holds them back, or behind an outbound queue. -/
def mustWait (s : State) (u : Cur) (accs : List (List Seg)) : Bool := !mayPerform s u accs || behindOutbound s accs.flatten

/-- The next access of a load performs, and others are left (R231, R271). -/
def loadPiece (s : State) (u : Cur) (plain : Bool) (acc : List Seg) : State :=
  let d := partOf u
  let r := readSegs (freshChoice s) u.c.page plain acc
  touchPage (keepPart (servePort r.1 (.cell u.cell) acc) u
    { d with count := d.count + 1, bytes := d.bytes ++ r.2.1, poisoned := d.poisoned || r.2.2 }) u.c.page

/-- What is left of a load performs: it reads, and makes the token from the bytes of its data and from its scale byte. -/
def loadRest (s : State) (u : Cur) (plain acq : Bool) (level : Nat) (p : LoadPlan)
    (mk : List (Byte × Bool) → List (Byte × Bool) → Bool → Except TrapInfo Token) : Act :=
  let d := partOf u
  let data := (p.accs.drop d.count).flatten
  let scale := ((eachSeg p.scale).drop (d.count - p.accs.length)).flatten
  let r := readSegs (freshChoice s) u.c.page plain data
  let z := readSegs r.1 u.c.page false scale
  let bytes := d.bytes ++ r.2.1 ++ z.2.1
  let n := (p.accs.flatten.map (·.len)).sum
  match mk (bytes.take n) (bytes.drop n) (d.poisoned || r.2.2 || z.2.2) with
  | .error e => .trap e
  | .ok t =>
    let s1 := servePort z.1 (.cell u.cell) (data ++ scale)
    .done (touchPage (if acq then acquireAt s1 u.c.page level else s1) u.c.page) (.one (.data t)) noFlags

/-- The common part of every load once its places are known: it waits its turn, reads, and makes the token. -/
def doLoad (s : State) (u : Cur) (plain acq rel : Bool) (level : Nat) (p : LoadPlan)
    (mk : List (Byte × Bool) → List (Byte × Bool) → Bool → Except TrapInfo Token) : Act :=
  let n := (partOf u).count
  let rest := (p.accs ++ eachSeg p.scale).drop n
  if rel && !(unperformed s u.key).isEmpty then .wait
  else
    match pieceTurn s, rest with
    | true, a :: _ :: _ =>
      if mustWait s u [a] then .wait else .pause (loadPiece s u (plain && decide (n < p.accs.length)) a)
    | _, _ => if mustWait s u rest then .wait else loadRest s u plain acq level p mk

/-- The lanes of a contiguous load: lane `i` takes the four bytes at offset 4i; for PTR the address words of
pointer `j` stand at 16j and its bounds word at 16j + 8 (15 R381). -/
def contiguousToken (m : Fmt) (n : Nat) (l sc : List (Byte × Bool)) (poison : Bool) : Except TrapInfo Token :=
  let v : BitVec 16 := BitVec.ofFnLE fun i => decide (i.val < n)
  if m == Fmt.ptr then
    match (List.range (n / 2)).find? fun j => !taggedAt l (16 * j) with
    | some j => .error ⟨.ptrTag, 0, j, 0, 0⟩
    | none =>
      .ok (loadedToken m (Vector.ofFn fun i => BitVec.ofNat 32 (numAt l (16 * (i.val / 2) + 4 * (i.val % 2)) 4)) v
        (Vector.ofFn fun j => BitVec.ofNat 64 (numAt l (16 * j.val + 8) 8)) sc poison)
  else
    .ok (loadedToken m (Vector.ofFn fun i => BitVec.ofNat 32 (numAt l (4 * i.val) 4)) v (Vector.replicate 8 0) sc poison)

/-- Name the failing address of a `PTRTAG` found in what was read. -/
def atAddr (ea step : Nat) (x : Except TrapInfo Token) : Except TrapInfo Token :=
  match x with
  | .error e => .error { e with addr := va57 ((ea + step * e.aux : Nat) : Int) }
  | .ok t => .ok t

/-- R271: the lane count, from operand B or 16. -/
def laneCount (m : Fmt) (b : Option Token) : Except TrapInfo Nat :=
  match b with
  | none => .ok 16
  | some t =>
    match wantWord 1 t with
    | some e => .error e
    | none =>
      let n := (laneAt t 0).toNat
      if 16 < n || (isPair m && n % 2 == 1) then .error illop else .ok n

/-- The bytes that `n` lanes of a format span. -/
def spanBytes (m : Fmt) (n : Nat) : Nat := if m == Fmt.ptr then 8 * n else 4 * n

/-- R271: what `LD` and `LDNT` check before any byte is read. -/
def planLoad (f : Fields) (s : State) (u : Cur) (o : Opnds) (a : Token) : Except TrapInfo (LoadPlan × Nat × Nat) :=
  match baseOf a, (match o.c with | some t => wantOffset 3 t | none => none) with
  | none, _ => .error (fmtTrap 0 a.fmt)
  | some _, some e => .error e
  | some b, none =>
    let p := partyOf s u.cell u.task
    let ea := effAddr f b o.c
    let e := if o.b.any (fun t => laneAt t 0 == 0) then none else entryAt s p ea
    let m := memFmt f e Fmt.raw
    match laneCount m o.b with
    | .error t => .error t
    | .ok n =>
      let need : Need := ⟨true, false, m == Fmt.ptr⟩
      if ea % wordBytes m != 0 then .error (alignTrap 0 ea)
      else
        match baseFirst p b need 0 ea (spanBytes m n) (entryTrap m e), spanOf s p b need ea (spanBytes m n), scaleSegs s p e (some ea) with
        | some t, _, _ => .error t
        | none, .error z, _ => .error (accessTrap (((z.2 + 2 ^ 57 - ea) % 2 ^ 57) / (if m == Fmt.ptr then 16 else 4)) z)
        | none, .ok _, .error z => .error z
        | none, .ok g, .ok sc => .ok (⟨m, eachSeg g, sc⟩, n, ea)

def loadOf (f : Fields) (plain : Bool) (s : State) (u : Cur) (o : Opnds) : Act :=
  match o.a with
  | none => .trap illop
  | some a =>
    if a.poison || isPoisoned o.b || isPoisoned o.c then .control
    else
      match planLoad f s u o a with
      | .error e => .trap e
      | .ok (p, n, ea) =>
        doLoad s u (plain && f.mod == 0) (ordAcq f) (ordRel f) (lvlOf f) p fun l sc po =>
          atAddr ea 16 (contiguousToken p.fmt n l sc po)

def execLd (f : Fields) (s : State) := runIns 0x100 .any f s (loadOf f true)

/-- As `LD`, always at the home (R270). -/
def execLdnt (f : Fields) (s : State) := runIns 0x11E .any f s (loadOf f false)

/-- The elements of a strided or gathered access: (element, address). -/
abbrev Elems := List (Nat × Nat)

/-- Spans of several elements, one after the other, each an access of its own: aligned to its element word (R265), past the
checks of its base (15 R382), and in an entry that `cover` lets pass. The lowest that fails is named (R264). -/
def planElems (s : State) (p : Party) (b : Base) (n : Need) (width : Nat) (cover : Option RangeEntry → Option TrapInfo) :
    Elems → Except TrapInfo (List (Nat × List Seg))
  | [] => .ok []
  | (j, v) :: r =>
    if v % width != 0 then .error (alignTrap j v)
    else
      match baseFirst p b n j v width (cover (entryAt s p v)), spanOf s p b n v width with
      | some e, _ => .error e
      | none, .error e => .error (accessTrap j e)
      | none, .ok g => (planElems s p b n width cover r).map ((j, g) :: ·)

/-- Segments of elements laid one after another in one run of bytes, `width` bytes to each. -/
def joinSegs (width : Nat) (l : List (Nat × List Seg)) : List Seg :=
  l.flatMap fun x => x.2.map fun g => { g with off := g.off + width * x.1 }

/-- The elements that a data operand stores, by lane or by pair of lanes. -/
def dataElems (pairs : Bool) (d : Token) : List Nat :=
  (List.range (if pairs then 8 else 16)).filter fun j => validAt d (if pairs then 2 * j else j)

/-- The entry that a store goes through is that of the first byte it writes (15 R385), which lies where its elements have their
places in a format of pairs (`wide`) or not: that of `FT`; under 0x1F the entry's own; in no entry the data's (R459). -/
def storeEntry (wide : Fmt → Bool) (f : Fields) (d : Token) (pair lane : Option RangeEntry) : Option RangeEntry :=
  if f.ft != Fmt.fromOperand then (if wide f.ft then pair else lane)
  else if wide d.fmt && pair.all (fun e => wide (rgFmt e)) then pair else lane

/-- R272: the addresses of elements. -/
def strided (ea : Nat) (stride : Int) (els : List Nat) : Elems := els.map fun (j : Nat) => (j, va57 ((ea : Int) + (j : Int) * stride))

/-- A misaligned stride that misaligns no element is named by the first (R264, R272). LOG 20, DEDUCED. -/
def strideTrap (m : Fmt) (ea : Nat) (stride : Int) (els : Elems) : Option TrapInfo :=
  if stride % wordBytes m = 0 || els.any (fun x => x.2 % wordBytes m != 0) then none
  else
    match els with
    | x :: _ => some (alignTrap x.1 x.2)
    | [] => some (alignTrap 0 ea)

/-- What a strided access has checked of its operands. -/
structure StridePlan where
  party : Party
  base : Base
  ea : Nat
  fmt : Fmt
  entry : Option RangeEntry
  elems : Elems

/-- The base, format, entry and elements of a strided access, its stride checked; `d` is the data that a store writes. -/
def planStride (f : Fields) (s : State) (u : Cur) (a c : Token) (d : Option Token) : Except TrapInfo StridePlan :=
  match baseOf a, wantStride c with
  | none, _ => .error (fmtTrap 0 a.fmt)
  | some _, some e => .error e
  | some b, none =>
    let p := partyOf s u.cell u.task
    let ea := effAddr f b none
    let st := (laneAt c 0).toInt
    let els (pairs : Bool) : List Nat :=
      match d with
      | some t => dataElems pairs t
      | none => List.range (if pairs then 8 else 16)
    let first (pairs : Bool) : Option RangeEntry := (strided ea st (els pairs)).head?.bind fun x => entryAt s p x.2
    let e := match d with
      | some t => storeEntry isPair f t (first true) (first false)
      | none => entryAt s p ea
    let m := memFmt f e ((d.map (·.fmt)).getD Fmt.raw)
    let at_ := strided ea st (els (isPair m))
    match strideTrap m ea st at_ with
    | some t => .error t
    | none => .ok ⟨p, b, ea, m, e, at_⟩

/-- Bytes of element `j` in a run of `width` bytes to each element, as lanes. -/
def elemToken (m : Fmt) (width : Nat) (v : BitVec 16) (l sc : List (Byte × Bool)) (poison : Bool) : Token :=
  loadedToken m (Vector.ofFn fun i =>
      if isPair m then BitVec.ofNat 32 (numAt l (width * (i.val / 2) + 4 * (i.val % 2)) 4)
      else BitVec.ofNat 32 (numAt l (width * i.val) 4)) v
    (Vector.ofFn fun j => if m == Fmt.ptr then BitVec.ofNat 64 (numAt l (width * j.val + 8) 8) else 0) sc poison

/-- The bytes of a run of segments, each with its segment's place. -/
def cutPieces : List Seg → List (Byte × Bool) → List (Nat × List (Byte × Bool))
  | [], _ => []
  | g :: r, bs => (g.off, bs.take g.len) :: cutPieces r (bs.drop g.len)

/-- The bytes read, put where their element's run begins; elements not read are zero. -/
def spreadBytes (width count : Nat) (segs : List Seg) (l : List (Byte × Bool)) : List (Byte × Bool) :=
  let pieces := cutPieces segs l
  (List.range (width * count)).map fun k =>
    match pieces.find? fun p => decide (p.1 ≤ k ∧ k < p.1 + p.2.length) with
    | some p => (match p.2[k - p.1]? with | some x => x | none => (0, false))
    | none => (0, false)

/-- R272. -/
def bodyLds (f : Fields) (s : State) (u : Cur) (o : Opnds) : Act :=
  match o.a, o.c with
  | some a, some c =>
    if a.poison || c.poison then .control
    else
      match planStride f s u a c none with
      | .error e => .trap e
      | .ok ⟨p, b, ea, m, e, els⟩ =>
        let w := wordBytes m
        (match planElems s p b ⟨true, false, m == Fmt.ptr⟩ w (entryTrap m) els, scaleSegs s p e (some ea) with
         | .error t, _ => .trap t
         | .ok _, .error t => .trap t
         | .ok l, .ok sc =>
           let segs := joinSegs w l
           doLoad s u true false false 0 ⟨m, eachSeg segs, sc⟩ fun bs z po =>
             let run := spreadBytes w (if isPair m then 8 else 16) segs bs
             match (if m == Fmt.ptr then (List.range 8).find? fun j => !taggedAt run (16 * j) else none) with
             | some j => .error ⟨.ptrTag, 0, j, (els.getD j (0, 0)).2, 0⟩
             | none => .ok (elemToken m w 0xFFFF run z po))
  | _, _ => .trap illop

def execLds (f : Fields) (s : State) := runIns 0x103 .any f s (bodyLds f)

/-- `LDB` needs an entry of a codebook format, which is `FT` unless that is 0x1F (R273). -/
def bookTrap (f : Fields) : Option RangeEntry → Option TrapInfo
  | none => some (fmtTrap 0 Fmt.raw)
  | some e => if isCbFmt (rgFmt e) && (f.ft == Fmt.fromOperand || f.ft == rgFmt e) then none else some (fmtTrap 0 (rgFmt e))

/-- R273: the codebook of the entry that covers EA, as a token of kind 100. -/
def bodyLdb (f : Fields) (s : State) (u : Cur) (o : Opnds) : Act :=
  match o.a with
  | none => .trap illop
  | some a =>
    if a.poison || isPoisoned o.c then .control
    else
      match baseOf a, (match o.c with | some t => wantOffset 3 t | none => none) with
      | none, _ => .trap (fmtTrap 0 a.fmt)
      | some _, some e => .trap e
      | some b, none =>
        let p := partyOf s u.cell u.task
        let ea := effAddr f b o.c
        match baseFirst p b Need.read 0 ea 1 (bookTrap f (entryAt s p ea)), entryAt s p ea with
        | some t, _ => .trap t
        | none, none => .trap (fmtTrap 0 Fmt.raw)
        | none, some e =>
            match spanOf s p b Need.read ea 1, spanOf s { p with ponly := false } ⟨0, none⟩ Need.read (rgBook e) 32 with
            | .error z, _ => .trap (accessTrap 0 z)
            | .ok _, .error z => .trap (accessTrap 0 z)
            | .ok _, .ok g =>
              doLoad s u false false false 0 ⟨rgFmt e, eachSeg g, []⟩ fun l _ po =>
                .ok { blankToken with
                  lanes := Vector.ofFn fun i => if i.val < 8 then BitVec.ofNat 32 (numAt l (4 * i.val) 4) else 0
                  valid := 0x00FF, fmt := rgFmt e, kind := Kind.codebook, poison := po }

def execLdb (f : Fields) (s : State) := runIns 0x120 .any f s (bodyLdb f)

/-! ### Stores -/

/-- The tag of a store's data operand against `FT` (R275); a pointer's address words are stored under any other format
(05 R123). -/
def operandTrap (f : Fields) (slot : Nat) (d : Token) : Option TrapInfo :=
  if d.kind == 0 && (f.ft == Fmt.fromOperand || d.fmt == f.ft || d.fmt == Fmt.ptr) then none else some (fmtTrap slot d.fmt)

/-- Through a range entry, the format of a store and the tag of its data must be the entry's (R275, R459). -/
def coverTrap (m : Fmt) (slot : Nat) (d : Token) (e : Option RangeEntry) : Option TrapInfo :=
  match e with
  | none => none
  | some x =>
    if rgFmt x != m then some (fmtTrap 0 (rgFmt x))
    else if d.fmt == m || d.fmt == Fmt.ptr then none else some (fmtTrap slot d.fmt)

/-- The data of lane `i`, or of pointer pair `j`, as bytes in memory. -/
def laneData (m : Fmt) (d : Token) (j : Nat) : List Byte :=
  if m == Fmt.ptr then natLe 8 (pairAt d j) ++ natLe 8 (boundAt d j).toNat
  else if m == Fmt.int64 then natLe 8 (pairAt d j)
  else natLe 4 (laneAt d j).toNat

/-- The 16-byte units that receive valid pointers (R267). -/
def pointerUnits (m : Fmt) (d : Token) (l : List (Nat × List Seg)) : List (Space × Nat) :=
  if m == Fmt.ptr && d.fmt == Fmt.ptr then l.flatMap fun x => x.2.map fun g => (g.space, g.addr / 16) else []

/-- A store whose places are known is issued: a release waits for what precedes it (R245). -/
def issueStore (f : Fields) (s : State) (u : Cur) (ws : List Write) : Act :=
  if ordRel f && !quiet s u (lvlOf f) then .wait
  else .done (addPending s u f (ordAcq f) (ws.map .write)) .none noFlags

/-- Spans of the lanes of one contiguous access, which share its entry. -/
def laneSpans (s : State) (p : Party) (b : Base) (n : Need) (e : Option RangeEntry) (width : Nat) :
    Elems → Except TrapInfo (List (Nat × List Seg))
  | [] => .ok []
  | (j, v) :: r =>
    if baseRefused p b n v width then .error (accessTrap j (.perm, v))
    else
      match placeSegs s p n e (outOfBounds b v width) v width (width / 64 + 2) 0 with
      | .error z => .error (accessTrap j z)
      | .ok g => (laneSpans s p b n e width r).map ((j, g) :: ·)

/-- Base, effective address and entry of a store with an optional offset. -/
def storeBase (f : Fields) (s : State) (u : Cur) (a : Token) (c : Option Token) : Except TrapInfo (Party × Base × Nat) :=
  match baseOf a, (match c with | some t => wantOffset 3 t | none => none) with
  | none, _ => .error (fmtTrap 0 a.fmt)
  | some _, some e => .error e
  | some b, none => .ok (partyOf s u.cell u.task, b, effAddr f b c)

/-- The lanes, or pointer pairs, of a contiguous store that are valid, with their addresses. -/
def validLanes (m : Fmt) (d : Token) (ea : Nat) : Elems :=
  if m == Fmt.ptr then
    ((List.range 8).filter fun j => validAt d (2 * j)).map fun j => (j, va57 ((ea + 16 * j : Nat) : Int))
  else ((List.range 16).filter fun i => validAt d i).map fun i => (i, va57 ((ea + 4 * i : Nat) : Int))

/-- The valid lanes of a store's data, lowest first. -/
def dataLanes (d : Token) : List Nat := (List.range 16).filter fun i => validAt d i

/-- A misaligned access is named by the lowest lane or element that it makes (R264, R266). -/
def laneAlign (m : Fmt) (ea : Nat) (lanes : Elems) : Option TrapInfo :=
  if ea % wordBytes m = 0 then none else lanes.head?.map fun x => alignTrap x.1 x.2

/-- The checks of the base of an access's first lane, and then those of the entry that the access goes through (15 R382). -/
def entryFirst (p : Party) (b : Base) (n : Need) (width : Nat) (t : Option TrapInfo) : Elems → Option TrapInfo
  | [] => none
  | (j, v) :: _ => baseFirst p b n j v width t

/-- R270: each valid lane at EA + 4i. -/
def storeOf (f : Fields) (drops : Bool) (s : State) (u : Cur) (o : Opnds) : Act :=
  match o.a, o.b with
  | some a, some d =>
    if a.poison || isPoisoned o.c then .control
    else
      (match storeBase f s u a o.c with
       | .error e => .trap e
       | .ok (p, b, ea) =>
         let first (wide : Bool) : Option RangeEntry :=
           (dataLanes d).head?.bind fun i => entryAt s p (va57 ((ea + (if wide then 8 else 4) * i : Nat) : Int))
         let e := storeEntry (· == Fmt.ptr) f d (first true) (first false)
         let m := memFmt f e d.fmt
         let need : Need := ⟨false, true, m == Fmt.ptr⟩
         let w := if m == Fmt.ptr then 16 else 4
         let lanes := validLanes m d ea
         match firstTrap [operandTrap f 1 d, laneAlign m ea lanes, entryFirst p b need w (coverTrap m 1 d e) lanes],
             laneSpans s p b need e w lanes with
         | some t, _ => .trap t
         | none, .error t => .trap t
         | none, .ok l =>
             let puts := l.flatMap fun x => putBytes x.2 (if m == Fmt.ptr then laneData m d x.1 else natLe 4 (laneAt d x.1).toNat)
             issueStore f s u (elementWrites (wordBytes m) puts (pointerUnits m d l) d.poison drops))
  | _, _ => .trap illop

def execSt (f : Fields) (s : State) := runIns 0x101 .any f s (storeOf f false)

def execStnt (f : Fields) (s : State) := runIns 0x11F .any f s (storeOf f true)

/-- The bytes that `STM` enables: (lane, byte address, byte). -/
def enabledBytes (d c : Token) (ea : Nat) : List (Nat × Nat × Byte) :=
  ((List.range 16).filter fun i => validAt d i && validAt c i).flatMap fun i =>
    ((List.range 4).filter fun k => (laneAt c i).getLsbD k).map fun k =>
      (i, va57 ((ea + 4 * i + k : Nat) : Int), (laneAt d i).extractLsb' (8 * k) 8)

/-- R274. -/
def bodyStm (f : Fields) (s : State) (u : Cur) (o : Opnds) : Act :=
  match o.a, o.b, o.c with
  | some a, some d, some c =>
    if a.poison then .control
    else
      (match storeBase f s u a none with
       | .error e => .trap e
       | .ok (p, b, ea) =>
         let bs := enabledBytes d c ea
         let e := bs.head?.bind fun x => entryAt s p x.2.1
         let m := memFmt f e d.fmt
         let need : Need := ⟨false, true, m == Fmt.ptr⟩
         let at_ : Elems := bs.map fun x => (x.1, x.2.1)
         match firstTrap [operandTrap f 1 d, wantIn 3 c fun g => g == Fmt.uint32 || g == Fmt.int32, laneAlign m ea at_,
               entryFirst p b need 1 (coverTrap m 1 d e) at_],
             laneSpans s p b need e 1 at_ with
         | some t, _ => .trap t
         | none, .error t => .trap t
         | none, .ok l =>
             let puts := (l.zip bs).flatMap fun x => putBytes x.1.2 [x.2.2.2]
             issueStore f s u (groupWrites puts [] (d.poison || c.poison) false))
  | _, _, _ => .trap illop

def execStm (f : Fields) (s : State) := runIns 0x102 .any f s (bodyStm f)

/-- R272: elements are separate accesses. -/
def bodySts (f : Fields) (s : State) (u : Cur) (o : Opnds) : Act :=
  match o.a, o.b, o.c with
  | some a, some d, some c =>
    if a.poison || c.poison then .control
    else
      (match planStride f s u a c (some d) with
       | .error e => .trap e
       | .ok ⟨p, b, _, m, _, els⟩ =>
         match operandTrap f 1 d, planElems s p b ⟨false, true, m == Fmt.ptr⟩ (wordBytes m) (coverTrap m 1 d) els with
         | some t, _ => .trap t
         | none, .error t => .trap t
         | none, .ok l =>
             issueStore f s u
               (l.flatMap fun x => groupWrites (putBytes x.2 (laneData m d x.1)) (pointerUnits m d [x]) d.poison false))
  | _, _, _ => .trap illop

def execSts (f : Fields) (s : State) := runIns 0x104 .any f s (bodySts f)

/-! ### Gather and scatter (R277, R278, 07 R203, R208, 08 R220) -/

/-- Indices: INT32, read signed, or UINT32. -/
def indexAt (t : Token) (i : Nat) : Int := if t.fmt == Fmt.uint32 then (laneAt t i).toNat else (laneAt t i).toInt

/-- The index lanes that name elements. -/
def indexLanes (m : Fmt) (t : Token) : List Nat :=
  (List.range (if isPair m then 8 else 16)).filter fun i => validAt t i

/-- The place of the first element that some lanes of an index name. -/
def firstNamed (m : Fmt) (base : Nat) (b : Token) (lanes : List Nat) : Option Nat :=
  lanes.head?.map fun i => (elemPlace m base (indexAt b i)).1

/-- The range entries that a gather or scatter may go through: that of its base, and the context's. -/
def candidates (s : State) (p : Party) (base : Nat) : List RangeEntry :=
  (entryAt s p base).toList ++ match tget s.contexts p.asid with
    | some x => x.ranges
    | none => []

/-- The format of a gather or scatter (R459): `FT`; under 0x1F that of the entry which covers the first element that it names,
placed as the entry's format places it; in no entry `dflt`. `first` gives that element's place. LOG 20, DEDUCED. -/
def indexedFmt (f : Fields) (s : State) (p : Party) (base : Nat) (first : Fmt → Option Nat) (dflt : Fmt) : Fmt :=
  if f.ft != Fmt.fromOperand then f.ft
  else
    match (candidates s p base).find? fun e => (first (rgFmt e)).any fun v => entryAt s p v == some e with
    | some e => rgFmt e
    | none => dflt

/-- The party and the base of a gather or scatter. -/
def planIndexed (s : State) (u : Cur) (a b : Token) : Except TrapInfo (Party × Base) :=
  match baseOf a, wantIndex b with
  | none, _ => .error (fmtTrap 0 a.fmt)
  | some _, some e => .error e
  | some x, none => .ok (partyOf s u.cell u.task, x)

/-- The element `i` of a gather from the bytes of its element word. -/
def gatherLane (m : Fmt) (sub : Nat) (word : Nat) : Lane := BitVec.ofNat 32 (word / 2 ^ (denseWidth m * sub) % 2 ^ denseWidth m)

/-- R220, R277: element Lane(B, i) in sub-element 0 of lane `i`, or pair `j` for two-lane formats. -/
def bodyLdg (f : Fields) (s : State) (u : Cur) (o : Opnds) : Act :=
  match o.a, o.b with
  | some a, some b =>
    if a.poison || b.poison then .control
    else
      (match planIndexed s u a b with
       | .error e => .trap e
       | .ok (p, x) =>
         let m := indexedFmt f s p x.addr (fun g => firstNamed g x.addr b (indexLanes g b)) Fmt.raw
         let w := wordBytes m
         let idx := indexLanes m b
         let at_ (i : Nat) := elemPlace m x.addr (indexAt b i)
         let first := firstNamed m x.addr b idx
         match planElems s p x ⟨true, false, m == Fmt.ptr⟩ w (entryTrap m) (idx.map fun i => (i, (at_ i).1)),
             scaleSegs s p (first.bind (entryAt s p)) first with
         | .error t, _ => .trap t
         | .ok _, .error t => .trap t
         | .ok l, .ok sc =>
           let accs := byGranule (joinSegs w l)
           doLoad s u false false false 0 ⟨m, accs, sc⟩ fun bs z po =>
             let run := spreadBytes w 16 accs.flatten bs
             let v : BitVec 16 := BitVec.ofFnLE fun i => idx.contains (if isPair m then i.val / 2 else i.val)
             match (if m == Fmt.ptr then idx.find? fun j => !taggedAt run (16 * j) else none) with
             | some j => .error ⟨.ptrTag, 0, j, (at_ j).1, 0⟩
             | none =>
               if isPair m then .ok (elemToken m w v run z po)
               else .ok (loadedToken m (Vector.ofFn fun i => gatherLane m (at_ i.val).2 (numAt run (4 * i.val) 4)) v
                 (Vector.replicate 8 0) z po))
  | _, _ => .trap illop

def execLdg (f : Fields) (s : State) := runIns 0x105 .any f s (bodyLdg f)

/-- The bytes of a sub-element within its word, as masked patches (R278). -/
def subPatches (m : Fmt) (segs : List Seg) (sub value : Nat) : List Put :=
  segs.flatMap fun g =>
    ((List.range g.len).map fun k =>
      (g.space, (⟨g.addr + k, BitVec.ofNat 8 ((2 ^ denseWidth m - 1) * 2 ^ (denseWidth m * sub) / 2 ^ (8 * k)),
        BitVec.ofNat 8 (value % 2 ^ denseWidth m * 2 ^ (denseWidth m * sub) / 2 ^ (8 * k))⟩ : Patch))).filter fun q => q.2.mask != 0

/-- R278. -/
def bodyStsc (f : Fields) (s : State) (u : Cur) (o : Opnds) : Act :=
  match o.a, o.b, o.c with
  | some a, some b, some d =>
    if a.poison || b.poison then .control
    else
      (match planIndexed s u a b with
       | .error e => .trap e
       | .ok (p, x) =>
         let lanesFor (g : Fmt) : List Nat := (indexLanes g b).filter fun i => validAt d (if isPair g then 2 * i else i)
         let m := indexedFmt f s p x.addr (fun g => firstNamed g x.addr b (lanesFor g)) d.fmt
         let at_ (i : Nat) := elemPlace m x.addr (indexAt b i)
         match operandTrap f 3 d, planElems s p x ⟨false, true, m == Fmt.ptr⟩ (wordBytes m) (coverTrap m 3 d)
             ((lanesFor m).map fun i => (i, (at_ i).1)) with
         | some t, _ => .trap t
         | none, .error t => .trap t
         | none, .ok l =>
             let puts := l.flatMap fun y =>
               if isPair m then putBytes y.2 (laneData m d y.1)
               else subPatches m y.2 (at_ y.1).2 (denseSub m (laneAt d y.1) 0)
             issueStore f s u (groupWrites puts [] d.poison false))
  | _, _, _ => .trap illop

def execStsc (f : Fields) (s : State) := runIns 0x106 .any f s (bodyStsc f)

/-! ### Prefetch (R279) -/

/-- The translation of an address loaded into the die's caches. -/
def holdTranslation (s : State) (p : Party) (v : Nat) : State :=
  if inWindow v || inSymbols v then s
  else
    match entryAt s p v with
    | some e =>
      if s.rangeHeld.any (fun h => h.die == p.die && h.asid == p.asid && h.entry = e) then s
      else { s with rangeHeld := (⟨p.die, p.asid, e⟩ :: s.rangeHeld).take 8192 }
    | none =>
      match pageMap s p v with
      | none => s
      | some m =>
        if s.xlates.any (fun x => x.die == p.die && x.asid == p.asid && decide (x.vbase ≤ v ∧ v < x.vbase + x.size)) then s
        else { s with xlates := ⟨p.die, p.asid, m.vbase, m.size, m.pbase, m.readable, m.writable⟩ :: s.xlates }

/-- A prefetch never faults: one that would does nothing. -/
def bodyPref (f : Fields) (s : State) (u : Cur) (o : Opnds) : Act :=
  match o.a with
  | none => .trap illop
  | some a =>
    if a.poison || isPoisoned o.c then .control
    else
      match baseOf a, (match o.c with | some t => wantOffset 3 t | none => none) with
      | some b, none =>
        let p := partyOf s u.cell u.task
        let ea := effAddr f b o.c
        (match spanOf s p b Need.read ea 1 with
         | .error _ => .done s .none noFlags
         | .ok segs =>
           if f.mod == 1 then .done (holdTranslation s p ea) .none noFlags
           else if mustWait s u [segs] then .wait
           else
             match segs with
             | g :: _ =>
               if g.space = .phys then
                 .done (servePort (fillLine (freshChoice s) u.c.page (g.addr / 64)) (.cell u.cell) segs) .none noFlags
               else .done s .none noFlags
             | [] => .done s .none noFlags)
      | _, _ => .done s .none noFlags

def execPref (f : Fields) (s : State) := runIns 0x107 .any f s (bodyPref f)

/-! ### Fences, acquire and release (R250, R284, R285) -/

/-- Every earlier operation performs before any later one. The firing waits only for what a release waits for (R239, R245);
else the fence takes its place among the operations that are to perform. `.ACQ` and `.AR` acquire there. -/
def bodyFence (f : Fields) (s : State) (u : Cur) (_o : Opnds) : Act :=
  let acq := if ordAcq f then some (lvlOf f) else none
  if ordRel f && !quiet s u (lvlOf f) then .wait
  else if (unperformed s u.key).isEmpty then .done (acquireOf s u.c.page acq) .none noFlags
  else .done (addPendingAs s u f true acq none [.order true]) .none noFlags

def execFence (f : Fields) (s : State) := runIns 0x113 .any f s (bodyFence f)

/-- The ports that a block's `SPOP` instructions name. -/
def spopPorts (c : Cell) (blk : Nat) : List Nat :=
  (List.range (blockLen c blk)).filterMap fun n =>
    let w := insWord c blk n
    if opOf w = 0x142 then some ((fieldsOf w).imm.toNat % 8) else none

/-- The ports whose heads a block reads. -/
def readPorts (c : Cell) (blk : Nat) : List Nat :=
  (List.range 8).filter fun p => maskBit (hInmask (headerAt c blk)) p || (spopPorts c blk).contains p

def maxLevel (a b : Option Nat) : Option Nat :=
  match a, b with
  | some x, some y => some (max x y)
  | some x, none => some x
  | none, y => y

/-- The greatest level carried by the release tokens that an `ACQ` of the firing takes in (R246). -/
def takenLevel (s : State) (u : Cur) : Option Nat :=
  (readPorts u.c u.fr.block).foldl (fun l p =>
    maxLevel l (match portHead s u.cell p with | some h => h.level | none => none)) u.t.taken

/-- An acquire at its place in index order (R285), to which later operations are held; the firing does not wait for it. -/
def bodyAcq (f : Fields) (s : State) (u : Cur) (_o : Opnds) : Act :=
  let level := max (lvlOf f) ((takenLevel s u).getD 0)
  if mayPerform s u [] then .done (acquireAt s u.c.page level) .none noFlags
  else .done (addPendingAs s u f true (some level) none [.order false]) .none noFlags

def execAcq (f : Fields) (s : State) := runIns 0x114 .any f s (bodyAcq f)

/-- The firing's tokens become release tokens, and it retires only after the release completes (R245, R284). -/
def bodyRel (f : Fields) (s : State) (u : Cur) (_o : Opnds) : Act :=
  .done (modFiring s u.key fun fr =>
    { fr with relLevel := maxLevel fr.relLevel (some (lvlOf f)), relMo := max fr.relMo (moField f), relDone := false })
    .none noFlags

def execRel (f : Fields) (s : State) := runIns 0x115 .any f s (bodyRel f)

end Sys2Proof.Machine
end

