-- ==== Sys2Proof/Machine/Atomics.lean ====
section
/-! DEFINITION. Atomics (10_order_instructions.md R280-R283, 09_order_model.md R251-R253). -/

namespace Sys2Proof.Machine

/-- The floating-point context of a home's node: RNE, unsaturated, nothing flushed (R281). -/
def nodeCtx (g : FpFmt) : FpCtx := ⟨g, .rne, false, false⟩

/-- The value that an atomic writes, none where it writes nothing (R281). -/
def atomicNew (op : AtomicOp) (m : Fmt) (old b c : Nat) : Option Nat :=
  let x := intOf m old
  let y := intOf m b
  let g := (fpFmt m).getD .fp32
  match op with
  | .add => some (wrapInt m (x + y))
  | .min => some (wrapInt m (min x y))
  | .max => some (wrapInt m (max x y))
  | .and => some (BitVec.ofNat 64 old &&& BitVec.ofNat 64 b).toNat
  | .or => some (BitVec.ofNat 64 old ||| BitVec.ofNat 64 b).toNat
  | .xor => some (BitVec.ofNat 64 old ^^^ BitVec.ofNat 64 b).toNat
  | .xchg => some b
  | .cas => if old = b then some c else none
  | .one => some 1
  | .inc => some (wrapInt m (x + 1))
  | .dec => some (wrapInt m (x - 1))
  | .fadd => some (store (nodeCtx g) (addNum .rne (decodeNum g old) (decodeNum g b))).1
  | .fmin => some (fpMin false (nodeCtx g) old b).1
  | .fmax => some (fpMin true (nodeCtx g) old b).1

/-- The bytes of an element. -/
def elemBytes (m : Fmt) : Nat := fmtWidth m / 8

/-- The write that an element of an atomic makes. -/
def atomicWrite (e : AtomicElem) (v : Nat) : Write :=
  { space := e.space, patches := patchesOf e.addr (natLe (elemBytes e.fmt) v), tagUnits := []
    poisoned := e.poisoned, drops := false }

/-- An element finds its granule poisoned: by a mark that its own atomic did not set (R268). LOG 20, DEDUCED. -/
def atomicSpoilt (s : State) (e : AtomicElem) : Bool := poisonAt (memOf s e.space) e.addr && !e.own

/-- One element applied at its node as one indivisible step: the state, the value read, and whether its granule
was poisoned, in which case nothing is written (R251, R268). -/
def atomicStep (s : State) (page : Nat) (e : AtomicElem) : State × Nat × Bool :=
  let m := memOf s e.space
  let old := readNat m e.addr (elemBytes e.fmt)
  if atomicSpoilt s e then (s, old, true)
  else
    match atomicNew e.op e.fmt old e.b.toNat e.c.toNat with
    | none => (s, old, false)
    | some v => (performWrite s page (atomicWrite e v), old, false)

/-- A value read at its node is never older in the page's line buffer afterwards (09 R238 item 3). LOG 20, DEDUCED. -/
def syncRead (s : State) (page : Nat) (e : AtomicElem) : State := (readSeg s page false ⟨0, elemBytes e.fmt, e.space, e.addr⟩).1

/-- The granule that an element of poisoned data marks, where it writes one (R268). -/
def atomicMark (s : State) (e : AtomicElem) : List (Space × Nat) :=
  let old := readNat (memOf s e.space) e.addr (elemBytes e.fmt)
  if e.poisoned && !atomicSpoilt s e && (atomicNew e.op e.fmt old e.b.toNat e.c.toNat).isSome then [(e.space, e.addr / 64)] else []

/-- An element of an atomic whose earlier elements have marked some granules. -/
def ownElem (marks : List (Space × Nat)) (e : AtomicElem) : AtomicElem :=
  { e with own := e.own || marks.contains (e.space, e.addr / 64) }

/-- Elements applied in increasing order, with what each read and the granules that the atomic has marked (R268, R282).
LOG 20, DEDUCED. -/
def atomicSteps (s : State) (page : Nat) (marks : List (Space × Nat)) :
    List (Nat × AtomicElem) → State × List (Nat × Nat × Bool) × List (Space × Nat)
  | [] => (s, [], marks)
  | (j, e) :: r =>
    let e := ownElem marks e
    let x := atomicStep s page e
    let y := atomicSteps (syncRead x.1 page e) page (marks ++ atomicMark s e) r
    (y.1, (j, x.2.1, x.2.2) :: y.2.1, y.2.2)

/-- The operand of element `j`: lane `j`, the pair `j`, or sub-element 0 of lane `j` (R280). -/
def atomicOperand (m : Fmt) (t : Token) (j : Nat) : Nat :=
  if isPair m then pairAt t j else (laneAt t j).toNat % 2 ^ fmtWidth m

def operandValid (m : Fmt) (t : Option Token) (j : Nat) : Bool :=
  match t with
  | none => true
  | some x => if isPair m then validAt x (2 * j) && validAt x (2 * j + 1) else validAt x j

/-- The format of a float atomic under 0x1F without an entry is operand B's (R459). -/
def atomicFmt (f : Fields) (e : Option RangeEntry) (b : Option Token) : Except TrapInfo Fmt :=
  let m := memFmt f e (match b with | some t => t.fmt | none => Fmt.int32)
  if f.ft == Fmt.fromOperand && !isFloat3 m then
    .error (match e, b with
      | some x, _ => fmtTrap 0 (rgFmt x)
      | none, some t => fmtTrap 1 t.fmt
      | none, none => fmtTrap 1 0)
  else .ok m

/-- The elements that apply, each with its base (R280). -/
def atomicTargets (m : Fmt) (a : Token) (b c : Option Token) : List (Nat × Base) :=
  ((List.range 8).filter fun j =>
      validAt a (2 * j) && validAt a (2 * j + 1) && operandValid m b j && operandValid m c j).map fun j =>
    (j, ⟨pairAt a j % 2 ^ 57, if a.fmt == Fmt.ptr then some (boundAt a j) else none⟩)

/-- Every element checked before any is applied (R264). -/
def planAtomic (s : State) (p : Party) (m : Fmt) : List (Nat × Base) → Except TrapInfo (List (Nat × Seg))
  | [] => .ok []
  | (j, b) :: r =>
    if b.addr % elemBytes m != 0 then .error (alignTrap j b.addr)
    else
      match baseFirst p b Need.both j b.addr (elemBytes m) (entryTrap m (entryAt s p b.addr)), spanOf s p b Need.both b.addr (elemBytes m) with
      | some e, _ => .error e
      | none, .error e => .error (accessTrap j e)
      | none, .ok (g :: _) => (planAtomic s p m r).map ((j, g) :: ·)
      | none, .ok [] => planAtomic s p m r

/-- The result: element `j` holds the value read, in the place of its operand. -/
def atomicResult (m : Fmt) (a : Token) (poison : Bool) (olds : List (Nat × Nat × Bool)) : Token :=
  let at_ (j : Nat) : Option Nat := (olds.find? fun x => x.1 == j).map (·.2.1)
  let pick (i : Nat) : Option Nat := if isPair m then at_ (i / 2) else at_ i
  result a m
    (Vector.ofFn fun i => match pick i.val with
      | some v => BitVec.ofNat 32 (if isPair m then v / 2 ^ (32 * (i.val % 2)) else v)
      | none => 0)
    (BitVec.ofFnLE fun i => (pick i.val).isSome) (poison || olds.any (·.2.2))

/-- The next element of an atomic is applied, and others are left (R282). -/
def atomicPiece (s : State) (u : Cur) (d : PartAccess) (x : Nat × AtomicElem) (segs : List Seg) : State :=
  let r := atomicSteps s u.c.page d.marks [x]
  touchPage (keepPart (servePort r.1 (.cell u.cell) segs) u { d with
    count := d.count + 1, olds := d.olds ++ r.2.1, marks := r.2.2 }) u.c.page

/-- The entry whose format an atomic takes under 0x1F: that of the first element which applies, by the operands' places in
that format (R280, R459). LOG 20, DEDUCED. -/
def atomicEntry (f : Fields) (s : State) (p : Party) (a : Token) (b c : Option Token) : Option RangeEntry :=
  let named := (List.range 8).filter fun j => validAt a (2 * j) && validAt a (2 * j + 1)
  let entryOf (j : Nat) : Option RangeEntry := entryAt s p (pairAt a j % 2 ^ 57)
  let goes (j : Nat) : Bool :=
    let m := memFmt f (entryOf j) (match b with | some t => t.fmt | none => Fmt.int32)
    operandValid m b j && operandValid m c j
  (named.find? goes).bind entryOf

/-- THE MOULD of the atomics (R280): every element is checked, then applied; an atomic without targets performs later, as a
store does (R239, R282). -/
def atomicOf (op : AtomicOp) (f : Fields) (s : State) (u : Cur) (o : Opnds) : Act :=
  match o.a with
  | none => .trap illop
  | some a =>
    if a.poison then .control
    else if !(a.kind == 0 && (a.fmt == Fmt.int64 || a.fmt == Fmt.ptr)) then .trap (fmtTrap 0 a.fmt)
    else
      let p := partyOf s u.cell u.task
      match atomicFmt f (atomicEntry f s p a o.b o.c) o.b with
      | .error t => .trap t
      | .ok m =>
        match firstTrap [o.b.bind fun b => wantTag 1 b m, o.c.bind fun c => wantTag 3 c m] with
        | some t => .trap t
        | none =>
          match planAtomic s p m (atomicTargets m a o.b o.c) with
          | .error t => .trap t
          | .ok l =>
            let po := isPoisoned o.b || isPoisoned o.c
            let opnd (t : Option Token) (j : Nat) : BitVec 64 :=
              match t with
              | some x => BitVec.ofNat 64 (atomicOperand m x j)
              | none => 0
            let elems : List (Nat × AtomicElem) := l.map fun x =>
              (x.1, ⟨x.2.space, x.2.addr, op, m, opnd o.b x.1, opnd o.c x.1, po, false⟩)
            if ordRel f && !quiet s u (lvlOf f) then .wait
            else if (targetOf f.t0).isNone && (targetOf f.t1).isNone then
              .done (addPendingAs s u f (ordAcq f) (if ordAcq f then some (lvlOf f) else none) none
                (if ordAcq f && elems.isEmpty then [.order false] else elems.map fun x => .atomic x.2)) .none noFlags
            else
              let d := partOf u
              let rest := elems.drop d.count
              let segs := (l.map (·.2)).drop d.count
              match pieceTurn s, rest with
              | true, x :: _ :: _ => if mustWait s u (eachSeg (segs.take 1)) then .wait else .pause (atomicPiece s u d x (segs.take 1))
              | _, _ =>
                if mustWait s u (eachSeg segs) then .wait
                else
                  let r := atomicSteps s u.c.page d.marks rest
                  let s1 := servePort r.1 (.cell u.cell) segs
                  .done (touchPage (if ordAcq f then acquireAt s1 u.c.page (lvlOf f) else s1) u.c.page)
                    (.one (.data (atomicResult m a po (d.olds ++ r.2.1)))) noFlags

def execAadd (f : Fields) (s : State) := runIns 0x108 .any f s (atomicOf .add f)
def execAmin (f : Fields) (s : State) := runIns 0x109 .any f s (atomicOf .min f)
def execAmax (f : Fields) (s : State) := runIns 0x10A .any f s (atomicOf .max f)
def execAand (f : Fields) (s : State) := runIns 0x10B .any f s (atomicOf .and f)
def execAor (f : Fields) (s : State) := runIns 0x10C .any f s (atomicOf .or f)
def execAxor (f : Fields) (s : State) := runIns 0x10D .any f s (atomicOf .xor f)
def execAxchg (f : Fields) (s : State) := runIns 0x10E .any f s (atomicOf .xchg f)
def execAcas (f : Fields) (s : State) := runIns 0x10F .any f s (atomicOf .cas f)
def execAtas (f : Fields) (s : State) := runIns 0x110 .any f s (atomicOf .one f)
def execAfadd (f : Fields) (s : State) := runIns 0x111 .any f s (atomicOf .fadd f)
def execAinc (f : Fields) (s : State) := runIns 0x112 .any f s (atomicOf .inc f)
def execAdec (f : Fields) (s : State) := runIns 0x11D .any f s (atomicOf .dec f)
def execAfmin (f : Fields) (s : State) := runIns 0x121 .any f s (atomicOf .fmin f)
def execAfmax (f : Fields) (s : State) := runIns 0x122 .any f s (atomicOf .fmax f)

end Sys2Proof.Machine
end

