-- ==== Sys2Proof/Machine/Engines.lean ====
section
/-! DEFINITION. Bank tokens, token FIFOs, and the instructions that feed the chains
(10_order_instructions.md R286-R300). -/

namespace Sys2Proof.Machine

/-! ### Bank tokens (R286-R288) -/

/-- The bank that a task's bank-token index names. -/
def bankAt (t : Task) (k : Nat) : Option (Nat × Nat) := t.banks[k]?

/-- The next holder of a bank's token. -/
def nextHolder (b : Bank) : Option (Nat × Nat) := b.holders[b.turn % b.holders.length]?

/-- The condition of `BKTAKE` and of a bank guard: held by the task, or the task's turn and not held. -/
def mayTake (s : State) (task : Nat × Nat) (b : Nat × Nat) : Bool :=
  match tget s.banks b with
  | none => false
  | some x => x.holder == some task || (x.holder.isNone && nextHolder x == some task)

/-- The task takes the token; a token already held is kept. -/
def takeBank (s : State) (task : Nat × Nat) (b : Nat × Nat) : State := modBank s b fun x => { x with holder := some task }

def bodyBktake (f : Fields) (s : State) (u : Cur) (_o : Opnds) : Act :=
  match bankAt u.t (immN f % 32) with
  | none => .trap illop
  | some b =>
    if !mayTake s u.key b || !mayPerform s u [] then .wait
    else .done (acquireAt (takeBank s u.key b) u.c.page 7) .none noFlags

def execBktake (f : Fields) (s : State) := runIns 0x116 .any f s (bodyBktake f)

/-- A release at level 7; the token is given when the firing retires. -/
def bodyBkgive (f : Fields) (s : State) (u : Cur) (_o : Opnds) : Act :=
  match bankAt u.t (immN f % 32) with
  | none => .trap illop
  | some b =>
    if !holdsBank s u.key b || !quiet s u 7 then .wait
    else .done (later s u (.giveBank (immN f % 32))) .none noFlags

def execBkgive (f : Fields) (s : State) := runIns 0x117 .any f s (bodyBkgive f)

/-! ### Token FIFOs (R289-R291) -/

def fifoOf (s : State) (asid : BitVec 8) (n : Nat) : Fifo :=
  match tget s.contexts asid with
  | some x => if h : n < 16 then x.fifos[n] else ⟨0, 0, 0, 0, 0, []⟩
  | none => ⟨0, 0, 0, 0, 0, []⟩

/-- The push takes effect at retirement, from the entry that the firing reserved. -/
def bodyTfpush (f : Fields) (s : State) (u : Cur) (_o : Opnds) : Act :=
  let n := immN f % 16
  if !u.fr.resPush.contains n || !quiet s u (fifoOf s (asidOf s u.cell) n).level then .wait
  else .done (later s u (.pushFifo n)) .none noFlags

def execTfpush (f : Fields) (s : State) := runIns 0x118 .any f s (bodyTfpush f)

/-- The pop takes the reserved entry at its memory-order place. -/
def bodyTfpop (f : Fields) (s : State) (u : Cur) (_o : Opnds) : Act :=
  let n := immN f % 16
  if !u.fr.resPop.contains n || !mayPerform s u [] then .wait
  else
    let asid := asidOf s u.cell
    let s1 := modFifo s asid n fun q => { q with count := q.count - 1, resPop := q.resPop - 1 }
    let s2 := modFiring s1 u.key fun fr => { fr with resPop := fr.resPop.erase n }
    .done (acquireAt s2 u.c.page (fifoOf s asid n).level) .none noFlags

def execTfpop (f : Fields) (s : State) := runIns 0x119 .any f s (bodyTfpop f)

/-! ### Chains (R292-R300) -/

/-- The chain of a cell by its number. -/
def chainOf (s : State) (cell num : Nat) : Option (Nat × Chain) :=
  s.chains.find? fun kc => kc.2.cell == cell && kc.2.num == num

/-- The virtual address of card slot `n` mod C (R292). -/
def cardAddr (c : Chain) (n : Nat) : Nat := c.base + 64 * (1 + n % c.cards)

/-- Bytes of a token's payload, lane 0 first. -/
def payload (lanes : Vector Lane 16) : List Byte := (List.range 16).flatMap fun i => natLe 4 (if h : i < 16 then lanes[i].toNat else 0)

/-- The cards of a chain whose stores have not performed, so that `W` does not count them yet, by the tasks of its cell. -/
def cardsDue (s : State) (cell k : Nat) : List (Nat × Nat) :=
  s.tasks.flatMap fun kt => if kt.1.1 == cell then (kt.2.pending.filter (·.card == some k)).map fun _ => kt.1 else []

/-- R299: the card is written as a store at its place, to the slot that `W` names once the cards before it are written; `W` counts
it when it has been written, or has entered an outbound queue. Another task's card that is not yet counted is waited for.
LOG 20, DEDUCED. -/
def bodyChapp (f : Fields) (s : State) (u : Cur) (o : Opnds) : Act :=
  match o.a, chainOf s u.cell (immN f % 4) with
  | some a, some (k, c) =>
    if a.poison then .control
    else
      (match wantTag 0 a Fmt.raw with
       | some e => .trap e
       | none =>
         if a.valid != 0xFFFF then .trap (fmtTrap 0 a.fmt)
         else if !u.fr.resCards.contains k || (cardsDue s u.cell k).any (· != u.key)
             || c.w + (cardsDue s u.cell k).length - c.q ≥ c.cards then .wait
         else
           match spanOf s { partyOf s u.cell u.task with ponly := false } ⟨0, none⟩ Need.write
               (cardAddr c (c.w + (cardsDue s u.cell k).length)) 64 with
           | .error e => .trap (accessTrap 0 e)
           | .ok segs =>
             let s1 := modChain s k fun x => { x with reserved := x.reserved - 1 }
             let s2 := modFiring s1 u.key fun fr => { fr with resCards := fr.resCards.erase k }
             .done (addPendingAs s2 u f false none (some k)
               ((groupWrites (putBytes segs (payload a.lanes)) [] a.poison false).map .write)) .none noFlags)
  | _, _ => .trap illop

def execChapp (f : Fields) (s : State) := runIns 0x11A .any f s (bodyChapp f)

/-- R299: T := W, as a release at level 5 towards the jobs it publishes (R256). -/
def bodyChtail (f : Fields) (s : State) (u : Cur) (_o : Opnds) : Act :=
  match chainOf s u.cell (immN f % 4) with
  | none => .trap illop
  | some (k, _) =>
    if !quiet s u 5 then .wait
    else .done (modChain s k fun x => { x with t := x.w }) .none noFlags

def execChtail (f : Fields) (s : State) := runIns 0x11B .any f s (bodyChtail f)

/-- R300; of a chain that the cell does not have, it traps ILLOP (LOG 35, DESIGN CHOICE). -/
def bodyChseq (f : Fields) (s : State) (u : Cur) (_o : Opnds) : Act :=
  match chainOf s u.cell (immN f % 4) with
  | none => .trap illop
  | some (_, c) =>
    if !mayPerform s u [] then .wait
    else
      oneData s { blankToken with
        lanes := Vector.ofFn fun i => if i.val < 2 then BitVec.ofNat 32 (c.q / 2 ^ (32 * i.val)) else 0
        valid := 3, fmt := Fmt.int64 }

def execChseq (f : Fields) (s : State) := runIns 0x11C .any f s (bodyChseq f)

end Sys2Proof.Machine
end

