-- ==== Sys2Proof/Machine/Heads.lean ====
section
/-! DEFINITION. Heads of ports as an agent that would take one finds them: their ECC (16_recovery.md R411, R412), and
the faults left pending for a task (07_arith_streams.md R206). -/

namespace Sys2Proof.Machine

/-- A page that is placed and neither frozen nor freezing: its agents move (16 R424). -/
def pageRuns (s : State) (page : Nat) : Bool :=
  match tget s.pages page with
  | some p => !p.frozen && !p.freezing && !p.returned
  | none => false

def cellRuns (s : State) (cell : Nat) : Bool := (tget s.cells cell).isSome && pageRuns s (pageIdOf s cell)

/-- A fault of the unit at cell `src` recorded against a task, taken when it is next chosen to fire (R206, 06 R184). -/
def pendTrap (s : State) (src cell task : Nat) (t : TrapInfo) : State :=
  modTask s (cell, task) fun x => { x with traps := x.traps ++ [(t, src)] }

/-- The tasks of a cell, lowest number first. -/
def tasksOf (s : State) (cell : Nat) : List (Nat × Task) :=
  (List.range 8).filterMap fun k => (tget s.tasks (cell, k)).map fun t => (k, t)

/-- The opcodes of a block's words, by instruction index. -/
def blockOps (c : Cell) (blk : Nat) : List Nat := (List.range (blockLen c blk)).map fun n => opOf (insWord c blk n)

/-- The lowest task of a cell with a block that holds an opcode of a kind; task 0 where there is none. -/
def taskHolding (s : State) (cell : Nat) (p : Nat → Bool) : Nat :=
  match tget s.cells cell with
  | none => 0
  | some c => ((tasksOf s cell).find? fun kt => kt.2.blocks.any fun b => (blockOps c b).any p).elim 0 (·.1)

/-- An entry of the replay window of an arc's source, by the arc and `SEQ` (16 R410). -/
def replayEntry (s : State) (arc : Nat) (a : Arc) (q : BitVec 22) : Option Replay :=
  match tget s.cells a.pCell with
  | some c => if c.kind = .t then c.replay.find? (fun r => r.arc == arc && r.tok.seq == q) else none
  | none => none

/-- The `SEQ` of an arc's head, which is what its position gives: the tokens accepted and not given up carry consecutive numbers
ending at E - 1, those in a Spillway queue behind those in slots (R412). -/
def headSeq (a : Arc) : BitVec 22 :=
  match headOf a with
  | some h => itemSeq h.item
  | none => a.ports.cE

/-- The first task of a page: of its lowest cell, one in flight first. -/
def firstTask (s : State) (page : Nat) : Nat × Nat :=
  let l := s.tasks.filter fun kt => pageIdOf s kt.1.1 == page
  match l.find? fun kt => kt.2.firing.isSome with
  | some kt => kt.1
  | none => (match l with
      | kt :: _ => kt.1
      | [] => (0, 0))

/-- A lasting error of a page's storage: its frame is faulty (R417). -/
def lastingAt (s : State) (page unit : Nat) : State :=
  let k := firstTask s page
  frameFaulty s page ⟨⟨.guardFail, 0, 2 + 16 * unit, 0, 0⟩, k.1, k.2, 0xFF⟩

/-- A token that its port or its queue, at a page, lost or has poisoned (R411): logged, and the frame that holds the slot or the
queue is faulty (R405). LOG 26, DEDUCED. -/
def lastingSlot (s : State) (page : Nat) (asid : BitVec 8) (src : BitVec 16) (port : Nat) (poisoned : Bool) : State :=
  lastingAt (if poisoned then logEvent s asid src 0xF007 (BitVec.ofNat 32 port) else s) page 0

/-- The same of the head of an arc's slots. -/
def lastingHead (s : State) (a : Arc) (poisoned : Bool) : State :=
  lastingSlot s (pageIdOf s a.cCell) (asidOf s a.cCell) (esrcOf s a.cCell) a.cPort poisoned

inductive HeadFound where
  | clear
  | awaiting
  | lost (seq : BitVec 22)
  deriving DecidableEq, Repr

/-- The head of an arc's queue replaced. -/
def setHead (s : State) (arc : Nat) (h : SlotTok) : State :=
  modArc s arc fun a => { a with queue := match a.queue with | [] => [] | _ :: r => h :: r }

/-- THE ECC CHECK OF A HEAD that is about to be taken (R411, R412): an uncorrectable error makes the port await a
copy where the source still has one; else the payload is poisoned, or the token, no longer held (13 R343), lost and the port
stopped, and the error is a lasting one. -/
def headCheck (s : State) (arc : Nat) : State × HeadFound :=
  match tget s.arcs arc with
  | none => (s, .clear)
  | some a =>
    if a.ports.awaiting.isSome then (s, .awaiting)
    else
      match headOf a with
      | none => (s, .clear)
      | some h =>
        if h.ecc = .good then (s, .clear)
        else if (replayEntry s arc a (headSeq a)).isSome then
          (modArc s arc fun x => { x with ports := { x.ports with awaiting := some (headSeq a) } }, .awaiting)
        else if h.ecc = .payload then
          (lastingHead (setHead s arc { h with item := poisonItem h.item, ecc := .good }) a true, .clear)
        else
          (lastingHead (addBalance (modArc s arc fun x =>
              { x with queue := x.queue.drop 1, ports := { x.ports with gap := some (headSeq a) } }) (asidOf s a.cCell) (-1)) a false,
            .lost (headSeq a))

/-- `SEQGAP` at a port (R431). -/
def gapTrap (port : Nat) (q : BitVec 22) : TrapInfo := ⟨.seqGap, 0, port, 0, q.toNat⟩

/-! ### Closed ports (12 R326, R327) -/

/-- An arc's part of a closed port: a teardown token stands at its head, or has been given up. -/
def arcClosed (a : Arc) : Bool :=
  a.ports.cClosed || (match headOf a with | some h => isTeardown h.item | none => false)

/-- An input port is closed: every copy is (R326); a port without an arc is not. -/
def portClosed (s : State) (cell port : Nat) : Bool :=
  !(arcsTo s cell port).isEmpty && (arcsTo s cell port).all fun ka => arcClosed ka.2

/-- A merging port keeps the copy whose head the firing takes at the front of its turn (12 R319). -/
def pinPort (s : State) (cell p : Nat) : State :=
  match inArc s cell p, arcsTo s cell p with
  | some (k, _), l =>
    if l.length ≤ 1 then s else modCell s cell fun c => { c with rr := tput c.rr p ((l.map (·.1)).findIdx (· == k)) }
  | none, _ => s

end Sys2Proof.Machine
end

