-- ==== Sys2Proof/Machine/Matrix.lean ====
section
/-! DEFINITION. Matrix cells and accumulator nodes (06_arith_matrix.md R166-R198). -/

namespace Sys2Proof.Machine

/-! ### Formats (R169, R170) -/

/-- The integer group; every other matrix operand format is in the float group (R169). -/
def isIntGroup (f : Fmt) : Bool :=
  f == Fmt.int16 || f == Fmt.int8 || f == Fmt.uint8 || f == Fmt.int4 || f == Fmt.uint4

abbrev Book := Option (Fmt × Vector (BitVec 16) 16)

def bookTag (b : Book) : Option Fmt := b.map (·.1)

def bookBits (b : Book) (k : Nat) : Nat :=
  match b with
  | some (_, v) => if h : k < 16 then v[k].toNat else 0
  | none => 0

/-- A matrix element's value: never flushed (R179, R182). -/
def matNum (f : Fmt) (scale : BitVec 8) (book : Book) (x : Nat) : Num :=
  if f == Fmt.cb4 then decodeNum .bf16 (bookBits book x)
  else if f == Fmt.cb4s then
    if scale == 0xFF then .nan true else (decodeNum .bf16 (bookBits book x)).scale (scalePow scale)
  else sourceNum false f scale x

/-- K of a row: 16 × min(wa, wp); against an empty plane 16 × wa (R170). -/
def rowK (fa : Fmt) (fp : Option Fmt) : Nat :=
  match fp with
  | some g => 16 * min (perLane fa) (perLane g)
  | none => 16 * perLane fa

/-- Element `k` of the A-row token where its lane is valid: its bits. -/
def rowElem (a : Token) (k : Nat) : Option Nat :=
  let p := perLane a.fmt
  if validAt a (k / p) then some (subAt a.fmt (laneAt a (k / p)) (k % p)) else none

/-- The bits of plane element (k, n) with its token's scale, none where it reads as +0 (R171, R172). -/
def planeElem (p : Plane) (g : Fmt) (k n : Nat) : Option (Nat × BitVec 8) :=
  let w := perLane g
  let m := 64 * k + n
  match p.toks[m / (16 * w)]? with
  | none => none
  | some (lanes, sc, va) =>
    let i := m % (16 * w) / w
    if h : i < 16 then (if va.getLsbD i then some (subAt g lanes[i] (m % w), sc) else none) else none

def weightNum (p : Plane) (cbB : Book) (k n : Nat) : Num :=
  match p.fmt with
  | none => .zero false
  | some g =>
    match planeElem p g k n with
    | some (x, sc) => matNum g sc cbB x
    | none => .zero false

def weightInt (p : Plane) (k n : Nat) : Int :=
  match p.fmt with
  | none => 0
  | some g =>
    match planeElem p g k n with
    | some (x, _) => intOf g x
    | none => 0

/-! ### What a row computes (R182, R183) -/

/-- The chain token's lane that is added to column `n`. -/
def chainLane (r : Row) (n : Nat) : Option Lane :=
  match r.taken[n / 16]? with
  | some t => if validAt t (n % 16) then some (laneAt t (n % 16)) else none
  | none => none

/-- Column `n` of the float group: the exact sum rounded once, an exact zero giving +0. -/
def rowFloat (m : MState) (r : Row) (n : Nat) : Nat :=
  let terms := (List.range (rowK r.a.fmt m.active.fmt)).filterMap fun k =>
    (rowElem r.a k).map fun x => mulNum (matNum r.a.fmt r.a.scale r.codebook x) (weightNum m.active m.cbB k n)
  let chain := match chainLane r n with
    | some x => [decodeNum .fp32 x.toNat]
    | none => []
  match sumNum .rne (terms ++ chain) with
  | .fin _ 0 _ => 0
  | v => (store ⟨.fp32, .rne, false, false⟩ v).1

/-- Column `n` of the integer group: the exact sum wrapped to INT32. -/
def rowInt (m : MState) (r : Row) (n : Nat) : Nat :=
  let terms := (List.range (rowK r.a.fmt m.active.fmt)).filterMap fun k =>
    (rowElem r.a k).map fun x => intOf r.a.fmt x * weightInt m.active k n
  let chain : Int := match chainLane r n with
    | some x => x.toInt
    | none => 0
  wrapInt Fmt.int32 (terms.sum + chain)

def rowOut (m : MState) (r : Row) (n : Nat) : Nat := if isIntGroup r.a.fmt then rowInt m r n else rowFloat m r n

/-- Output token `q` of a row. -/
def rowToken (m : MState) (r : Row) (q : Nat) : Token :=
  { blankToken with
    lanes := Vector.ofFn fun i => BitVec.ofNat 32 (rowOut m r (16 * q + i.val))
    fmt := if isIntGroup r.a.fmt then Fmt.int32 else Fmt.fp32
    tag := r.a.tag + BitVec.ofNat 8 q
    poison := r.a.poison || m.active.poison || (r.taken.take (q + 1)).any (·.poison) }

/-- The read elements of a row's operand. -/
def readElems (a : Token) (fp : Option Fmt) : List Nat := (List.range (rowK a.fmt fp)).filterMap (rowElem a)

/-- R186. -/
def isZeroRow (a : Token) (book : Book) (fp : Option Fmt) : Bool :=
  (readElems a fp).all fun x => (matNum a.fmt a.scale book x).isZero

def isNarrowRow (a : Token) (book : Book) (fp : Option Fmt) : Bool :=
  if isIntGroup a.fmt then (readElems a fp).all fun x => decide (-8 ≤ intOf a.fmt x ∧ intOf a.fmt x ≤ 7)
  else
    let vs := (readElems a fp).map fun x => matNum a.fmt a.scale book x
    let ls := (vs.filter fun v => !v.isZero).map floorLog2
    vs.all (fun v => !v.isNan && !v.isInf) && ls.all fun x => ls.all fun y => decide (x ≤ y + 7)

/-! ### Loading the planes, the codebooks and the routes (R174-R178, R188-R190) -/

/-- The effect on the cell of one of the instructions that change it at retirement. -/
def applyMat (m : MState) : Deferred → MState
  | .loadPlane t =>
    { m with shadow :=
      { toks := m.shadow.toks ++ [(t.lanes, t.scale, t.valid)]
        fmt := if m.shadow.toks.isEmpty then some t.fmt else m.shadow.fmt
        poison := m.shadow.poison || t.poison } }
  | .clearShadow => { m with shadow := Plane.empty }
  | .swapPlanes => { m with active := m.shadow, shadow := m.active }
  | .loadCodebook true g v => { m with cbB := some (g, Vector.ofFn fun i => v[i.val / 2].extractLsb' (16 * (i.val % 2)) 16) }
  | .loadCodebook false g v => { m with cbA := some (g, Vector.ofFn fun i => v[i.val / 2].extractLsb' (16 * (i.val % 2)) 16) }
  | .setRoutes es => { m with routes := es.foldl (fun v e => if h : e.1 < 8 then v.set e.1 e.2 else v) m.routes }
  | .routeTo e => { m with current := e }
  | _ => m

/-- A firing's deferred effects in the order of their instruction indices. -/
def insertByIns (d : Nat × Deferred) : List (Nat × Deferred) → List (Nat × Deferred)
  | [] => [d]
  | x :: r => if d.1 ≤ x.1 then d :: x :: r else x :: insertByIns d r

/-- The effects of a firing at its retirement, in the order of their instructions' indices. The rules give that order to MLDS
alone (06 R174); the model gives it to all, so of two SETMODE the higher index stands, MLDS, MCLR and MSWAP act as they stand
in the block, and of ACC (or ACCN) and EOR the later leaves ACNT (LOG 32, DESIGN CHOICE). -/
def byIns : List (Nat × Deferred) → List (Nat × Deferred)
  | [] => []
  | d :: r => insertByIns d (byIns r)

/-- The cell's matrix state as instruction `ins` of the firing would find it at retirement, by the order of `byIns`
(LOG 32, DESIGN CHOICE). -/
def matSeen (u : Cur) : MState :=
  ((byIns u.fr.deferred).filter (·.1 < u.ins)).foldl (fun m d => applyMat m d.2) u.c.mat

/-- Every lower instruction of the block has executed or been nullified. -/
def lowerDone (u : Cur) : Bool := (List.range u.ins).all fun m => u.fr.done.contains m

/-- R174. -/
def bodyMlds (f : Fields) (s : State) (u : Cur) (o : Opnds) : Act :=
  match o.a with
  | none => .trap illop
  | some a =>
    match wantTag 0 a f.ft with
    | some e => .trap e
    | none =>
      if !lowerDone u then .wait
      else
        let p := (matSeen u).shadow
        if 64 ≤ p.toks.length then .trap illop
        else if p.fmt.isSome && p.fmt != some f.ft then .trap (fmtTrap 0 a.fmt)
        else .done (later s u (.loadPlane { a with fmt := f.ft })) .none noFlags

def execMlds (f : Fields) (s : State) := runIns 0x0E0 .any f s (bodyMlds f)

def execMswap (f : Fields) (s : State) := runIns 0x0E1 .any f s fun s u _ => .done (later s u .swapPlanes) .none noFlags

def execMclr (f : Fields) (s : State) := runIns 0x0EB .any f s fun s u _ => .done (later s u .clearShadow) .none noFlags

/-- R178. -/
def bodyMcbl (f : Fields) (s : State) (u : Cur) (o : Opnds) : Act :=
  match o.a with
  | none => .trap illop
  | some a =>
    match wantBook 0 a f.ft with
    | some e => .trap e
    | none => .done (later s u (.loadCodebook (f.mod == 1) f.ft a.lanes)) .none noFlags

def execMcbl (f : Fields) (s : State) := runIns 0x0E4 .any f s (bodyMcbl f)

/-! ### Rows (R180-R184) -/

/-- The route that a row under `RT` takes: `RPORT` of a valid current entry. -/
def currentRoute (m : MState) : Option Nat :=
  if h : m.current < 8 then
    (if (m.routes[m.current]).getLsbD 3 then some (m.routes[m.current].extractLsb' 0 3).toNat else none)
  else none

/-- The output port of `MROW` and `MROWC`. -/
def rowPort (f : Fields) (m : MState) : Option Nat :=
  if f.imm.getLsbD 3 then currentRoute m else some (bits (immN f) 2 0)

/-- Whether an operand of format `fa` may meet the cell's active plane and codebooks (R170, R179). -/
def rowMeets (m : MState) (fa : Fmt) : Bool :=
  (match m.active.fmt with
   | some g => isIntGroup g == isIntGroup fa && (!isCbFmt g || bookTag m.cbB == some g)
   | none => true)
  && (!isCbFmt fa || bookTag m.cbA == some fa)

def rowBody (f : Fields) (chain : Bool) (s : State) (u : Cur) (o : Opnds) : Act :=
  match o.a, rowPort f u.c.mat with
  | some a, some port =>
    (match wantTag 0 a f.ft with
     | some e => .trap e
     | none =>
       if !rowMeets u.c.mat f.ft then .trap (fmtTrap 0 a.fmt)
       else
         .done (later s u (.issueRow ⟨{ a with fmt := f.ft }, if chain then some (bits (immN f) 6 4) else none, port⟩))
           .none noFlags)
  | _, _ => .trap illop

def execMrow (f : Fields) (s : State) := runIns 0x0E2 .any f s (rowBody f false)
def execMrowc (f : Fields) (s : State) := runIns 0x0E3 .any f s (rowBody f true)

/-- A row enters the pipeline and is counted (R182, R187); `book` is the A-side register as the firing found it. -/
def issueRow (m : MState) (book : Book) (guard : Nat) (r : RowReq) : MState :=
  let z := isZeroRow r.a book m.active.fmt
  { m with
    rows := m.rows ++ [{ a := r.a, codebook := book, chainPort := r.chainPort, outPort := r.outPort, taken := [], sent := 0,
                         lastSeq := 0, lastArc := 0, guard := guard }]
    nRows := m.nRows + 1
    nZero := if z then m.nZero + 1 else m.nZero
    nNarrow := if !z && isNarrowRow r.a book m.active.fmt then m.nNarrow + 1 else m.nNarrow }

def modMat (s : State) (cell : Nat) (g : MState → MState) : State := modCell s cell fun c => { c with mat := g c.mat }

/-- Opcodes that only the matrix task holds (R168). -/
def isMatrixOp (op : Nat) : Bool :=
  op == 0x0E0 || op == 0x0E1 || op == 0x0E2 || op == 0x0E3 || op == 0x0E4 || op == 0x0E9 || op == 0x0EB || op == 0x0ED

def matrixTask (s : State) (cell : Nat) : Nat := taskHolding s cell isMatrixOp

/-- ROW_CHAIN_TAKE (R184): rows that share a chain port take from it in the order of their issue. A token of another tag, or of
another kind stays and abandons the row, a teardown token once the port is closed (12 R326); a marker waits for its page's cut
(16 R419). -/
def execRowChainTake (s : State) : Host.Outcome State Fault Refusal :=
  let cell := s.args.i
  let j := s.args.j
  match tget s.cells cell with
  | none => .next s
  | some c =>
    match c.mat.rows[j]? with
    | some { chainPort := some p, taken := tk, a := a, .. } =>
      if !cellRuns s cell || 4 ≤ tk.length
          || (c.mat.rows.take j).any (fun r => r.chainPort == some p && decide (r.taken.length < 4)) then .next s
      else
        (match inArc s cell p with
         | none => .next s
         | some (k, _) =>
           match headCheck s k with
           | (s, .awaiting) => .next s
           | (s, .lost q) => .next (pendTrap s cell cell (matrixTask s cell) (gapTrap p q))
           | (s, .clear) =>
             match (tget s.arcs k).bind headOf with
             | some { item := .data t, .. } =>
               if t.kind == Kind.marker || t.kind == Kind.teardown && !portClosed s cell p then .next s
               else if t.kind == 0 && t.fmt == (if isIntGroup a.fmt then Fmt.int32 else Fmt.fp32) then
                 .next (giveUp (modMat s cell fun m =>
                   { m with rows := m.rows.modify j fun r => { r with taken := r.taken ++ [t] } }) k)
               else
                 .next (pendTrap (modMat s cell fun m => { m with rows := m.rows.eraseIdx j }) cell cell (matrixTask s cell)
                   { fmtTrap 0 t.fmt with seq := a.seq.toNat })
             | _ => .next s)
    | _ => .next s

/-- ROW_OUTPUT_SEND (R183): the next token of a row, behind every earlier row of its port; a row whose port has been
closed is abandoned (12 R326). `args.k` is what a Guard comparison of a guarded row finds (16 R414, R415): 0 match, 1 one mismatch, 2 two (LOG 3, DESIGN CHOICE). -/
def execRowOutputSend (s : State) : Host.Outcome State Fault Refusal :=
  let cell := s.args.i
  let j := s.args.j
  match tget s.cells cell with
  | none => .next s
  | some c =>
    match c.mat.rows[j]?, (c.mat.rows[j]?).bind (fun r => outArc s cell r.outPort) with
    | some r, some (k, a) =>
      if !cellRuns s cell || 4 ≤ r.sent || (c.mat.rows.take j).any (fun x => x.outPort == r.outPort)
          || (r.chainPort.isSome && decide (r.taken.length ≤ r.sent)) || arcRoom s k a == 0 then .next s
      else if a.ports.pClosed then
        .next (pendTrap (modMat s cell fun m => { m with rows := m.rows.eraseIdx j }) cell cell (matrixTask s cell) illop)
      else if r.guard != 0 && s.args.k == 2 then
        .next (frameFaulty s c.page ⟨{ trapOf .guardFail with aux := 1 }, cell, matrixTask s cell, 0xFF⟩)
      else
        let s := if r.guard != 0 && s.args.k == 1 then
            modPage (logEvent s (asidOf s cell) (esrcOf s cell) 0xF008 (BitVec.ofNat 32 (0x80 + j))) c.page
              fun p => { p with transients := p.transients + 1 }
          else s
        let s := modMat s cell fun m =>
          { m with rows := m.rows.modify j fun x => { x with sent := x.sent + 1, lastSeq := a.ports.pSeq, lastArc := k } }
        .next (touchCell (offer s k (.data (rowToken c.mat r r.sent)) none) cell)
    | _, _ => .next s

/-- A row leaves flight when its fourth token has been accepted from its arc (R182). -/
def rowAccepted (s : State) (cell arc : Nat) (q : BitVec 22) : State :=
  modMat s cell fun m => { m with rows := m.rows.filter fun r => !(r.lastArc == arc && r.sent == 4 && r.lastSeq == q) }

/-! ### The route table (R188-R190) -/

/-- Whether an output port is bound to a data arc. -/
def onDataArc (s : State) (cell port : Nat) : Bool := (arcsFrom s cell port).any fun ka => !ka.2.isPred

/-- R189. -/
def bodyRtset (_f : Fields) (s : State) (u : Cur) (o : Opnds) : Act :=
  match o.a with
  | none => .trap illop
  | some a =>
    if a.poison then .control
    else
      match wantIn 0 a fun g => g == Fmt.uint32 || g == Fmt.int32 with
      | some e => .trap e
      | none =>
        let es := (List.range 8).filter (validAt a)
        if es.any (fun e =>
            decide (16 ≤ (laneAt a e).toNat)
              || ((laneAt a e).getLsbD 3 && !onDataArc s u.cell ((laneAt a e).extractLsb' 0 3).toNat)) then .trap illop
        else .done (later s u (.setRoutes (es.map fun e => (e, (laneAt a e).extractLsb' 0 4)))) .none noFlags

def execRtset (f : Fields) (s : State) := runIns 0x0ED .any f s (bodyRtset f)

/-- The entry of a steering token (02 R34). -/
def steerEntry (a : Token) : Nat := ((laneAt a 0).extractLsb' 0 3).toNat

/-- R190. Only a steering token is a control use (16 R409): any other traps, poisoned or not. -/
def bodyRoute (f : Fields) (s : State) (u : Cur) (o : Opnds) : Act :=
  match o.a with
  | none => .trap illop
  | some a =>
    if a.kind != Kind.steering || (f.ft != Fmt.fromOperand && f.ft != Fmt.raw) then .trap (fmtTrap 0 a.fmt)
    else if a.poison then .control
    else if h : steerEntry a < 8 then
      if (u.c.mat.routes[steerEntry a]).getLsbD 3 then .done (later s u (.routeTo (steerEntry a))) .none noFlags
      else .trap illop
    else .trap illop

def execRoute (f : Fields) (s : State) := runIns 0x0E9 .any f s (bodyRoute f)

/-- R187. -/
def bodyMstat (f : Fields) (s : State) (u : Cur) (_o : Opnds) : Act :=
  let m := u.c.mat
  let v : BitVec 32 := match f.mod.toNat with
    | 0 => m.nRows
    | 1 => m.nZero
    | 2 => m.nNarrow
    | _ => BitVec.ofNat 32 m.rows.length
  oneData s { blankToken with lanes := broadcast v, fmt := Fmt.uint32 }

def execMstat (f : Fields) (s : State) := runIns 0x0EA .any f s (bodyMstat f)

/-! ### Accumulator nodes (R191-R198) -/

def tileBase (f : Fields) : Nat := bits (immN f) 3 0
def tileSize (f : Fields) : Nat := bits (immN f) 7 4 + 1

/-- A register of a tile as the firing began; an unset one reads as an FP32 zero (R122). -/
def tileReg (u : Cur) (k : Nat) : Token :=
  match (if h : k < 16 then u.t.sregs[k] else none) with
  | some t => t
  | none => { blankToken with fmt := Fmt.fp32 }

/-- The accumulator state of the task reads poisoned (16 R404): a count that decides what is done, a control use (R409). -/
def accSpoilt (u : Cur) : Bool := u.t.spoilt.contains .acc

/-- The mode word reads poisoned, and what is rounded under it with it (16 R404). -/
def modeSpoilt (u : Cur) : Bool := u.t.spoilt.contains .mode

/-- `PREDCOUNT` of an accumulator instruction. -/
def countTrap : TrapInfo := trapOf .predCount

/-- An outcome with one more deferred effect and other flags. -/
def Act.andLater (u : Cur) (d : Deferred) (fl : FlagSet) : Act → Act
  | .done s r _ => .done (later s u d) r fl
  | x => x

/-- R193. -/
def accumulate (f : Fields) (byTag : Bool) (s : State) (u : Cur) (o : Opnds) : Act :=
  match o.a with
  | none => .trap illop
  | some a =>
    if a.kind == Kind.endOfReduction then .done s .none noFlags
    else
      match wantTag 0 a Fmt.fp32 with
      | some e => .trap e
      | none =>
        if accSpoilt u then .control
        else if u.t.rdy then .trap countTrap
        else
          let j := tileBase f + (if byTag then a.tag.toNat else u.t.acnt.toNat) % tileSize f
          let r := tileReg u j
          let c := modCtx' f u .fp32
          let sums := Vector.ofFn fun i : Fin 16 =>
            if validAt a i.val then fpAdd c (laneAt r i.val).toNat (laneAt a i.val).toNat else ((laneAt r i.val).toNat, 0)
          let t := normal { r with lanes := Vector.ofFn fun i => BitVec.ofNat 32 sums[i].1, poison := r.poison || a.poison || modeSpoilt u }
          (addWrite s u j t .none).andLater u .accumulate (Vector.ofFn fun i => sums[i].2)

def execAcc (f : Fields) (s : State) := runIns 0x0E5 .any f s (accumulate f false)
def execAccn (f : Fields) (s : State) := runIns 0x0E6 .any f s (accumulate f true)

/-- R194. -/
def bodyEor (f : Fields) (s : State) (u : Cur) (o : Opnds) : Act :=
  match o.a with
  | none => .trap illop
  | some a =>
    if a.kind == 0 then .done s .none noFlags
    else if a.kind != Kind.endOfReduction then .trap (fmtTrap 0 a.fmt)
    else if a.poison || accSpoilt u then .control
    else if u.t.rdy || laneAt a 0 != u.t.acnt then .trap countTrap
    else if f.imm.getLsbD 2 then (addExit s u (bits (immN f) 1 0)).andLater u (.readyTile a.poison) noFlags
    else .done (later s u (.readyTile a.poison)) .none noFlags

def execEor (f : Fields) (s : State) := runIns 0x0E7 .any f s (bodyEor f)

/-- A release token of FP32. -/
def releaseFp32 (u : Cur) (b k : Nat) : Token :=
  let r := tileReg u (b + k)
  { r with tag := BitVec.ofNat 8 k, kind := 0, scale := 0x7F, bhead := false, seq := 0, poison := r.poison || u.t.prl }

/-- A release token of BF16 with its flags: registers 2k and 2k + 1 in dense order. -/
def releaseBf16 (c : FpCtx) (u : Cur) (b k : Nat) : Token × FlagSet :=
  let x := tileReg u (b + 2 * k)
  let y := tileReg u (b + 2 * k + 1)
  let el (i : Nat) : Nat × LaneFlags × Bool :=
    let r := if i < 16 then x else y
    let z := store c (flushNum c.ftz .fp32 (decodeNum .fp32 (laneAt r (i % 16)).toNat))
    (z.1, z.2, validAt r (i % 16))
  let ok (i : Nat) : Bool := (el (2 * i)).2.2 && (el (2 * i + 1)).2.2
  (normal { blankToken with
     lanes := Vector.ofFn fun i => BitVec.ofNat 32 ((el (2 * i.val)).1 + 2 ^ 16 * (el (2 * i.val + 1)).1)
     valid := BitVec.ofFnLE fun i => ok i.val
     fmt := Fmt.bf16, tag := BitVec.ofNat 8 k, poison := x.poison || y.poison || u.t.prl || modeSpoilt u },
   Vector.ofFn fun i => if ok i.val then (el (2 * i.val)).2.1 ||| (el (2 * i.val + 1)).2.1 else 0)

/-- The release tokens of a tile and their flags (R195). -/
def releaseTokens (f : Fields) (u : Cur) : List Token × FlagSet :=
  let b := tileBase f
  if f.ft == Fmt.fp32 then ((List.range (tileSize f)).map (releaseFp32 u b), noFlags)
  else
    let l := (List.range (tileSize f / 2)).map (releaseBf16 (modCtx' f u .bf16) u b)
    (l.map (·.1), l.foldl (fun x y => flagsOr x y.2) noFlags)

/-- Registers written together; a register that the firing also writes elsewhere traps (05 R132). -/
def addWrites (s : State) (u : Cur) (ks : List Nat) (t : Token) : Act :=
  if ks.any (fun k => u.fr.writes.any (·.1 == k)) then .trap illop
  else .done (modFiring s u.key fun fr => { fr with writes := fr.writes ++ ks.map fun k => (k, t) }) .none noFlags

/-- R195, R196. LOG 23, DEDUCED. -/
def bodyAccrel (f : Fields) (s : State) (u : Cur) (o : Opnds) : Act :=
  match o.a with
  | none => .trap illop
  | some a =>
    if a.kind != Kind.steering then .trap (fmtTrap 0 a.fmt)
    else if a.poison || accSpoilt u then .control
    else if !u.t.rdy then .trap countTrap
    else
      let rw := constAt u (bits (immN f) 11 8)
      let port := (rw.extractLsb' (3 * steerEntry a) 3).toNat
      let valid := rw.getLsbD (24 + steerEntry a)
      if valid && !onDataArc s u.cell port then .trap illop
      else
        let r := releaseTokens f u
        (addWrites s u ((List.range (tileSize f)).map (tileBase f + ·)) { blankToken with fmt := Fmt.fp32 }).andLater u
          (.releaseTile (tileBase f) (tileSize f) (if valid then some port else none) r.1)
          (if valid then r.2 else noFlags)

def execAccrel (f : Fields) (s : State) := runIns 0x0E8 .any f s (bodyAccrel f)

/-- R198: the register's token with its own poison; a poisoned index adds none (LOG 35, DESIGN CHOICE). -/
def bodyAccrd (f : Fields) (s : State) (u : Cur) (o : Opnds) : Act :=
  match o.a with
  | none => .trap illop
  | some a =>
    match wantWord 0 a with
    | some e => .trap e
    | none =>
      let r := tileReg u (tileBase f + (laneAt a 0).toNat % tileSize f)
      if r.fmt == Fmt.fp32 then .done s (.one (.data r)) noFlags else .trap (fmtTrap 0 r.fmt)

def execAccrd (f : Fields) (s : State) := runIns 0x0EC .any f s (bodyAccrd f)

/-- No task of the cell queued a token for the port before place `n` (R197). -/
def queueFirst (s : State) (cell port n : Nat) : Bool :=
  (tasksOf s cell).all fun kt => kt.2.relq.all fun e => !(e.1 == port && decide (e.2.2.2 < n))

/-- The place in the cell's order of queueing that comes next. -/
def nextQueued (s : State) (cell : Nat) : Nat :=
  ((tasksOf s cell).flatMap fun kt => kt.2.relq).foldl (fun m e => max m (e.2.2.2 + 1)) 0

/-- Tokens queued for a port behind what any task of the cell has queued there. -/
def queueTokens (s : State) (k : Nat × Nat) (port : Nat) (toks : List Token) (level : Option Nat) : State :=
  modTask s k fun t => { t with relq := t.relq ++ toks.map fun x => (port, x, level, nextQueued s k.1) }

/-- Tokens queued for a port by the tasks of a cell. -/
def queuedFor (s : State) (cell p : Nat) : Bool := (tasksOf s cell).any fun kt => kt.2.relq.any (·.1 == p)

/-- The token of a `SEQ` is offered on an arc and not accepted. -/
def stillOffered (s : State) (arc : Nat) (q : BitVec 22) : Bool :=
  (tget s.arcs arc).any fun a => a.queue.any fun x => !x.held && itemSeq x.item == q

/-- RELEASE_QUEUE_SEND (R197): the queue's head, as its arc frees a slot, behind what was queued for the port before. -/
def execReleaseQueueSend (s : State) : Host.Outcome State Fault Refusal :=
  let k := (s.args.i, s.args.j)
  match tget s.tasks k with
  | none => .next s
  | some t =>
    match t.relq with
    | [] => .next s
    | (port, tok, level, q) :: r =>
      match outArc s k.1 port with
      | none => .next s
      | some (n, a) =>
        if !cellRuns s k.1 || arcRoom s n a == 0 || !queueFirst s k.1 port q then .next s
        else if a.ports.pClosed then .next (pendTrap (setTask s k { t with relq := r }) k.1 k.1 k.2 illop)
        else
          let sent := (t.relSent.filter fun x => stillOffered s x.1 x.2) ++ [(n, a.ports.pSeq)]
          .next (touchCell (offer (setTask s k { t with relq := r, relSent := sent }) n (.data tok) level) k.1)

end Sys2Proof.Machine
end

