-- ==== Sys2Proof/Machine/Streams.lean ====
section
/-! DEFINITION. Stream slots of the memory tiles and the instructions that arm, feed and watch them
(07_arith_streams.md R199-R211). -/

namespace Sys2Proof.Machine

/-! ### Slots -/

def slotAt (c : Cell) (j : Nat) : StreamSlot := if h : j < 4 then c.slots[j] else StreamSlot.idle

def modSlot (s : State) (tile j : Nat) (g : StreamSlot → StreamSlot) : State :=
  modCell s tile fun c => if h : j < 4 then { c with slots := c.slots.set j (g c.slots[j]) } else c

/-- A stream's accesses are made for the task that issued its command, by the tile (R201, 10 R287). -/
def streamParty (s : State) (tile : Nat) (m : StreamCmd) : Party := { partyOf s tile 0 with task := (m.cell, m.task) }

def cmdBase (m : StreamCmd) : Base := ⟨m.base, m.bound⟩
def cmdValues (m : StreamCmd) : Base := ⟨m.vbase, m.vbound⟩

/-- The format of a stream: `FT`; under 0x1F the covering entry's, or RAW (04 R104, 10 R459). -/
def streamFmt (s : State) (p : Party) (m : StreamCmd) : Fmt :=
  if m.fmt != Fmt.fromOperand then m.fmt
  else match entryAt s p m.base with | some e => rgFmt e | none => Fmt.raw

/-- Elements of one token (R204). -/
def streamWidth (m : Fmt) : Nat := if isPair m || m == Fmt.keyval then 8 else 16 * perLane m

/-- The lanes that hold one of the first `c` elements of a token. -/
def streamMask (m : Fmt) (c : Nat) : BitVec 16 :=
  BitVec.ofFnLE fun i =>
    if m == Fmt.keyval then decide (i.val % 8 < c)
    else if isPair m then decide (i.val / 2 < c) else decide (i.val * perLane m < c)

/-! ### Reading elements -/

/-- One element word of an engine, a slot or the contraction sequencer checked: its base, its format against its entry's, its
permissions. It is no load, so `PONLY`'s exception does not serve it (15 R382). -/
def wordSpan (s : State) (p : Party) (b : Base) (n : Need) (m : Fmt) (v width : Nat) : Except TrapInfo (List Seg) :=
  let n : Need := { n with ptr := n.ptr && b.bound.isSome }
  match baseFirst p b n 0 v width (entryTrap m (entryAt s p v)), spanOf s p b n v width with
  | some t, _ => .error t
  | none, .error e => .error (accessTrap 0 e)
  | none, .ok g => .ok g

/-- The reads of tensor element `e` for position `pos` of a token; of a key and its value for KEYVAL (R203). -/
def elemRead (s : State) (p : Party) (c : StreamCmd) (m : Fmt) (pos : Nat) (e : Int) : Except TrapInfo (List ElemRead) :=
  if m == Fmt.keyval then
    match wordSpan s p (cmdBase c) Need.read m (elemPlace Fmt.uint32 c.base e).1 4,
        wordSpan s p (cmdValues c) Need.read m (elemPlace Fmt.uint32 c.vbase e).1 4 with
    | .error t, _ => .error t
    | .ok _, .error t => .error t
    | .ok g, .ok h => .ok [⟨pos, 0, g⟩, ⟨pos + 8, 0, h⟩]
  else
    match wordSpan s p (cmdBase c) ⟨true, false, m == Fmt.ptr⟩ m (elemPlace m c.base e).1 (wordBytes m) with
    | .error t => .error t
    | .ok g => .ok [⟨pos, (elemPlace m c.base e).2, g⟩]

/-- Bytes as their homes hold them now, and whether a granule is poisoned. -/
def homeRead (s : State) (segs : List Seg) : List (Byte × Bool) × Bool :=
  (segs.flatMap fun g => homeBytes (memOf s g.space) g, segs.any fun g => poisonAt (memOf s g.space) g.addr)

/-- What an element read gives: what the partial token holds of it, else its home's bytes now (R200). -/
def readNow (s : State) (fill : List Filled) (r : ElemRead) : List (Byte × Bool) × Bool :=
  match fill.find? (·.pos == r.pos) with
  | some x => (x.bytes, x.bad)
  | none => homeRead s r.segs

/-- A pointer element without its tag (10 R276). -/
def untagged (s : State) (m : Fmt) (fill : List Filled) (l : List ElemRead) : Bool :=
  m == Fmt.ptr && l.any fun r => !taggedAt (readNow s fill r).1 0

/-- Several elements (position, tensor element, stream element number): the first that faults stops the list (R206). -/
def elemReads (s : State) (p : Party) (c : StreamCmd) (m : Fmt) (fill : List Filled) :
    List (Nat × Int × Nat) → Except (TrapInfo × Nat) (List ElemRead)
  | [] => .ok []
  | (pos, e, n) :: r =>
    match elemRead s p c m pos e with
    | .error t => .error (t, n)
    | .ok l =>
      if untagged s m fill l then .error (⟨.ptrTag, 0, 0, (elemPlace m c.base e).1, 0⟩, n)
      else (elemReads s p c m fill r).map (l ++ ·)

/-- The lanes of a token formed of element words (R204): sub-elements in dense order. -/
def streamLanes (m : Fmt) (ws : List (Nat × Nat × List (Byte × Bool))) : Vector Lane 16 :=
  let w := if m == Fmt.keyval then 1 else perLane m
  Vector.ofFn fun i =>
    if isPair m then
      match ws.find? (·.1 == i.val / 2) with
      | some (_, _, l) => BitVec.ofNat 32 (numAt l (4 * (i.val % 2)) 4)
      | none => 0
    else BitVec.ofNat 32 (packSubs (denseWidth m) ((List.range w).map fun j =>
      match ws.find? (·.1 == i.val * w + j) with
      | some (_, sub, l) => numAt l 0 4 / 2 ^ (denseWidth m * sub)
      | none => 0))

/-- The token that a list of element reads forms. -/
def readToken (s : State) (m : Fmt) (valid : BitVec 16) (scale : BitVec 8) (poison : Bool) (fill : List Filled)
    (reads : List ElemRead) : Token :=
  let ws := reads.map fun r => (r.pos, r.sub, (readNow s fill r).1)
  normal { blankToken with
    lanes := streamLanes m ws, valid := valid, fmt := m, scale := scale
    bounds := Vector.ofFn fun j =>
      match ws.find? (·.1 == j.val) with
      | some (_, _, l) => BitVec.ofNat 64 (numAt l 8 8)
      | none => 0
    poison := poison || reads.any fun r => (readNow s fill r).2 }

/-- The place of a token's scale byte among the token's reads, which no element has (16 R410). -/
abbrev scalePos : Nat := 4096

/-- The read of the scale byte of a token whose first element lies at `v` (10 R276), where it has one. -/
def scaleReads (s : State) (p : Party) (v : Option Nat) : Except TrapInfo (List ElemRead) :=
  match scaleSegs s p (v.bind (entryAt s p)) v with
  | .error t => .error t
  | .ok segs => .ok (if segs.isEmpty then [] else [⟨scalePos, 0, segs⟩])

/-- The scale byte that such a read gives. -/
def scaleNow (s : State) (fill : List Filled) (l : List ElemRead) : BitVec 8 :=
  match l with
  | r :: _ => byteAt (readNow s fill r).1 0
  | [] => 0x7F

/-! ### Freezes (16 R424) -/

/-- The slot is in the middle of a token that it can complete: some of the token's accesses have been made. -/
def tokenBegun (s : State) (tile : Nat) (c : Cell) (j : Nat) : Bool :=
  let x := slotAt c j
  x.state == .running && (!x.fill.isEmpty || x.wrote != 0)
    && !(inArc s tile (j + 4)).any fun ka => x.wrote != 0 && ka.2.ports.awaiting.isSome

/-- A slot may act: its page runs, or is freezing and the slot is to stop after the token that it is at. -/
def slotRuns (s : State) (tile : Nat) (c : Cell) (j : Nat) : Bool :=
  cellRuns s tile || tokenBegun s tile c j && (pageOf s tile).any fun p => p.freezing && !p.frozen && !p.returned

/-! ### Sending -/

/-- The oldest entry is released when the window's 64 are in use (16 R410). -/
def keepReplay (s : State) (tile : Nat) (r : Replay) : State :=
  modCell s tile fun c => { c with replay := (if 64 ≤ c.replay.length then c.replay.drop 1 else c.replay) ++ [r] }

/-- The elements or index tokens of a slot's command have all been taken. -/
def slotFinished (x : StreamSlot) : Bool :=
  match x.cmd with
  | some m => !m.join && decide (m.len ≤ x.n)
  | none => true

/-- The slot whose indirect stream takes a slot's tokens, while it has index tokens left to take (R205). -/
def indexTaker (c : Cell) (x : Nat) : Option Nat :=
  (List.range 4).find? fun d =>
    (slotAt c d).state == .running && !slotFinished (slotAt c d)
      && (match (slotAt c d).cmd with | some m => m.indirect && m.idxSlot == x | none => false)

/-- Whether a slot's output may take a token now: room on its arc, or an indirect stream with none waiting. -/
def slotRoom (s : State) (tile : Nat) (c : Cell) (j : Nat) : Bool :=
  match outArc s tile j with
  | some (k, a) => arcRoom s k a != 0
  | none => (match indexTaker c j with | some d => (slotAt c d).index.isEmpty | none => false)

/-- A token of a slot sent, a release token at `level` where it is one (09 R259): on its arc, where a data token is kept for replay, or to the indirect stream. -/
def slotSendAt (s : State) (tile j : Nat) (t : Token) (reads : List ElemRead) (level : Option Nat) : State :=
  match outArc s tile j with
  | some (k, a) =>
    let s1 := touchCell (offer s k (.data t) level) tile
    (match (portStamp a (.data t)).1 with
     | .data t' => if t.kind == 0 then keepReplay s1 tile ⟨j, k, t', reads⟩ else s1
     | _ => s1)
  | none =>
    match (tget s.cells tile).bind fun c => indexTaker c j with
    | some d => modSlot (touchCell s tile) tile d fun x => { x with index := x.index ++ [t] }
    | none => s

def slotSend (s : State) (tile j : Nat) (t : Token) (reads : List ElemRead) : State := slotSendAt s tile j t reads none

/-- Every token that a tile's output port has sent has been accepted. -/
def portDrained (s : State) (tile port : Nat) : Bool := (arcsFrom s tile port).all fun ka => ka.2.queue.all (·.held)

/-- A running slot whose work is done becomes idle: a write stream at once, a read stream when its last token and
any end token have been accepted (R200). -/
def settleSlot (s : State) (tile j : Nat) : State :=
  match tget s.cells tile with
  | none => s
  | some c =>
    let x := slotAt c j
    if x.state == .running && slotFinished x && !x.endDue
        && (match x.cmd with | some m => m.write || portDrained s tile j | none => true)
    then modSlot s tile j fun y => { y with state := .idle, index := [] } else s

/-- A slot faults (R206): its issuer has a trap pending that names the tile, the slot (`TSEQ`), the element and the byte. LOG 23, DEDUCED. -/
def slotFault (s : State) (tile j n : Nat) (m : StreamCmd) (t : TrapInfo) : State :=
  let t' := match t.code with
    | .bounds | .perm | .ptrTag | .translate | .align => { t with aux := n % 2 ^ 32, seq := j }
    | _ => { t with seq := j }
  pendTrap (modSlot s tile j fun x => { x with state := .faulted, index := [], fill := [], wrote := 0 }) tile m.cell m.task t'

/-- A slot's trap has been taken: it is idle again. -/
def slotTrapTaken (s : State) (tile : Nat) (t : TrapInfo) : State :=
  let j := if t.code = .seqGap then t.aux % 4 else t.seq
  modSlot s tile j fun x => if x.state == .faulted then { x with state := .idle } else x

/-! ### Commands (R200, R201, R209) -/

/-- The arc's head stands behind a token that was lost or has not come: nothing after the gap is accepted (R199). -/
def behindGap (a : Arc) : Bool := a.ports.gap.any fun q => decide ((headSeq a - q).toNat < 2 ^ 21)

/-- The head of a tile's port when it may be taken: its ECC checked, markers and teardown left to their rules. -/
inductive TakeHead where
  | none (s : State)
  | lost (s : State) (q : BitVec 22)
  | some (s : State) (arc : Nat) (it : Item)

def takeHead (s : State) (cell port : Nat) : TakeHead :=
  match inArc s cell port with
  | Option.none => .none s
  | Option.some (k, a) =>
    if behindGap a then .none s
    else
    match headCheck s k with
    | (s', .awaiting) => .none s'
    | (s', .lost q) => .lost s' q
    | (s', .clear) =>
      match (tget s'.arcs k).bind headOf with
      | Option.some h => if isMarker h.item || isTeardown h.item then .none s' else .some s' k h.item
      | Option.none => .none s'

/-- `SEQGAP` at a tile's command or push port (R199): the slot faults, and the trap falls to the issuer of its
last command, or to the lowest task of the producing cell that names the producing port. -/
def tileGap (s : State) (tile port : Nat) (q : BitVec 22) : State :=
  let j := port % 4
  let s1 := modSlot s tile j fun x => { x with state := .faulted }
  match (tget s.cells tile).bind fun c => (slotAt c j).cmd with
  | some m => pendTrap s1 tile m.cell m.task (gapTrap port q)
  | none =>
    match inArc s tile port with
    | none => s1
    | some (_, a) =>
      let names (t : Task) : Bool :=
        match tget s.cells a.pCell with
        | some c => t.blocks.any fun b => maskBit (hOutmask (headerAt c b)) a.pPort
        | none => false
      let task := ((tasksOf s a.pCell).find? fun kt => names kt.2).elim 0 (·.1)
      pendTrap s1 tile a.pCell task (gapTrap port q)

/-- The partner of an accepted `JOIN` that waits for this slot. A partner whose other slot has faulted goes on running and
pairs with no new `JOIN` (LOG 34, DESIGN CHOICE). -/
def joinPartner (c : Cell) (j : Nat) (m : StreamCmd) : Bool :=
  let y := slotAt c m.part
  y.state == .waiting && (match y.cmd with | some w => w.join && w.part == j | none => false)

def startSlot (x : StreamSlot) (m : StreamCmd) (st : SlotState) : StreamSlot :=
  { x with state := st, cmd := some m, n := 0, done := 0, toks := 0, prevKey := none, endDue := m.eos, index := []
           fill := [], wrote := 0 }

/-- The issuing task's operations on the tile have all arrived (R201). -/
def cmdArrived (s : State) (m : StreamCmd) (page : Nat) : Bool :=
  (unperformed s (m.cell, m.task)).all fun d =>
    match d.access with
    | .write w => w.space != .window page
    | .atomic e => e.space != .window page
    | .order _ => true

/-- Both slots of a joined pair whose sources are empty have no step left. -/
def endJoin (s : State) (tile j p : Nat) : State :=
  match tget s.cells tile with
  | none => s
  | some c =>
    let out (x : StreamSlot) : Bool := match x.cmd with | some m => decide (m.len ≤ x.n) | none => true
    let done (x : StreamSlot) : StreamSlot := { x with cmd := x.cmd.map fun m => { m with join := false } }
    if out (slotAt c j) && out (slotAt c p) then
      settleSlot (settleSlot (modSlot (modSlot s tile j done) tile p done) tile j) tile p
    else s

/-- STREAM_COMMAND_ACCEPT: an idle slot takes the command at the head of its command port. -/
def execStreamCommandAccept (s : State) : Host.Outcome State Fault Refusal :=
  let tile := s.args.i
  let j := s.args.j
  match tget s.cells tile with
  | none => .next s
  | some c =>
    if c.kind != .t || 4 ≤ j || !cellRuns s tile || (slotAt c j).state != .idle then .next s
    else
      match takeHead s tile j with
      | .none s1 => .next s1
      | .lost s1 q => .next (tileGap s1 tile j q)
      | .some s1 k (.command m _) =>
        if !cmdArrived s1 m c.page then .next s1
        else
          let s2 := giveUp s1 k
          let bound := !(arcsFrom s tile j).isEmpty
          let idxBad := m.indirect && !(arcsFrom s tile m.idxSlot).isEmpty
          if (m.write && m.eos && !bound) || (m.join && !bound) || idxBad then
            .next (slotFault (modSlot s2 tile j fun x => startSlot x m .faulted) tile j 0 m illop)
          else if m.join then
            if joinPartner c j m then
              .next (endJoin (modSlot (modSlot s2 tile j fun x => startSlot x m .running) tile m.part
                fun y => { y with state := .running }) tile j m.part)
            else .next (modSlot s2 tile j fun x => startSlot x m .waiting)
          else .next (settleSlot (modSlot s2 tile j fun x => startSlot x m .running) tile j)
      | .some s1 _ _ => .next s1

/-! ### Read streams (R203-R206) -/

/-- The end token of a stream (R204). -/
def endToken (count : Nat) : Token :=
  { blankToken with
    lanes := (Vector.replicate 16 0).set 0 (BitVec.ofNat 32 count), valid := 1, kind := Kind.endOfReduction }

/-- The codebook token due before a data token read at `v` (04 R98). -/
def codebookDue (s : State) (p : Party) (m : Fmt) (v : Nat) (last : Option (Nat × Nat)) :
    Option (Except TrapInfo (Token × (Nat × Nat) × List Seg)) :=
  if !isCbFmt m then none
  else
    match entryAt s p v with
    | none => none
    | some e =>
      if last.map (·.2) = some (rgBook e) then none
      else
        match spanOf s { p with ponly := false } ⟨0, none⟩ Need.read (rgBook e) 32 with
        | .error z => some (.error (accessTrap 0 z))
        | .ok g =>
          let l := (homeRead s g).1
          some (.ok ({ blankToken with
            lanes := Vector.ofFn fun i => if i.val < 8 then BitVec.ofNat 32 (numAt l (4 * i.val) 4) else 0
            valid := 0x00FF, fmt := m, kind := Kind.codebook, poison := (homeRead s g).2 }, (m.toNat, rgBook e), g))

/-- The port of a home that a tile's accesses take (09 R252). -/
def tilePort (tile : Nat) : HomePort := .cell tile

/-- The reads that one access makes: those of the first one's granule (R204). -/
def nextAccess : List ElemRead → List ElemRead
  | [] => []
  | r :: l => (r :: l).filter fun x => x.segs.head?.map (fun g => (g.space, g.addr / 64)) == r.segs.head?.map fun g => (g.space, g.addr / 64)

def allSegs (l : List ElemRead) : List Seg := l.flatMap (·.segs)

/-- Element reads made now and kept in the slot's partial token, at the places that `at_` gives. -/
def keepReads (s : State) (tile j : Nat) (at_ : Nat → Nat) (now : List ElemRead) : State :=
  servePort (modSlot s tile j fun y => { y with fill := y.fill ++ now.map fun r =>
    ⟨at_ r.pos, (homeRead s r.segs).1, (homeRead s r.segs).2⟩ }) (tilePort tile) (allSegs now)

/-- The fault of one token: of its lowest faulting element, its first element's scale read counting with that (R206). -/
def tokenFault (elems : List (Nat × Int × Nat)) (n0 : Nat) (a : Except (TrapInfo × Nat) (List ElemRead))
    (b : Except TrapInfo (List ElemRead)) : Option (TrapInfo × Nat) :=
  let n1 := (elems.head?.map (·.2.2)).getD n0
  match a, b with
  | .error (t, n), .error t' => if n = n1 then some (t, n) else some (t', n1)
  | .error x, .ok _ => some x
  | .ok _, .error t' => some (t', n1)
  | .ok _, .ok _ => none

/-- One data token of a slot: a codebook token first where one is due on its arc; else the elements read and the token sent.
With `args.l` 1 only the next access of the token is made (LOG 33, DESIGN CHOICE). -/
def sendElems (s : State) (tile j : Nat) (c : StreamCmd) (m : Fmt) (elems : List (Nat × Int × Nat)) (valid : BitVec 16)
    (adv : Nat) : State :=
  let p := streamParty s tile c
  let x := match tget s.cells tile with | some cl => slotAt cl j | none => StreamSlot.idle
  let first := elems.head?.map fun e => (elemPlace (if m == Fmt.keyval then Fmt.uint32 else m) c.base e.2.1).1
  let got := elemReads s p c m x.fill elems
  let scale := scaleReads s p first
  match tokenFault elems x.n got scale, got, scale with
  | some (t, n), _, _ => slotFault s tile j n c t
  | none, .ok words, .ok sc =>
    let reads := words ++ sc
    let out := outArc s tile j
    (match out.bind fun ka => first.bind fun v => codebookDue s p m v (tget x.lastCb ka.1) with
     | some (.error t) => slotFault s tile j x.n c t
     | some (.ok (t, cb, segs)) =>
       if accessWaits s (tilePort tile) segs then s
       else
         servePort (modSlot (slotSend s tile j t []) tile j fun y =>
           { y with lastCb := tput y.lastCb (out.elim 0 (·.1)) cb }) (tilePort tile) segs
     | none =>
       let left := reads.filter fun r => !x.fill.any (·.pos == r.pos)
       let now := if s.args.l = 1 then nextAccess left else left
       let last := now.length == left.length
       let segs := allSegs now
       if accessWaits s (tilePort tile) segs then s
       else if !last then
         keepReads s tile j id now
       else
         let t := readToken s m valid (scaleNow s x.fill sc) c.poison x.fill reads
         servePort (modSlot (slotSend s tile j t reads) tile j fun y =>
           { y with n := y.n + adv, done := y.done + elems.length, toks := y.toks + 1, fill := [] }) (tilePort tile) segs)
  | none, _, _ => s

/-- STREAM_READ_TOKEN_SEND: the next token of a read stream, or the end token that is due. -/
def execStreamReadTokenSend (s : State) : Host.Outcome State Fault Refusal :=
  let tile := s.args.i
  let j := s.args.j
  match tget s.cells tile with
  | none => .next s
  | some c =>
    let x := slotAt c j
    match x.cmd with
    | none => .next s
    | some m =>
      if x.state != .running || !slotRuns s tile c j || !slotRoom s tile c j then .next s
      else if slotFinished x then
        if x.endDue then .next (settleSlot (modSlot (slotSendAt s tile j (endToken x.toks) [] (if m.write then some 7 else none)) tile j
          fun y => { y with endDue := false }) tile j)
        else .next (settleSlot s tile j)
      else if m.write || m.join || m.indirect then .next s
      else
        let g := streamFmt s (streamParty s tile m) m
        let k := min (streamWidth g) (m.len - x.n)
        .next (settleSlot (sendElems s tile j m g
          ((List.range k).map fun i => (i, ((x.n + i : Nat) : Int) * m.stride, x.n + i)) (streamMask g k) k) tile j)

/-- INDIRECT_STREAM_GATHER (R205): one index token becomes one gather. A stream of KEYVAL reads index lanes 0 to 7; an end
token on the index stream faults the slot with `FMTMISMATCH`; the element of lane `i` of index token `j` is number
16 * j + i of the stream (LOG 34, DESIGN CHOICE). -/
def execIndirectStreamGather (s : State) : Host.Outcome State Fault Refusal :=
  let tile := s.args.i
  let j := s.args.j
  match tget s.cells tile with
  | none => .next s
  | some c =>
    let x := slotAt c j
    match x.cmd, x.index with
    | some m, t :: r =>
      if x.state != .running || !m.indirect || slotFinished x || !slotRuns s tile c j || !slotRoom s tile c j then .next s
      else
        let g := streamFmt s (streamParty s tile m) m
        if t.kind != 0 || !(t.fmt == Fmt.int32 || t.fmt == Fmt.uint32) then
          .next (slotFault s tile j (16 * x.n) m (fmtTrap 0 t.fmt))
        else
          let two := isPair g || g == Fmt.keyval
          let idx := (List.range (if two then 8 else 16)).filter (validAt t)
          let w := if two then 1 else perLane g
          let valid : BitVec 16 := BitVec.ofFnLE fun i =>
            idx.contains (if isPair g then i.val / 2 else if g == Fmt.keyval then i.val % 8 else i.val)
          let s1 := sendElems s tile j m g (idx.map fun i => (i * w, indexAt t i * m.stride, 16 * x.n + i))
            valid 1
          let took := (match tget s1.cells tile with | some c1 => (slotAt c1 j).n | none => x.n) != x.n
          .next (if took then settleSlot (modSlot s1 tile j fun y => { y with index := r }) tile j else s1)
    | _, _ => .next s

/-! ### Write streams (R207) -/

/-- The elements of a pushed token that are written: (position, stream element number). -/
def pushedElems (m : Fmt) (t : Token) (n len : Nat) : List (Nat × Nat) :=
  ((List.range (streamWidth m)).filter fun k =>
    decide (n + k < len) && validAt t (if isPair m then 2 * k else k / perLane m)).map fun k => (k, n + k)

/-- The places of the pushed elements: all checked before any is written. -/
def pushSpans (s : State) (p : Party) (c : StreamCmd) (m : Fmt) : List (Nat × Nat) →
    Except (TrapInfo × Nat) (List (Nat × Nat × List Seg))
  | [] => .ok []
  | (k, n) :: r =>
    let at_ := elemPlace m c.base ((n : Int) * c.stride)
    match wordSpan s p (cmdBase c) ⟨false, true, m == Fmt.ptr⟩ m at_.1 (wordBytes m) with
    | .error t => .error (t, n)
    | .ok g => (pushSpans s p c m r).map ((k, at_.2, g) :: ·)

/-- The write of one element. -/
def pushPuts (m : Fmt) (t : Token) (x : Nat × Nat × List Seg) : List Put :=
  if isPair m then putBytes x.2.2 (laneData m t x.1)
  else subPatches m x.2.2 x.2.1 (denseSub m (laneAt t (x.1 / perLane m)) (x.1 % perLane m))

def performWrites (s : State) (page : Nat) : List Write → State
  | [] => s
  | w :: r => performWrites (performWrite s page w) page r

/-- Writes of a party that is no cell of a page: no line buffer sees them (09 R233). -/
def applyWrites (s : State) : List Write → State
  | [] => s
  | w :: r => applyWrites (applyAt s w) r

/-- Where writes go, by their first bytes. -/
def writeSegs (l : List Write) : List Seg := l.filterMap fun w => w.patches.head?.map fun p => ⟨0, 1, w.space, p.addr⟩

/-- The token at the head of a push port written: all its accesses, or with `args.l` 1 the next one (LOG 33, DESIGN CHOICE).
A stream write clears the tag bits of the units that it writes (10 R267). -/
def pushToken (s : State) (tile j k : Nat) (x : StreamSlot) (m : StreamCmd) (g : Fmt) (t : Token) (l : List (Nat × Nat × List Seg)) :
    State :=
  let todo := (groupWrites (l.flatMap (pushPuts g t)) [] (t.poison || m.poison) false).drop x.wrote
  let now := if s.args.l = 1 then todo.take 1 else todo
  if accessWaits s (tilePort tile) (writeSegs now) then s
  else
    let s1 := servePort (applyWrites s now) (tilePort tile) (writeSegs now)
    if now.length < todo.length then modSlot s1 tile j fun y => { y with wrote := y.wrote + 1 }
    else
      settleSlot (modSlot (giveUp s1 k) tile j fun y =>
        { y with n := y.n + streamWidth g, done := y.done + l.length, toks := y.toks + 1, wrote := 0 }) tile j

/-- STREAM_PUSH_TAKE: a running write stream takes the head of its push port; a token of which an element faults is consumed
too (LOG 34, DESIGN CHOICE). -/
def execStreamPushTake (s : State) : Host.Outcome State Fault Refusal :=
  let tile := s.args.i
  let j := s.args.j
  match tget s.cells tile with
  | none => .next s
  | some c =>
    let x := slotAt c j
    match x.cmd with
    | none => .next s
    | some m =>
      if x.state != .running || !m.write || slotFinished x || !slotRuns s tile c j then .next s
      else
        match takeHead s tile (j + 4) with
        | .none s1 => .next s1
        | .lost s1 q => .next (tileGap s1 tile (j + 4) q)
        | .some s1 k (.data t) =>
          let s2 := giveUp s1 k
          if t.kind != 0 then .next s2
          else
            let p := streamParty s tile m
            let g := if m.fmt != Fmt.fromOperand then m.fmt
              else match entryAt s p m.base with | some e => rgFmt e | none => t.fmt
            if t.fmt != g then .next (slotFault s2 tile j x.n m (fmtTrap 0 t.fmt))
            else
              (match pushSpans s p m g (pushedElems g t x.n m.len) with
               | .error (e, n) => .next (slotFault s2 tile j n m e)
               | .ok l => .next (pushToken s1 tile j k x m g t l))
        | .some s1 _ _ => .next s1

/-! ### Co-iteration (R209) -/

/-- A source of a co-iteration as one step goes through it; the step has looked at its keys below `seen`. -/
structure JoinSource where
  n : Nat
  prev : Option Nat
  skipped : Nat
  seen : Nat
  deriving DecidableEq, Repr

/-- A co-iteration's source as its slot gives it: who reads, the command, and what the partial step has read. -/
structure JoinSide where
  party : Party
  cmd : StreamCmd
  fill : List Filled

/-- Why a step cannot go on: a fault of an element, or a key that must be read first. -/
inductive JoinStop where
  | fault (t : TrapInfo) (n : Nat)
  | need (n : Nat)

/-- The read of key `n` of a source. What a partial step holds of key `n` stands at place 2n, of its value at 2n + 1. -/
def keyRead (s : State) (d : JoinSide) (n : Nat) : Except TrapInfo ElemRead :=
  match wordSpan s d.party (cmdBase d.cmd) Need.read Fmt.keyval (elemPlace Fmt.uint32 d.cmd.base ((n : Int) * d.cmd.stride)).1 4 with
  | .error t => .error t
  | .ok g => .ok ⟨2 * n, 0, g⟩

/-- The next key of a source that is greater than its previous one, which is the last that was taken (LOG 34, DESIGN CHOICE):
(its element, the key), keys not greater being skipped and counted. Where a step is made access by access, a key not yet read
stops it. -/
def nextKey (s : State) (pieces : Bool) (d : JoinSide) : Nat → JoinSource → Except JoinStop (JoinSource × Option Nat)
  | 0, x => .ok (x, none)
  | fuel + 1, x =>
    if d.cmd.len ≤ x.n then .ok (x, none)
    else
      match keyRead s d x.n with
      | .error t => .error (.fault t x.n)
      | .ok r =>
        if pieces && !d.fill.any (·.pos == r.pos) then .error (.need x.n)
        else
          let k := numAt (readNow s d.fill r).1 0 4
          let y := { x with seen := max x.seen (x.n + 1) }
          match x.prev with
          | some q => if k ≤ q then nextKey s pieces d fuel { y with n := x.n + 1, skipped := x.skipped + 1 } else .ok (y, some k)
          | none => .ok (y, some k)

/-- What a step takes of one source: the place in the step and the source's element. -/
abbrev Taken := List (Nat × Nat)

/-- The fault of the value of a source's element `n`. -/
def valueTrap (s : State) (d : JoinSide) (n : Nat) : Option TrapInfo :=
  match wordSpan s d.party (cmdValues d.cmd) Need.read Fmt.keyval (elemPlace Fmt.uint32 d.cmd.vbase ((n : Int) * d.cmd.stride)).1 4 with
  | .error t => some t
  | .ok _ => none

/-- One step's keys: up to eight distinct ones, the smallest first, each with its value's place checked as it is taken. What
stops the step tells whether it is the second source. -/
def joinStep (s : State) (pieces : Bool) (da db : JoinSide) :
    Nat → Nat → JoinSource → JoinSource → Taken → Taken → Except (Bool × JoinStop) (JoinSource × JoinSource × Taken × Taken)
  | 0, _, x, y, ta, tb => .ok (x, y, ta, tb)
  | fuel + 1, k, x, y, ta, tb =>
    match nextKey s pieces da (da.cmd.len + 1) x, nextKey s pieces db (db.cmd.len + 1) y with
    | .error z, _ => .error (false, z)
    | .ok _, .error z => .error (true, z)
    | .ok (x', a), .ok (y', b) =>
      let takeA : JoinSource := { x' with n := x'.n + 1, prev := a }
      let takeB : JoinSource := { y' with n := y'.n + 1, prev := b }
      let fromA := a.any fun u => b.all fun v => decide (u ≤ v)
      let fromB := b.any fun v => a.all fun u => decide (v ≤ u)
      if !fromA && !fromB then .ok (x', y', ta, tb)
      else
        match (if fromA then valueTrap s da x'.n else none), (if fromB then valueTrap s db y'.n else none) with
        | some t, _ => .error (false, .fault t x'.n)
        | none, some t => .error (true, .fault t y'.n)
        | none, none =>
          joinStep s pieces da db fuel (k + 1) (if fromA then takeA else x') (if fromB then takeB else y')
            (if fromA then ta ++ [(k, x'.n)] else ta) (if fromB then tb ++ [(k, y'.n)] else tb)

/-- One slot's token of a step. -/
def joinReads (s : State) (d : JoinSide) (tk : Taken) : Except (TrapInfo × Nat) (List ElemRead) :=
  elemReads s d.party d.cmd Fmt.keyval [] (tk.map fun e => (e.1, (e.2 : Int) * d.cmd.stride, e.2))

/-- The place that the partial step gives a read of the token: the key or the value of the element taken there. -/
def fillPlace (tk : Taken) (pos : Nat) : Nat :=
  match tk.find? (·.1 == pos % 8) with
  | some e => 2 * e.2 + pos / 8
  | none => pos

/-- What the partial step holds of the token's reads, by their places in the token. -/
def laneFill (tk : Taken) (fill : List Filled) (reads : List ElemRead) : List Filled :=
  reads.filterMap fun r => (fill.find? (·.pos == fillPlace tk r.pos)).map fun x => { x with pos := r.pos }

def joinSend (s : State) (tile j : Nat) (d : JoinSide) (x : JoinSource) (tk : Taken) (reads : List ElemRead) : State :=
  let valid : BitVec 16 := BitVec.ofFnLE fun i => tk.any (·.1 == i.val % 8)
  modSlot (slotSend s tile j (readToken s Fmt.keyval valid 0x7F d.cmd.poison (laneFill tk d.fill reads) reads) reads) tile j fun y =>
      { y with n := x.n, prevKey := x.prev, sortErr := y.sortErr + BitVec.ofNat 32 x.skipped, done := y.done + tk.length
               toks := y.toks + 1, fill := [] }

/-- The keys of a source from element `n` on whose places pass, sixteen at most. -/
def keyReads (s : State) (d : JoinSide) : Nat → Nat → List ElemRead
  | 0, _ => []
  | fuel + 1, n =>
    if d.cmd.len ≤ n then []
    else match keyRead s d n with
      | .error _ => []
      | .ok r => r :: keyReads s d fuel (n + 1)

/-- Key `n` of a source is read, with those after it that its granule holds (R204), unless its home is not open to it. -/
def readKeys (s : State) (tile j : Nat) (d : JoinSide) (n : Nat) : State :=
  let now := nextAccess ((keyReads s d 16 n).filter fun r => !d.fill.any (·.pos == r.pos))
  if accessWaits s (tilePort tile) (allSegs now) then s else keepReads s tile j id now

/-- The keys of a source that a step looked at and that no partial step holds, as reads. -/
def seenReads (s : State) (d : JoinSide) (n0 : Nat) (x : JoinSource) : List ElemRead :=
  ((List.range (x.seen - n0)).filterMap fun i => (keyRead s d (n0 + i)).toOption).filter fun r => !d.fill.any (·.pos == r.pos)

/-- COITERATION_STEP: one step of the pair that slot `args.j` belongs to; with `args.l` 1 only the next access of the step is made
(LOG 33, DESIGN CHOICE). -/
def execCoiterationStep (s : State) : Host.Outcome State Fault Refusal :=
  let tile := s.args.i
  let j := s.args.j
  match tget s.cells tile with
  | none => .next s
  | some c =>
    match (slotAt c j).cmd with
    | none => .next s
    | some m =>
      let x := slotAt c j
      let y := slotAt c m.part
      match y.cmd with
      | none => .next s
      | some w =>
        if !(m.join && w.join && w.part == j && m.part != j && x.state == .running && y.state == .running)
            || !(slotRuns s tile c j || slotRuns s tile c m.part) || !slotRoom s tile c j || !slotRoom s tile c m.part
            || (decide (m.len ≤ x.n) && decide (w.len ≤ y.n)) then .next s
        else
          let da : JoinSide := ⟨streamParty s tile m, m, x.fill⟩
          let db : JoinSide := ⟨streamParty s tile w, w, y.fill⟩
          let pieces := s.args.l == 1
          match joinStep s pieces da db 8 0 ⟨x.n, x.prevKey, 0, x.n⟩ ⟨y.n, y.prevKey, 0, y.n⟩ [] [] with
          | .error (false, .fault t n) => .next (slotFault s tile j n m t)
          | .error (true, .fault t n) => .next (slotFault s tile m.part n w t)
          | .error (false, .need n) => .next (readKeys s tile j da n)
          | .error (true, .need n) => .next (readKeys s tile m.part db n)
          | .ok (x', y', ta, tb) =>
            match joinReads s da ta, joinReads s db tb with
            | .error (t, n), _ => .next (slotFault s tile j n m t)
            | .ok _, .error (t, n) => .next (slotFault s tile m.part n w t)
            | .ok ra, .ok rb =>
              let fa := laneFill ta x.fill ra
              let fb := laneFill tb y.fill rb
              let la := ra.filter fun r => !fa.any (·.pos == r.pos)
              let lb := rb.filter fun r => !fb.any (·.pos == r.pos)
              let na := nextAccess la
              let nb := nextAccess lb
              if pieces && decide (na.length < la.length ∨ (na ≠ [] ∧ lb ≠ [])) then
                .next (if accessWaits s (tilePort tile) (allSegs na) then s else keepReads s tile j (fillPlace ta) na)
              else if pieces && decide (nb.length < lb.length) then
                .next (if accessWaits s (tilePort tile) (allSegs nb) then s else keepReads s tile m.part (fillPlace tb) nb)
              else
                let segs := allSegs (seenReads s da x.n x' ++ la ++ seenReads s db y.n y' ++ lb)
                if accessWaits s (tilePort tile) segs then .next s
                else
                  .next (servePort (endJoin (joinSend (joinSend s tile j da x' ta ra) tile m.part db y' tb rb) tile j m.part)
                    (tilePort tile) segs)

/-! ### The instructions (R202, R207, R210, R211) -/

/-- The tile, and its port, at the end of an output port's arc. -/
def tileAt (s : State) (cell port : Nat) : Option (Cell × Nat) :=
  match arcsFrom s cell port with
  | (_, a) :: _ =>
    (match tget s.cells a.cCell with
     | some c => if c.kind = .t then some (c, a.cPort) else none
     | none => none)
  | [] => none

/-- The base of a stream, with the value base for `FT` KEYVAL; under `FT` 0x1F there is none, and the values of a stream over an
entry of KEYVAL lie from address 0 on, under no bounds (LOG 34, DESIGN CHOICE). -/
def streamBases (ft : Fmt) (a : Token) : Option (Base × Base) :=
  match baseOf a with
  | none => none
  | some b =>
    if ft == Fmt.keyval then
      if validAt a 2 && validAt a 3 then
        some (b, ⟨pairAt a 1 % 2 ^ 57, if a.fmt == Fmt.ptr then some (boundAt a 1) else none⟩)
      else none
    else some (b, ⟨0, none⟩)

/-- The command of `SSET` and `SIDX`, checked (R202). -/
def streamCommand (f : Fields) (indirect : Bool) (s : State) (u : Cur) (a b : Token) (own : Nat) : Except TrapInfo StreamCmd :=
  match streamBases f.ft a, wantIn 1 b (fun g => g == Fmt.int32 || g == Fmt.uint32) with
  | none, _ => .error (fmtTrap 0 a.fmt)
  | some _, some e => .error e
  | some (x, y), none =>
    if !(validAt b 0 && validAt b 1 && validAt b 2) || (indirect && !validAt b 3) then .error (fmtTrap 1 b.fmt)
    else
      let w := laneAt b 2
      let dir := w.getLsbD 0
      let join := w.getLsbD 4
      let part := (w.extractLsb' 5 2).toNat
      let idx := ((laneAt b 3).extractLsb' 0 2).toNat
      if decide (128 ≤ w.toNat) || w.extractLsb' 1 2 != 0#2
          || (join && (dir || f.ft != Fmt.keyval || part == own || indirect)) || (dir && indirect)
          || (f.ft == Fmt.keyval && dir) then .error illop
      else
        let p := partyOf s u.cell u.task
        let m := if f.ft != Fmt.fromOperand then f.ft else match entryAt s p x.addr with | some e => rgFmt e | none => Fmt.raw
        if x.addr % wordBytes m != 0 then .error (alignTrap 0 x.addr)
        else if y.addr % 4 != 0 then .error (alignTrap 1 y.addr)
        else if indirect && idx == own then .error illop
        else
          .ok { indirect := indirect, fmt := f.ft, base := x.addr, bound := x.bound, vbase := y.addr, vbound := y.bound
                stride := (laneAt b 0).toInt, len := (laneAt b 1).toNat, write := dir, eos := w.getLsbD 3
                join := join, part := part, idxSlot := idx, cell := u.cell, task := u.task, poison := false }

def armStream (f : Fields) (indirect : Bool) (s : State) (u : Cur) (o : Opnds) : Act :=
  match o.a, o.b, tileAt s u.cell (immN f) with
  | some a, some b, some (_, port) =>
    if a.poison || b.poison then .control
    else
      (match streamCommand f indirect s u a b (port % 4) with
       | .error e => .trap e
       | .ok m => addSend s u (immN f) (.command m))
  | _, _, _ => .trap illop

def execSset (f : Fields) (s : State) := runIns 0x140 .any f s (armStream f false)
def execSidx (f : Fields) (s : State) := runIns 0x141 .any f s (armStream f true)

/-- The head that an instruction takes, its ECC checked as it is taken (16 R411, R412), its copy kept at the front of the port's
turn until the retirement gives it up. -/
def popHead (s : State) (cell p : Nat) : State × HeadFound :=
  match inArc s cell p with
  | none => (s, .clear)
  | some (k, _) => headCheck (pinPort s cell p) k

/-- R210: the head of a port outside `INMASK`; the port gives it up at retirement. -/
def bodySpop (f : Fields) (s : State) (u : Cur) (_o : Opnds) : Act :=
  if u.fr.popped.contains (immN f) then .trap illop
  else
    match popHead s u.cell (immN f) with
    | (s, .awaiting) => .pause s
    | (s, .lost q) => .trapWith s (gapTrap (immN f) q)
    | (s, .clear) =>
      match portHead s u.cell (immN f) with
      | some { item := .data t, .. } =>
        (match readTag 0 f t with
         | some e => .trapWith s e
         | none =>
           .done (modFiring s u.key fun fr => { fr with popped := fr.popped ++ [immN f] }) (.one (.data t)) noFlags)
      | _ => .wait

def execSpop (f : Fields) (s : State) := runIns 0x142 .any f s (bodySpop f)

/-- R207: sent at retirement, as `WRP` sends. -/
def bodySpush (f : Fields) (s : State) (u : Cur) (o : Opnds) : Act :=
  match o.a with
  | none => .trap illop
  | some a =>
    match wantA f a knownFmt with
    | some e => .trap e
    | none => if (arcsFrom s u.cell (immN f)).isEmpty then .trap illop else addSend s u (immN f) (.token (.data a))

def execSpush (f : Fields) (s : State) := runIns 0x143 .any f s (bodySpush f)

def slotStateCode : SlotState → Nat
  | .idle => 0
  | .running => 1
  | .waiting => 2
  | .faulted => 3

/-- R211. -/
def bodySstat (f : Fields) (s : State) (u : Cur) (_o : Opnds) : Act :=
  match tileAt s u.cell (immN f) with
  | none => .trap illop
  | some (c, port) =>
    let x := slotAt c (port % 4)
    let v : BitVec 32 := match f.mod.toNat with
      | 0 => BitVec.ofNat 32 (slotStateCode x.state)
      | 1 => BitVec.ofNat 32 x.done
      | 2 => BitVec.ofNat 32 x.toks
      | _ => x.sortErr
    oneData s { blankToken with lanes := broadcast v, fmt := Fmt.uint32 }

def execSstat (f : Fields) (s : State) := runIns 0x14D .any f s (bodySstat f)

end Sys2Proof.Machine
end

