-- ==== Sys2Proof/Machine/Sparse.lean ====
section
/-! DEFINITION. The key-value, bitmap and hash instructions (07_arith_streams.md R212-R216). -/

namespace Sys2Proof.Machine

/-! ### Key-value tokens (R212) -/

/-- One pair of a key-value combination: key and value where the pair is valid, and the pair's flags. -/
abbrev PairRule := (a b : Option (Lane × Lane)) → Option (Lane × Lane) × LaneFlags

def kvAt (t : Token) (j : Nat) : Option (Lane × Lane) :=
  if validAt t j && validAt t (8 + j) then some (laneAt t j, laneAt t (8 + j)) else none

/-- A KEYVAL token from its pairs. -/
def kvToken (a : Token) (poison : Bool) (pairs : Nat → Option (Lane × Lane)) : Token :=
  result a Fmt.keyval
    (Vector.ofFn fun i => match pairs (i.val % 8) with | some (k, v) => if i.val < 8 then k else v | none => 0)
    (BitVec.ofFnLE fun i => (pairs (i.val % 8)).isSome) poison

def combine (s : State) (o : Opnds) (rule : PairRule) : Act :=
  match o.a, o.b with
  | some a, some b =>
    (match firstTrap [wantTag 0 a Fmt.keyval, wantTag 1 b Fmt.keyval] with
     | some e => .trap e
     | none =>
       let r (j : Nat) : Option (Lane × Lane) × LaneFlags :=
         match kvAt a j, kvAt b j with
         | some x, some y => if x.1 != y.1 then (none, LaneFlags.inv) else rule (some x) (some y)
         | x, y => rule x y
       .done s (.one (.data (kvToken a (a.poison || b.poison) fun j => (r j).1))) (Vector.ofFn fun i => (r (i.val % 8)).2))
  | _, _ => .trap illop

def execSint (f : Fields) (s : State) := runIns 0x144 .any f s fun s _ o =>
  combine s o fun a b => (if b.isSome then a else none, 0)

def execSuni (f : Fields) (s : State) := runIns 0x145 .any f s fun s _ o =>
  combine s o fun a b => (if a.isSome then a else b, 0)

def execSsub (f : Fields) (s : State) := runIns 0x146 .any f s fun s _ o =>
  combine s o fun a b => (if b.isSome then none else a, 0)

def execSmadd (f : Fields) (s : State) := runIns 0x147 .any f s fun s u o =>
  combine s o fun a b =>
    match a, b with
    | some x, some y =>
      let r := fpAdd (modCtx' f u .fp32) x.2.toNat y.2.toNat
      (some (x.1, BitVec.ofNat 32 r.1), r.2)
    | some x, none => (some x, 0)
    | none, y => (y, 0)

/-! ### Bitmaps (R213, R214) -/

def bodyBmand (_f : Fields) (s : State) (_u : Cur) (o : Opnds) : Act :=
  match o.a, o.b with
  | some a, some b =>
    (match firstTrap [wantTag 0 a Fmt.bitmap, wantTag 1 b Fmt.bitmap] with
     | some e => .trap e
     | none =>
       let r (i : Nat) : Lane := if validAt a i && validAt b i then laneAt a i &&& laneAt b i else 0
       .done s (.one (.data (result a Fmt.bitmap (Vector.ofFn fun i => r i.val) (BitVec.ofFnLE fun i => r i.val != 0)
         (a.poison || b.poison)))) noFlags)
  | _, _ => .trap illop

def execBmand (f : Fields) (s : State) := runIns 0x148 .any f s (bodyBmand f)

/-- Bit `k` of a BITMAP token; 0 in an invalid lane. -/
def bitmapBit (t : Token) (k : Nat) : Bool := validAt t (k / 32) && (laneAt t (k / 32)).getLsbD (k % 32)

def bodyBmpfx (f : Fields) (s : State) (_u : Cur) (o : Opnds) : Act :=
  match o.a, o.b, o.c with
  | some a, some b, some c =>
    (match firstTrap [wantTag 0 a Fmt.bitmap, wantTag 1 b Fmt.bitmap,
        if c.kind == 0 && (c.fmt == Fmt.int32 || c.fmt == Fmt.ptr) && validAt c 0 then none else some (fmtTrap 3 c.fmt)] with
     | some e => .trap e
     | none =>
       let k (i : Nat) : Nat := 16 * (immN f % 32) + i
       let on (i : Nat) : Bool := bitmapBit b (k i) && bitmapBit a (k i)
       let below (i : Nat) : Nat := ((List.range (k i)).filter (bitmapBit a)).length
       .done s (.one (.data (result a Fmt.int32
         (Vector.ofFn fun i => if on i.val then laneAt c 0 + BitVec.ofNat 32 (below i.val) else 0)
         (BitVec.ofFnLE fun i => on i.val) (a.poison || b.poison || c.poison)))) noFlags)
  | _, _, _ => .trap illop

def execBmpfx (f : Fields) (s : State) := runIns 0x149 .any f s (bodyBmpfx f)

/-! ### Hash tables (R215, R216) -/

/-- The home bucket of a key in a table of 2^m buckets. -/
def homeBucket (k m : Nat) : Nat := if m = 0 then 0 else k * 0x9E3779B1 % 2 ^ 32 / 2 ^ (32 - m)

/-- The key slots that a probe examines, in order, as offsets from the table's base. -/
def probeSlots (k m : Nat) : List Nat :=
  (List.range (min 8 (2 ^ m))).flatMap fun t =>
    (List.range 8).map fun j => 64 * ((homeBucket k m + t) % 2 ^ m) + 4 * j

inductive Probed where
  | found (slot : Nat)
  | empty (slot : Nat)
  | neither
  deriving DecidableEq, Repr

/-- Where a probe ends, and whether it examined a poisoned granule. -/
def probeAt (m : Mem) (base k : Nat) : List Nat → Bool → Probed × Bool
  | [], bad => (.neither, bad)
  | o :: r, bad =>
    let bad := bad || poisonAt m (base + o)
    let x := readNat m (base + o) 4
    if x = k then (.found o, bad) else if x = 0xFFFFFFFF then (.empty o, bad) else probeAt m base k r bad

structure HashOut where
  pairs : List (Nat × Lane × Lane)
  inv : List Nat
  bad : Bool
  deriving DecidableEq, Repr

/-- The pairs of a token in order: `insert` tells `HINS` from `HPROBE`. -/
def hashLanes (page base m : Nat) (insert : Bool) (a : Token) : List Nat → State → HashOut → State × HashOut
  | [], s, r => (s, r)
  | j :: js, s, r =>
    match kvAt a j with
    | none => hashLanes page base m insert a js s r
    | some (k, v) =>
      if k = 0xFFFFFFFF then hashLanes page base m insert a js s { r with inv := j :: r.inv }
      else
        let mem := memOf s (.window page)
        let x := probeAt mem base k.toNat (probeSlots k.toNat m) false
        let r := { r with bad := r.bad || x.2 }
        match x.1 with
        | .found o =>
          hashLanes page base m insert a js s
            { r with pairs := (j, k, BitVec.ofNat 32 (readNat mem (base + o + 32) 4)) :: r.pairs }
        | .empty o =>
          if insert then
            hashLanes page base m insert a js
              (performWrite s page
                { space := .window page
                  patches := patchesOf (base + o) (natLe 4 k.toNat) ++ patchesOf (base + o + 32) (natLe 4 v.toNat)
                  tagUnits := [], poisoned := a.poison, drops := false }) r
          else hashLanes page base m insert a js s r
        | .neither =>
          if insert then
            hashLanes page base m insert a js s { r with pairs := (j, 0xFFFFFFFF, v) :: r.pairs, inv := j :: r.inv }
          else hashLanes page base m insert a js s r

def hashOp (insert : Bool) (f : Fields) (s : State) (u : Cur) (o : Opnds) : Act :=
  match o.a, o.b with
  | some a, some b =>
    if b.poison then .control
    else
      (match wantTag 0 a Fmt.keyval, baseOf b with
       | some e, _ => .trap e
       | none, none => .trap (fmtTrap 1 b.fmt)
       | none, some x =>
         let m := immN f % 16
         let size := 64 * 2 ^ m
         if x.addr % size != 0 then .trap (alignTrap 0 x.addr)
         else if !inWindow x.addr || (x.addr - windowBase) / 0x40000 != (x.addr - windowBase + size - 1) / 0x40000 then
           .trap (accessTrap 0 (.bounds, x.addr))
         else
           match spanOf s (partyOf s u.cell u.task) x (if insert then Need.both else Need.read) x.addr size with
           | .error e => .trap (accessTrap 0 e)
           | .ok segs =>
             if !mayPerform s u [segs] then .wait
             else
               let r := hashLanes u.c.page (x.addr - windowBase) m insert a (List.range 8) s ⟨[], [], false⟩
               .done (touchPage (servePort r.1 (.cell u.cell) segs) u.c.page) (.one (.data (kvToken a (a.poison || b.poison || r.2.bad) fun j =>
                   (r.2.pairs.find? (·.1 == j)).map (·.2))))
                 (Vector.ofFn fun i => if r.2.inv.contains (i.val % 8) then LaneFlags.inv else 0))
  | _, _ => .trap illop

def execHprobe (f : Fields) (s : State) := runIns 0x14A .any f s (hashOp false f)
def execHins (f : Fields) (s : State) := runIns 0x14B .any f s (hashOp true f)

end Sys2Proof.Machine
end

