-- ==== Sys2Proof/Machine/Contract.lean ====
section
/-! DEFINITION. Tensor contractions (07_arith_streams.md R217-R219). -/

namespace Sys2Proof.Machine

/-- An operand of a contraction: base, format, and the (index, stride) of each dimension. -/
structure TensorOp where
  base : Base
  fmt : Fmt
  dims : List (Nat × Int)
  tagged : Bool
  deriving DecidableEq, Repr

structure Contraction where
  accum : Bool
  sat : Bool
  rm : Nat
  ext : List Nat
  x : TensorOp
  y : TensorOp
  out : TensorOp
  deriving DecidableEq, Repr

def signed32 (n : Nat) : Int := signedOf 32 n

/-- Operand descriptor `q` of a parameter block, none where a reserved bit or entry is set. -/
def tensorAt (l : List (Byte × Bool)) (ni q : Nat) : Option TensorOp :=
  let o := 0x20 + 64 * q
  let ofmt := numAt l (o + 16) 4
  let d := bits ofmt 10 8
  let idx := numAt l (o + 20) 4
  let str (k : Nat) := numAt l (o + 24 + 4 * k) 4
  let dims := (List.range d).map fun k => (bits idx (4 * k + 3) (4 * k), signed32 (str k))
  if ofmt % 2 ^ 5 + 2 ^ 8 * d != ofmt || decide (6 < d) || idx / 2 ^ (4 * d) != 0
      || (List.range 6).any (fun k => decide (d ≤ k) && str k != 0) || numAt l (o + 48) 16 != 0
      || dims.any (fun x => decide (ni ≤ x.1)) then none
  else
    some { base := ⟨numAt l o 8 % 2 ^ 57, some (BitVec.ofNat 64 (numAt l (o + 8) 8))⟩
           fmt := BitVec.ofNat 5 ofmt, dims := dims, tagged := taggedAt l o }

/-- The parameter block, none where a check of its first row fails (R219). -/
def contractionAt (l : List (Byte × Bool)) : Option Contraction :=
  let hdr := numAt l 0 4
  let ctl := numAt l 4 4
  let ni := bits hdr 23 20
  let ext (k : Nat) := numAt l (8 + 4 * k) 4
  if bits hdr 31 24 != 1 || bits hdr 19 0 != 0 || ni == 0 || decide (6 < ni) || decide (16 ≤ ctl)
      || (List.range 6).any (fun k =>
          if k < ni then ext k == 0 || decide (2 ^ 24 < ext k) else ext k != 0) then none
  else
    match tensorAt l ni 0, tensorAt l ni 1, tensorAt l ni 2 with
    | some a, some b, some c =>
      let named (k : Nat) := a.dims.any (·.1 == k) || b.dims.any (·.1 == k) || c.dims.any (·.1 == k)
      if (List.range ni).all named && (c.dims.map (·.1)).eraseDups.length == c.dims.length then
        some { accum := ctl.testBit 3, sat := ctl.testBit 2, rm := ctl % 4, ext := (List.range ni).map ext
               x := a, y := b, out := c }
      else none
    | _, _, _ => none

def extent (c : Contraction) (k : Nat) : Nat := (c.ext[k]?).getD 1

/-- The sum of an operand's strides for an index. -/
def strideOf (t : TensorOp) (k : Nat) : Int := ((t.dims.filter (·.1 == k)).map (·.2)).sum

/-- The least and greatest element numbers of an operand. -/
def elemRange (c : Contraction) (t : TensorOp) : Int × Int :=
  let ends := (List.range c.ext.length).map fun k => ((extent c k : Int) - 1) * strideOf t k
  ((ends.map fun e => min e 0).sum, (ends.map fun e => max e 0).sum)

/-- The span of addresses of an operand, before wrapping. -/
def addrRange (c : Contraction) (t : TensorOp) : Int × Int :=
  let r := elemRange c t
  let w : Int := perLane t.fmt
  (t.base.addr + 4 * (r.1 / w), t.base.addr + 4 * (r.2 / w) + 4)

def rangesMeet (a b : Int × Int) : Bool := decide (a.1 < b.2) && decide (b.1 < a.2)

/-- The further checks of R219, in its order. -/
def contractionTrap (c : Contraction) : Option TrapInfo :=
  if decide (2 ^ 40 < c.ext.foldl (· * ·) 1) then some illop
  else if rangesMeet (addrRange c c.out) (addrRange c c.x) || rangesMeet (addrRange c c.out) (addrRange c c.y) then some illop
  else if !isMatrixFmt c.x.fmt then some (fmtTrap 0 c.x.fmt)
  else if !isMatrixFmt c.y.fmt || isIntGroup c.x.fmt != isIntGroup c.y.fmt then some (fmtTrap 0 c.y.fmt)
  else if !(if isIntGroup c.x.fmt then c.out.fmt == Fmt.int32
            else c.out.fmt == Fmt.fp32 || c.out.fmt == Fmt.bf16 || c.out.fmt == Fmt.fp16) then some (fmtTrap 0 c.out.fmt)
  else
    match [c.x, c.y, c.out].findIdx? (fun t => !t.tagged) with
    | some k => some ⟨.ptrTag, 0, k, 0, 0⟩
    | none => none

/-- The values of a list of indices at a number in mixed radix, the last index fastest. -/
def digitsOf (c : Contraction) : List Nat → Nat → List (Nat × Nat)
  | [], _ => []
  | k :: r, n => (k, n / (r.foldl (fun p i => p * extent c i) 1) % extent c k) :: digitsOf c r n

def elemNumber (t : TensorOp) (v : List (Nat × Nat)) : Int :=
  (t.dims.map fun d => d.2 * (((v.find? fun x => x.1 == d.1).elim 0 (·.2) : Nat) : Int)).sum

/-- What an access read: its bytes, and whether a granule was poisoned. -/
abbrev Reading := List (Byte × Bool) × Bool

/-- The accesses for one input element: its word, its scale byte and its codebook, each empty where the format has none. -/
def tensorPlan (s : State) (p : Party) (t : TensorOp) (e : Int) : Except TrapInfo (List (List Seg)) :=
  let at_ := elemPlace t.fmt t.base.addr e
  if at_.1 % 4 != 0 then .error (alignTrap 0 at_.1)
  else
    match wordSpan s p t.base Need.read t.fmt at_.1 4, scaleReads s p (some at_.1) with
    | .error z, _ => .error z
    | .ok _, .error z => .error z
    | .ok g, .ok sc =>
      if isCbFmt t.fmt then
        match entryAt s p at_.1 with
        | none => .error (fmtTrap 0 t.fmt)
        | some en =>
          (match spanOf s { p with ponly := false } ⟨0, none⟩ Need.read (rgBook en) 32 with
           | .error z => .error (accessTrap 0 z)
           | .ok h => .ok [g, allSegs sc, h])
      else .ok [g, allSegs sc, []]

/-- One input element from what its three accesses read: its value in either group, and its poison. -/
def tensorElem (t : TensorOp) (e : Int) (word scale book : Reading) : Num × Int × Bool :=
  let sub := (elemPlace t.fmt t.base.addr e).2
  let x := numAt word.1 0 4 / 2 ^ (fmtWidth t.fmt * sub) % 2 ^ fmtWidth t.fmt
  let sc := if scale.1.isEmpty then 0x7F else byteAt scale.1 0
  let codes : Option (Fmt × Vector (BitVec 16) 16) :=
    if isCbFmt t.fmt then some (t.fmt, Vector.ofFn fun i => BitVec.ofNat 16 (numAt book.1 (2 * i.val) 2)) else none
  (if isIntGroup t.fmt then .zero false else matNum t.fmt sc codes x, if isCbFmt t.fmt then 0 else intOf t.fmt x,
    word.2 || scale.2 || book.2)

/-- The tensor elements that the terms of one output element take, x and y in turn. -/
def termElems (c : Contraction) (o : List (Nat × Nat)) (rest rs : List Nat) : List (TensorOp × Int) :=
  rs.flatMap fun r =>
    let v := o ++ digitsOf c rest r
    [(c.x, elemNumber c.x v), (c.y, elemNumber c.y v)]

/-- The accesses of some input elements, three to each. -/
def termPlan (s : State) (p : Party) : List (TensorOp × Int) → Except TrapInfo (List (List Seg))
  | [] => .ok []
  | (t, e) :: r =>
    match tensorPlan s p t e with
    | .error z => .error z
    | .ok l => (termPlan s p r).map (l ++ ·)

/-- The values of some input elements, from what their accesses read. -/
def termValues : List (TensorOp × Int) → List Reading → List (Num × Int × Bool)
  | (t, e) :: r, w :: sc :: b :: l => tensorElem t e w sc b :: termValues r l
  | _, _ => []

/-- The terms of one output element: the products of its x and y elements. -/
def productsOf : List (Num × Int × Bool) → List (Num × Int)
  | a :: b :: r => (mulNum a.1 b.1, a.2.1 * b.2.1) :: productsOf r
  | _ => []

/-- The bits of one output element (R218). -/
def contractBits (c : Contraction) (l : List (Num × Int)) : Nat :=
  match fpFmt c.out.fmt with
  | some g =>
    (match sumNum .rne (l.map (·.1)) with
     | .fin _ 0 _ => 0
     | v => (store ⟨g, rmOf c.rm, c.sat, false⟩ v).1)
  | none => wrapInt Fmt.int32 (l.map (·.2)).sum

/-- What one output element takes: the input elements of its terms, its reads in order (the old value last, where it is added),
the place that it is written to, and its sub-element there. -/
structure ContractPlan where
  elems : List (TensorOp × Int)
  reads : List (List Seg)
  out : List Seg
  sub : Nat

def contractPlan (s : State) (p : Party) (c : Contraction) (outs rest : List Nat) (n : Nat) : Except TrapInfo ContractPlan :=
  let o := digitsOf c outs n
  let at_ := elemPlace c.out.fmt c.out.base.addr (elemNumber c.out o)
  let elems := termElems c o rest (List.range (rest.foldl (fun k i => k * extent c i) 1))
  if at_.1 % 4 != 0 then .error (alignTrap n at_.1)
  else
    match termPlan s p elems, wordSpan s p c.out.base ⟨c.accum, true, false⟩ c.out.fmt at_.1 4 with
    | .error z, _ => .error z
    | .ok _, .error z => .error z
    | .ok l, .ok g => .ok ⟨elems, l ++ (if c.accum then [g] else []), g, at_.2⟩

/-- The write of one output element, from everything that was read for it. -/
def contractWrite (c : Contraction) (x : ContractPlan) (reads : List Reading) : List Write :=
  let vals := termValues x.elems reads
  let h : Reading := if c.accum then reads.getLastD ([], false) else ([], false)
  let old := numAt h.1 0 4 / 2 ^ (fmtWidth c.out.fmt * x.sub) % 2 ^ fmtWidth c.out.fmt
  let add : List (Num × Int) :=
    if c.accum then [(match fpFmt c.out.fmt with | some k => decodeNum k old | none => .zero false, intOf c.out.fmt old)] else []
  groupWrites (subPatches c.out.fmt x.out x.sub (contractBits c (productsOf vals ++ add))) []
    (vals.any (·.2.2) || h.2) false

/-- What is left of one output element: the accesses that earlier turns have not made, `done` being what those read. -/
def contractElem (s : State) (u : Cur) (c : Contraction) (x : ContractPlan) (done : List Reading) : Option State :=
  let left := x.reads.drop done.length
  let accs := (left ++ [x.out]).filter (!·.isEmpty)
  if mustWait s u accs then none
  else
    some (servePort (performWrites (touchPage s u.c.page) u.c.page (contractWrite c x (done ++ left.map (homeRead s))))
      (.cell u.cell) accs.flatten)

/-- How far a contraction has come: the state, the next output element, and the fault it ended with, if any. -/
structure Contracted where
  s : State
  next : Nat
  fault : Option TrapInfo

/-- A fault of an output element names its number. -/
def elemFault (n : Nat) (z : TrapInfo) : TrapInfo :=
  match z.code with
  | .bounds | .perm | .ptrTag | .translate | .align => { z with aux := n % 2 ^ 32 }
  | _ => z

/-- Output elements in dense order, from number `n` on, of which earlier turns have read `done`, until one must wait; a fault
keeps those before it and names the one reached. -/
def contractFrom (u : Cur) (p : Party) (c : Contraction) (outs rest : List Nat) : Nat → Nat → List Reading → State → Contracted
  | 0, n, _, s => ⟨s, n, none⟩
  | k + 1, n, done, s =>
    match contractPlan s p c outs rest n with
    | .error z => ⟨s, n, some (elemFault n z)⟩
    | .ok x =>
      match contractElem s u c x done with
      | none => ⟨s, n, none⟩
      | some s' => contractFrom u p c outs rest k (n + 1) [] s'

/-- What has been performed of a contraction: the output element it is at, its parameter block, and what was read for that
element. -/
def contractPart (u : Cur) (n : Nat) (block : List (Byte × Bool)) (reads : List Reading) : PartAccess :=
  ⟨u.ins, n, block, false, [], [], reads⟩

/-- The next access of output element `n`: a read, kept, or the write, with which the element is complete. -/
def contractPiece (s : State) (u : Cur) (c : Contraction) (x : ContractPlan) (block : List (Byte × Bool)) (n total : Nat)
    (done : List Reading) : Act :=
  let left := x.reads.drop done.length
  let skip := (left.takeWhile (·.isEmpty)).map fun _ => (([], false) : Reading)
  match left.drop skip.length with
  | acc :: _ =>
    if mustWait s u [acc] then .wait
    else
      .pause (keepPart (servePort (touchPage s u.c.page) (.cell u.cell) acc) u
        (contractPart u n block (done ++ skip ++ [homeRead s acc])))
  | [] =>
    match contractElem s u c x (done ++ skip) with
    | none => .wait
    | some s' => if total ≤ n + 1 then .done s' .none noFlags else .pause (keepPart s' u (contractPart u (n + 1) block []))

/-- The contraction that a parameter block at `base` gives, from output element `n` on: to its end, as far as it may go, or,
where only its next access performs, one access further (R218; LOG 33, DESIGN CHOICE). Under a freeze it stops after the output
element that it is at (16 R424). -/
def contractGo (s : State) (u : Cur) (p : Party) (base : Nat) (block : List (Byte × Bool)) (n : Nat) (done : List Reading) : Act :=
  match contractionAt block with
  | none => .trap illop
  | some c =>
    match contractionTrap c with
    | some t => .trap { t with addr := if t.code = .ptrTag then base + 0x20 + 64 * t.aux else t.addr }
    | none =>
      let outs := c.out.dims.map (·.1)
      let rest := (List.range c.ext.length).filter fun k => !outs.contains k
      let total := outs.foldl (fun k i => k * extent c i) 1
      if pieceTurn s && decide (n < total) then
        match contractPlan s p c outs rest n with
        | .error z => .trap (elemFault n z)
        | .ok x => contractPiece s u c x block n total done
      else
        let r := contractFrom u p c outs rest (if u.t.frozen then 1 else total - n) n done s
        match r.fault with
        | some t => .trapWith r.s t
        | none =>
          if total ≤ r.next then .done r.s .none noFlags
          else .pause (keepPart r.s u (contractPart u r.next block (if r.next = n then done else [])))

/-- The parameter block is read, whole or by its next access, before anything else. -/
def contractBlock (s : State) (u : Cur) (p : Party) (b : Base) (d : PartAccess) : Act :=
  if b.addr % 16 != 0 then .trap (alignTrap 0 b.addr)
  else
    match spanOf s p b Need.read b.addr 224 with
    | .error e => .trap (accessTrap 0 e)
    | .ok segs =>
      match pieceTurn s, segs.drop d.count with
      | true, g :: _ :: _ =>
        if mustWait s u [[g]] then .wait
        else
          let r := homeRead s [g]
          .pause (keepPart (servePort (touchPage s u.c.page) (.cell u.cell) [g]) u
            { d with count := d.count + 1, bytes := d.bytes ++ r.1, poisoned := d.poisoned || r.2 })
      | _, left =>
        if mustWait s u (eachSeg left) then .wait
        else
          let r := homeRead s left
          if d.poisoned || r.2 then .control
          else contractGo (servePort s (.cell u.cell) left) u p b.addr (d.bytes ++ r.1) 0 []

/-- R217 to R219: the parameter block is read and checked once. -/
def bodyContract (_f : Fields) (s : State) (u : Cur) (o : Opnds) : Act :=
  match o.a with
  | none => .trap illop
  | some a =>
    if a.poison then .control
    else
      match baseOf a with
      | none => .trap (fmtTrap 0 a.fmt)
      | some b =>
        let p := partyOf s u.cell u.task
        let d := partOf u
        if d.bytes.length < 224 then contractBlock s u p b d else contractGo s u p b.addr d.bytes d.count d.reads

def execContract (f : Fields) (s : State) := runIns 0x14C .any f s (bodyContract f)

end Sys2Proof.Machine
end

