-- ==== Sys2Proof/Machine/Pointers.lean ====
section
/-! DEFINITION. The pointer instructions (15_isolation.md R397-R403). -/

namespace Sys2Proof.Machine

/-- An operand that must hold pointers: checked against `FT` 0x1B. -/
def wantPtr (t : Token) : Option TrapInfo := if t.kind == 0 && t.fmt == Fmt.ptr then none else some (fmtTrap 0 t.fmt)

/-- Element `j` of an INT64 operand B, or the immediate; none where B's pair is invalid. -/
def pairLength (f : Fields) (b : Option Token) (j : Nat) : Option Nat :=
  match b with
  | none => some (immN f)
  | some t => if validAt t (2 * j) && validAt t (2 * j + 1) then some (pairAt t j) else none

def pairOffset (f : Fields) (b : Option Token) (j : Nat) : Option Int :=
  match b with
  | none => some f.imm.toInt
  | some t => if validAt t (2 * j) && validAt t (2 * j + 1) then some (signedOf 64 (pairAt t j)) else none

def wantB (b : Option Token) (g : Fmt) : Option TrapInfo := b.bind fun t => wantTag 1 t g

/-- R398. -/
def bodyPsetb (f : Fields) (s : State) (_u : Cur) (o : Opnds) : Act :=
  match o.a with
  | none => .trap illop
  | some a =>
    let out (j : Nat) : Option (Option (BitVec 64)) := (pairLength f o.b j).map fun n =>
      let w := boundAt a j
      narrow (bPerm w) (bSeal w) (pBase w (pairAt a j)) (pTop w (pairAt a j)) (pairAt a j) n
    match firstTrap [wantPtr a, wantB o.b Fmt.int64, firstPair .perm a (sealedAt a), firstPair .bounds a fun j => out j == some none] with
    | some e => .trap e
    | none =>
      .done s (.one (.data (ptrToken a (a.poison || isPoisoned o.b) fun j =>
        (out j).bind fun w => w.map fun x => (pairAt a j, x)))) noFlags

def execPsetb (f : Fields) (s : State) := runIns 0x190 .any f s (bodyPsetb f)

/-- The permission mask of pair `j`. -/
def pairMask (f : Fields) (b : Option Token) (j : Nat) : Option (BitVec 4) :=
  match b with
  | none => some (f.imm.extractLsb' 0 4)
  | some t => if validAt t (2 * j) then some ((laneAt t (2 * j)).extractLsb' 0 4) else none

/-- R397. -/
def bodyPsetp (f : Fields) (s : State) (_u : Cur) (o : Opnds) : Act :=
  match o.a with
  | none => .trap illop
  | some a =>
    match firstTrap [wantPtr a, wantB o.b Fmt.uint32, firstPair .perm a (sealedAt a)] with
    | some e => .trap e
    | none =>
      .done s (.one (.data (ptrToken a (a.poison || isPoisoned o.b) fun j =>
        (pairMask f o.b j).map fun m =>
          (pairAt a j, boundAt a j &&& (m ++ (BitVec.allOnes 60 : BitVec 60)))))) noFlags

def execPsetp (f : Fields) (s : State) := runIns 0x191 .any f s (bodyPsetp f)

/-- R399. -/
def bodyPadd (f : Fields) (s : State) (_u : Cur) (o : Opnds) : Act :=
  match o.a with
  | none => .trap illop
  | some a =>
    match firstTrap [wantPtr a, wantB o.b Fmt.int64, firstPair .perm a (sealedAt a)] with
    | some e => .trap e
    | none =>
      .done s (.one (.data (ptrToken a (a.poison || isPoisoned o.b) fun j =>
        (pairOffset f o.b j).bind fun x => movePtr (boundAt a j) (pairAt a j) x))) noFlags

def execPadd (f : Fields) (s : State) := runIns 0x192 .any f s (bodyPadd f)

/-- The permissions that a variant of `PCHK` asks for. -/
def pchkPerms (m : BitVec 3) (w : BitVec 64) : Bool :=
  match m.toNat with
  | 0 => w.getLsbD 63
  | 1 => w.getLsbD 62
  | 2 => w.getLsbD 63 && w.getLsbD 62
  | _ => true

/-- R400. -/
def bodyPchk (f : Fields) (s : State) (_u : Cur) (o : Opnds) : Act :=
  match o.a with
  | none => .trap illop
  | some a =>
    match firstTrap [wantPtr a, wantB o.b Fmt.int64] with
    | some e => .trap e
    | none =>
      let v : BitVec 16 := BitVec.ofFnLE fun i => validAt a i.val && (pairLength f o.b (i.val / 2)).isSome
      let ok (j : Nat) : Bool :=
        match pairLength f o.b j with
        | none => false
        | some n =>
          let w := boundAt a j
          bSeal w == 0 && pchkPerms f.mod w && inBounds w (pairAt a j) (pairAt a j) n
      .done s (.one (.data (result a Fmt.pred (predLanes Fmt.ptr v fun i _ => ok (i / 2)) v
        (a.poison || isPoisoned o.b)))) noFlags

def execPchk (f : Fields) (s : State) := runIns 0x193 .any f s (bodyPchk f)

/-- R401. -/
def pgetValue (m : BitVec 3) (w : BitVec 64) (a : Nat) : Nat :=
  match m.toNat with
  | 0 => a
  | 1 => (pBase w a).toNat
  | 2 => (pTop w a - pBase w a).toNat
  | _ => bPerm w + 2 ^ 8 * bSeal w

def bodyPget (f : Fields) (s : State) (_u : Cur) (o : Opnds) : Act :=
  match o.a with
  | none => .trap illop
  | some a =>
    match wantPtr a with
    | some e => .trap e
    | none =>
      let r := elemWise Fmt.int64 a.valid fun i _ => (pgetValue f.mod (boundAt a (i / 2)) (pairAt a (i / 2)), 0)
      .done s (.one (.data (result a Fmt.int64 (lanesOf r) a.valid a.poison))) noFlags

def execPget (f : Fields) (s : State) := runIns 0x194 .any f s (bodyPget f)

/-- A bounds word with its seal class replaced. -/
def withSeal (w : BitVec 64) (c : Nat) : BitVec 64 := w.extractLsb' 56 8 ++ BitVec.ofNat 8 c ++ w.extractLsb' 0 48

/-- R402: the class that a pair must carry, and the class it then carries. -/
def reseal (f : Fields) (want new : Nat) (s : State) (u : Cur) (o : Opnds) : Act :=
  match o.a with
  | none => .trap illop
  | some a =>
    match firstTrap [wantPtr a, (if u.t.seals.contains (immN f % 256) then none else some (pairTrap .perm 0)),
        firstPair .perm a fun j => bSeal (boundAt a j) != want] with
    | some e => .trap e
    | none => .done s (.one (.data (ptrToken a a.poison fun j => some (pairAt a j, withSeal (boundAt a j) new)))) noFlags

def execPseal (f : Fields) (s : State) := runIns 0x195 .any f s (reseal f 0 (immN f % 256))
def execPunseal (f : Fields) (s : State) := runIns 0x196 .any f s (reseal f (immN f % 256) 0)

/-- R403, R88. -/
def bodyPmint (_f : Fields) (s : State) (u : Cur) (o : Opnds) : Act :=
  match o.a, o.b, o.c with
  | some a, some b, some c =>
    if !((tget s.instances u.t.inst).elim false (·.loader)) then .trap (trapOf .perm)
    else
      let has (j : Nat) : Bool := validAt b (2 * j) && validAt c (2 * j)
      let out (j : Nat) : Option (BitVec 64) :=
        let w := laneAt c (2 * j)
        narrow (w.extractLsb' 0 4).toNat (w.extractLsb' 8 8).toNat 0 (2 ^ 57) (pairAt a j) (pairAt b j)
      (match firstTrap [wantTag 0 a Fmt.int64, wantTag 1 b Fmt.int64, wantTag 3 c Fmt.uint32] with
       | some e => .trap e
       | none =>
         if (pairsOf a).any fun j =>
             has j && ((laneAt c (2 * j)).extractLsb' 4 4 != 0#4 || (laneAt c (2 * j)).extractLsb' 16 16 != 0#16) then .trap illop
         else
           match firstPair .bounds a fun j => has j && (out j).isNone with
           | some e => .trap e
           | none =>
             .done s (.one (.data (ptrToken a (a.poison || b.poison || c.poison) fun j =>
               if has j then (out j).map fun w => (pairAt a j, w) else none))) noFlags)
  | _, _, _ => .trap illop

def execPmint (f : Fields) (s : State) := runIns 0x197 .any f s (bodyPmint f)

end Sys2Proof.Machine
end

