-- ==== Sys2Proof/Machine/Sched.lean ====
section
/-! DEFINITION. The scheduling, group and read-out instructions (12_progress_fabric.md R334-R340,
13_progress_watch.md R350-R353). -/

namespace Sys2Proof.Machine

/-! ### Groups, roles, members (12 R313-R317) -/

def groupEntry (x : Context) (g : Nat) : BitVec 32 := (tget x.groups g).getD 0
def groupUsed (x : Context) (g : Nat) : Bool := (groupEntry x g).getLsbD 31
def groupRoles (x : Context) (g : Nat) : Nat := ((groupEntry x g).extractLsb' 10 10).toNat
def groupBase (x : Context) (g : Nat) : Nat := ((groupEntry x g).extractLsb' 0 10).toNat

/-- The role table's entry for a role of a group. -/
def roleEntry (x : Context) (g rix : Nat) : BitVec 64 := (tget x.roles (groupBase x g + rix)).getD 0
def roleIsCell (r : BitVec 64) : Bool := r.getLsbD 62
def roleReplicas (r : BitVec 64) : Nat := (r.extractLsb' 56 6).toNat + 1
def roleCount (r : BitVec 64) : Nat := (r.extractLsb' 44 12).toNat + 1
def roleBase (r : BitVec 64) : Nat := (r.extractLsb' 0 14).toNat

/-- The binding-table entry of member `m`, replica `q` of a role (R315). -/
def memberIndex (r : BitVec 64) (m q : Nat) : Nat := roleBase r + m * roleReplicas r + q

/-- Every entry of a role that names a member: (member, page, cell). -/
def roleMembers (x : Context) (r : BitVec 64) : List (Nat × Nat × Option Nat) :=
  if !r.getLsbD 63 then []
  else
    ((x.members.filter fun e => decide (roleBase r ≤ e.1 ∧ e.1 < roleBase r + roleCount r * roleReplicas r)).map
      fun e => ((e.1 - roleBase r) / roleReplicas r, e.2.1, e.2.2))

/-- The member number of a cell, or of its page, in a role. -/
def memberOf (x : Context) (r : BitVec 64) (page cell : Nat) : Option Nat :=
  ((roleMembers x r).find? fun e => e.2.1 == page && (if roleIsCell r then e.2.2 == some cell else true)).map (·.1)

/-- The groups that a page belongs to, in ascending order (R316). -/
def groupsOf (x : Context) (page : Nat) : List Nat :=
  (List.range 256).filter fun g =>
    groupUsed x g && (List.range (groupRoles x g)).any fun j =>
      (roleMembers x (roleEntry x g j)).any fun e => e.2.1 == page

/-- A read-out result: `POISON` 0, `SCALE` 0x7F, `TAG` 0x00. -/
def readOut (fmt : Fmt) (lanes : Vector Lane 16) (valid : BitVec 16) : Token :=
  { blankToken with lanes := lanes, valid := valid, fmt := fmt }

/-- R335. -/
def bodyGrpid (_f : Fields) (s : State) (u : Cur) (_o : Opnds) : Act :=
  let gs := match ctxOf s u.cell with
    | some x => groupsOf x u.c.page
    | none => []
  oneData s (readOut Fmt.uint32 (Vector.ofFn fun i => BitVec.ofNat 32 (gs.getD i.val 0))
    (BitVec.ofFnLE fun i => decide (i.val < gs.length)))

def execGrpid (f : Fields) (s : State) := runIns 0x170 .any f s (bodyGrpid f)

/-- The stage that a page belongs to. -/
def stageOf (s : State) (page : Nat) : Option StageState :=
  match tget s.pages page with
  | none => none
  | some p =>
    match p.stage, tget s.instances p.inst with
    | some g, some i => i.stages.find? (·.stage == g)
    | _, _ => none

/-- R336. -/
def roleValue (f : Fields) (s : State) (u : Cur) (x : Context) : Option Nat :=
  let r := roleEntry x (bits (immN f) 19 12) (bits (immN f) 11 2)
  match bits (immN f) 23 22 with
  | 0 => memberOf x r u.c.page u.cell
  | 1 => some (roleCount r)
  | 2 => some (match stageOf s u.c.page, pageOf s u.cell with | some _, some p => p.replica | _, _ => 0)
  | _ => some (match stageOf s u.c.page with | some g => g.active.length | none => 1)

def bodyRole (f : Fields) (s : State) (u : Cur) (_o : Opnds) : Act :=
  match (ctxOf s u.cell).bind (roleValue f s u) with
  | some v => oneData s (readOut Fmt.uint32 (broadcast (BitVec.ofNat 32 v)) 0xFFFF)
  | none => oneData s (readOut Fmt.uint32 (broadcast 0) 0)

def execRole (f : Fields) (s : State) := runIns 0x171 .any f s (bodyRole f)

/-- The cell that `SPAWN` names: member `m` of replica 0, or of the issuer's own replica (R337). -/
def spawnTarget (s : State) (u : Cur) (f : Fields) (m : Nat) : Option Nat :=
  match ctxOf s u.cell with
  | none => none
  | some x =>
    let r := roleEntry x (bits (immN f) 23 16) (bits (immN f) 15 6)
    if roleCount r ≤ m then none
    else
      let q := if roleReplicas r = 1 then 0 else match pageOf s u.cell with | some p => p.replica % roleReplicas r | none => 0
      match tget x.members (memberIndex r m q) with
      | some (_, some c) => some c
      | _ => none

/-- R337: the request is sent at retirement. -/
def bodySpawn (f : Fields) (s : State) (u : Cur) (o : Opnds) : Act :=
  match o.a with
  | none => .trap illop
  | some a =>
    if a.poison then .control
    else
      match wantWord 0 a with
      | some e => .trap e
      | none =>
        match spawnTarget s u f (laneAt a 0).toNat with
        | none => .trap illop
        | some c => .done (later s u (.spawn c (bits (immN f) 5 3))) .none noFlags

def execSpawn (f : Fields) (s : State) := runIns 0x172 .any f s (bodySpawn f)

/-- R338: at retirement. -/
def bodyTear (f : Fields) (s : State) (u : Cur) (_o : Opnds) : Act :=
  .done (later s u (.tear (f.imm.extractLsb' 0 8))) .none noFlags

def execTear (f : Fields) (s : State) := runIns 0x173 .any f s (bodyTear f)

/-- A 64-bit value in element 0. -/
def oneLong (s : State) (v : BitVec 64) (valid : BitVec 16) : Act :=
  oneData s (readOut Fmt.int64 (Vector.ofFn fun i =>
    if i.val < 2 then v.extractLsb' (32 * i.val) 32 else 0) valid)

/-- R339. -/
def bodyBal (_f : Fields) (s : State) (u : Cur) (_o : Opnds) : Act :=
  match ctxOf s u.cell with
  | some x => if x.balanceKept then oneLong s (BitVec.ofInt 64 x.balance) 3 else oneLong s 0 0
  | none => oneLong s 0 0

def execBal (f : Fields) (s : State) := runIns 0x174 .any f s (bodyBal f)

def execSvcl (f : Fields) (s : State) := runIns 0x178 .any f s fun s _ _ =>
  oneData s (readOut Fmt.uint32 (broadcast (s.pkg.level.zeroExtend 32)) 0xFFFF)

def execCtxid (f : Fields) (s : State) := runIns 0x17B .any f s fun s u _ =>
  oneData s (readOut Fmt.uint32 (broadcast ((asidOf s u.cell).zeroExtend 32)) 0xFFFF)

/-- Every `TIME` of one firing gives the same value (13 R352). -/
def bodyTime (_f : Fields) (s : State) (u : Cur) (_o : Opnds) : Act :=
  let v := u.fr.time.getD s.pkg.aocnt
  oneLong (modFiring s u.key fun fr => { fr with time := some v }) v 3

def execTime (f : Fields) (s : State) := runIns 0x175 .any f s (bodyTime f)

def bodyFirecnt (_f : Fields) (s : State) (u : Cur) (_o : Opnds) : Act :=
  let v := u.fr.count.getD (match pageOf s u.cell with | some p => p.fireCount | none => 0)
  oneLong (modFiring s u.key fun fr => { fr with count := some v }) v 3

def execFirecnt (f : Fields) (s : State) := runIns 0x176 .any f s (bodyFirecnt f)

/-- 13 R353: the record is appended at retirement. -/
def bodyEvt (f : Fields) (s : State) (u : Cur) (o : Opnds) : Act :=
  let code := f.imm.extractLsb' 0 16
  match o.a with
  | none => .done (later s u (.event code 0)) .none noFlags
  | some a =>
    if a.poison then .control
    else
      match wantIn 0 a fun g => g == Fmt.uint32 || g == Fmt.int32 with
      | some e => .trap e
      | none => if validAt a 0 then .done (later s u (.event code (laneAt a 0))) .none noFlags else .done s .none noFlags

def execEvt (f : Fields) (s : State) := runIns 0x177 .any f s (bodyEvt f)

def execYield (f : Fields) (s : State) := runIns 0x179 .any f s fun s u _ => .done (later s u .yield) .none noFlags

def execPrio (f : Fields) (s : State) := runIns 0x17A .any f s fun s u _ =>
  .done (later s u (.prio f.mod.toNat)) .none noFlags

end Sys2Proof.Machine
end

