-- ==== Sys2Proof/Machine/Cards.lean ====
section
/-! DEFINITION. Job cards: their fields, the conditions on them, and the edges between jobs
(10_order_instructions.md R295-R298, 09_order_model.md R254, 13_progress_watch.md R363). -/

namespace Sys2Proof.Machine

/-- A job card read (R295, R296). -/
structure Card where
  eng : Nat
  jop : Nat
  push : Bool
  pop : Bool
  pf : Nat
  qf : Nat
  fmt : Fmt
  spare : Bool
  ra : Nat
  ral : Nat
  rb : Nat
  rbl : Nat
  w : Nat
  wl : Nat
  param : BitVec 64
  deriving DecidableEq, Repr

/-- The 8 bytes at offset 8k of a card. -/
def cardWord (v : Vector Lane 16) (k : Nat) : Nat :=
  if h : 2 * k + 1 < 16 then v[2 * k].toNat + 2 ^ 32 * v[2 * k + 1].toNat else 0

/-- A card's fields; `spare` says that a reserved bit is set. -/
def parseCard (v : Vector Lane 16) : Card :=
  let c := v[0]
  { eng := (c.extractLsb' 28 4).toNat, jop := (c.extractLsb' 24 4).toNat
    push := c.getLsbD 23, pop := c.getLsbD 22
    pf := (c.extractLsb' 18 4).toNat, qf := (c.extractLsb' 14 4).toNat
    fmt := c.extractLsb' 9 5
    spare := c.extractLsb' 0 9 != 0#9 || v[1] != 0
    ra := cardWord v 1, ral := cardWord v 2, rb := cardWord v 3, rbl := cardWord v 4
    w := cardWord v 5, wl := cardWord v 6, param := BitVec.ofNat 64 (cardWord v 7) }

/-- The sixteen lanes that 64 bytes of memory hold. -/
def lanesOfBytes (l : List Byte) : Vector Lane 16 :=
  Vector.ofFn fun i => BitVec.ofNat 32 (leNat ((l.drop (4 * i.val)).take 4))

/-- Two regions share a byte. -/
def overlap (a la b lb : Nat) : Bool := la != 0 && lb != 0 && decide (a < b + lb) && decide (b < a + la)

/-- A region as R295 and R298 allow it. -/
def regionOk (a l : Nat) : Bool := decide (l < 2 ^ 40) && decide (a + l ≤ 2 ^ 57)

def regionsOk (c : Card) : Bool := regionOk c.ra c.ral && regionOk c.rb c.rbl && regionOk c.w c.wl

/-- Fields of a collective card's `PARAM` (13 R363). -/
def cardRoot (c : Card) : Nat := (c.param.extractLsb' 48 12).toNat
def cardRop (c : Card) : Nat := (c.param.extractLsb' 44 4).toNat
def cardGroup (c : Card) : BitVec 12 := c.param.extractLsb' 32 12
def cardNum (c : Card) : BitVec 32 := c.param.extractLsb' 0 32

/-- The element width of a collective, in bytes (R363). -/
def collWidth (c : Card) : Nat :=
  if c.jop == 5 || c.fmt == Fmt.int64 then 8 else if c.fmt == Fmt.bf16 then 2 else if c.fmt == Fmt.raw then 1 else 4

/-- A format of an all-reduce or reduce-scatter. -/
def reduceFmt (f : Fmt) : Bool :=
  f == Fmt.fp32 || f == Fmt.bf16 || f == Fmt.int32 || f == Fmt.int64 || f == Fmt.uint32

/-- The conditions of R363 on a collective card of a group of `p` members; of a group whose size is not known here, those
that do not name it. -/
def collOk (c : Card) (p : Option Nat) : Bool :=
  let e := collWidth c
  !c.spare && regionsOk c && c.rbl == 0 && c.param.extractLsb' 60 4 == 0#4
    && (c.jop == 4 || cardRoot c == 0) && !overlap c.ra c.ral c.w c.wl
    && (match c.jop with
        | 0 => c.ral == 0 && c.wl == 0 && c.fmt == 0 && cardRop c == 0
        | 1 => c.wl == c.ral && c.ral % e == 0 && reduceFmt c.fmt && decide (cardRop c ≤ 2)
        | 2 => p.all (fun z => c.wl == z * c.ral) && c.fmt == 0 && cardRop c == 0
        | 3 => p.all (fun z => c.ral == z * c.wl) && c.wl % e == 0 && reduceFmt c.fmt && decide (cardRop c ≤ 2)
        | 4 => c.wl == c.ral && c.fmt == 0 && cardRop c == 0 && p.all fun z => decide (cardRoot c < z)
        | 5 => c.wl == c.ral && c.wl % 8 == 0 && c.fmt == Fmt.fp32 && cardRop c == 0
        | _ => false)

/-- The row length and stride of a strided copy (R297). -/
def rowLen (c : Card) : Nat := (c.param.extractLsb' 0 32).toNat
def rowStride (c : Card) : Nat := (c.param.extractLsb' 32 32).toNat

/-- The element word of a gather, none where its format is not allowed. -/
def gatherWord (f : Fmt) : Option Nat :=
  if f == Fmt.int32 || f == Fmt.uint32 || f == Fmt.fp32 then some 4
  else if f == Fmt.int64 then some 8
  else if f == Fmt.ptr then some 16
  else none

/-- The region conditions of R297 for the engines but the collective one. -/
def engineOk (c : Card) : Bool :=
  !c.spare && regionsOk c &&
    (match c.eng, c.jop with
     | 1, 0 => c.fmt == 0 && c.ral == c.wl && c.rbl == 0 && !overlap c.ra c.ral c.w c.wl
     | 1, 1 => c.fmt == 0 && c.ral == 0 && c.rbl == 0 && c.wl % 4 == 0 && c.param.extractLsb' 32 32 == 0#32
     | 2, 0 => (match gatherWord c.fmt with
         | some e => c.rbl % 4 == 0 && c.wl == c.rbl / 4 * e
         | none => false)
     | 3, 0 => c.fmt == 0 && rowLen c != 0 && rowLen c % 4 == 0 && decide (rowLen c ≤ rowStride c)
         && c.wl % rowLen c == 0 && c.rbl == 0
         && (c.wl == 0 || decide ((c.wl / rowLen c - 1) * rowStride c + rowLen c ≤ c.ral))
     | _, _ => false)

/-- R254: a later job has an edge to an earlier one. -/
def jobEdge (later earlier : Card) : Bool :=
  overlap later.ra later.ral earlier.w earlier.wl || overlap later.rb later.rbl earlier.w earlier.wl
    || overlap later.w later.wl earlier.ra earlier.ral || overlap later.w later.wl earlier.rb earlier.rbl
    || overlap later.w later.wl earlier.w earlier.wl

end Sys2Proof.Machine
end

