-- ==== Sys2Proof/Machine/Collect.lean ====
section
/-! DEFINITION. Numbered collectives: the instructions, the sequencer and its standby, and what a package learns of
numbers (13_progress_watch.md R356-R370, 16_recovery.md R423). -/

namespace Sys2Proof.Machine

/-! ### Numbers on this package (R360, R361, R370) -/

def ahead (x n : BitVec 32) : Bool := decide ((n - x).toNat < 2 ^ 30)

def numDone (l : LocalNum) : Bool :=
  match l.state with
  | .complete | .cancelled | .failed => true
  | .announced | .executing => false

/-- The sooner of two numbers after `f`. -/
def sooner (f : BitVec 32) (a : Option LocalNum) (b : LocalNum) : Option LocalNum :=
  match a with
  | none => some b
  | some x => if (b.number - f).toNat < (x.number - f).toNat then some b else some x

/-- The next number X: the lowest announced number ahead of the last finished one; before any finish, the first
announced (R361). -/
def nextNum (c : Collective) : Option LocalNum :=
  let todo := c.numbers.filter fun l => !numDone l
  match c.lastFinished with
  | none => todo.head?
  | some f => (todo.filter fun l => ahead f l.number).foldl (sooner f) none

/-- X as a number, or the one after the last finished where none is announced. -/
def nextValue (c : Collective) : BitVec 32 :=
  match nextNum c, c.lastFinished with
  | some l, _ => l.number
  | none, some f => f + 1
  | none, none => 0

def localNum (s : State) (n : BitVec 32) : Option LocalNum := s.collective.numbers.find? (·.number == n)

def modNum (s : State) (n : BitVec 32) (g : LocalNum → LocalNum) : State :=
  { s with collective := { s.collective with
      numbers := s.collective.numbers.map fun l => if l.number == n then g l else l } }

/-- The index and size under which a context is a member of a group. -/
def membership (x : Context) (g : BitVec 12) : Option (Nat × Nat) := (x.joined.find? (·.1 == g)).map (·.2)

def isJoined (s : State) (asid : BitVec 8) (g : BitVec 12) : Bool :=
  match tget s.contexts asid with
  | some x => (membership x g).isSome
  | none => false

/-- Contexts of this package that are members of a group, with index and size. -/
def membersNow (s : State) (g : BitVec 12) : List (BitVec 8 × Nat × Nat) :=
  s.contexts.filterMap fun ax => (membership ax.2 g).map fun m => (ax.1, m)

/-- Contexts of this package that take part in a number or hold a post of it. -/
def partsOf (s : State) (l : LocalNum) : List (BitVec 8) :=
  (s.contexts.filter fun ax => l.members.any (·.1 == ax.1) || ax.2.posts.any (·.number == l.number)).map (·.1)

def hasPosted (s : State) (asid : BitVec 8) (n : BitVec 32) : Bool :=
  match tget s.contexts asid with
  | some x => x.posts.any (·.number == n)
  | none => false

/-- The context takes part in the number: it is a member of the group, or was when the number was announced (R357). LOG 25, DEDUCED. -/
def takesPart (s : State) (asid : BitVec 8) (l : LocalNum) : Bool := isJoined s asid l.group || l.members.any (·.1 == asid)

/-- The code of `CLSTAT` for a context (R370). -/
def statusCode (s : State) (asid : BitVec 8) (n : BitVec 32) : Nat :=
  match localNum s n with
  | none => 0
  | some l =>
    let far := decide (65536 < (nextValue s.collective - n).toNat)
    if !takesPart s asid l then 0
    else
      match l.state with
      | .announced => if hasPosted s asid n then 2 else 1
      | .executing => 3
      | .complete => if far then 7 else 4
      | .cancelled => if far then 7 else 5
      | .failed => 6

/-! ### The sequencer's records (R356-R358, R364, R369) -/

def seqGroup (r : SeqRecords) (g : BitVec 12) : SeqGroup := (tget r.groups g).getD ⟨0, []⟩

/-- R356. -/
def groupFormed (q : SeqGroup) : Bool := decide (2 ≤ q.size) && q.members.length == q.size

def groupHas (q : SeqGroup) (pkg : Nat) (asid : BitVec 8) : Bool := q.members.any fun m => m.2.1 == pkg && m.2.2 == asid

/-- The packages that hold a member. -/
def groupPkgs (q : SeqGroup) : List Nat := (q.members.map (·.2.1)).foldl natInsert []

/-- What the sequencer sends: to which package, and what. -/
abbrev Sent := List (Nat × SeqMsg)

def answerTo (q : SeqReq) (v : BitVec 32) : Sent := [(q.pkg, .answer q.cell q.task q.ins v)]
def refuseTo (q : SeqReq) : Sent := [(q.pkg, .refuse q.cell q.task q.ins)]

/-- A new number would lie 2^30 or more ahead of one still incomplete (R360): one that the records show without go,
cancellation and failure, or one of `busy`, those that a package has not finished. -/
def windowFull (r : SeqRecords) (busy : List (BitVec 32)) : Bool :=
  r.numbers.any fun n => !ahead n.number r.next && (busy.contains n.number || !n.go && !n.cancelled && !n.failed)

/-- R358: none where the request waits. -/
def seqNumber (r : SeqRecords) (busy : List (BitVec 32)) (q : SeqReq) (site inst : BitVec 32) : Option (SeqRecords × Sent) :=
  let g := seqGroup r q.group
  if !groupFormed g then none
  else if !groupHas g q.pkg q.asid then some (r, refuseTo q)
  else
    let same (k : SeqKey) : Bool := k.group == q.group && k.site == site && k.inst == inst
    match r.keys.find? same with
    | some k =>
      if k.askers.contains (q.pkg, q.asid) then some (r, answerTo q k.number)
      else
        let k' := { k with askers := k.askers ++ [(q.pkg, q.asid)] }
        let keys := if g.size ≤ k'.askers.length then r.keys.filter fun x => !same x
          else r.keys.map fun x => if same x then k' else x
        some ({ r with keys := keys }, answerTo q k.number)
    | none =>
      if 65536 ≤ r.keys.length || windowFull r busy then none
      else
        let n := r.next
        some ({ r with
            next := n + 1
            keys := r.keys ++ [⟨q.group, site, inst, n, [(q.pkg, q.asid)]⟩]
            numbers := (r.numbers.filter (·.number != n)) ++ [⟨n, q.group, [], false, false, false⟩] },
          ((groupPkgs g).map fun p => (p, SeqMsg.announce n q.group false)) ++ answerTo q n)

/-- R356. -/
def seqJoin (r : SeqRecords) (q : SeqReq) (m p : Nat) : SeqRecords × Sent :=
  let g := seqGroup r q.group
  if p < 2 || 4096 < p || p ≤ m || (g.size != 0 && g.size != p) || g.members.any (·.1 == m) || groupHas g q.pkg q.asid
      || groupFormed g then (r, refuseTo q)
  else ({ r with groups := tput r.groups q.group ⟨p, g.members ++ [(m, q.pkg, q.asid)]⟩ }, answerTo q 0)

/-- The records after a member has gone from a group, its index freed. -/
def withoutMember (r : SeqRecords) (grp : BitVec 12) (gone : Nat × Nat × BitVec 8 → Bool) : SeqRecords :=
  let g := seqGroup r grp
  { r with groups := tput r.groups grp { g with members := g.members.filter fun m => !gone m } }

/-- R357: the numbers of the group without a go are cancelled, and its open keys discarded. -/
def seqLeave (r : SeqRecords) (q : SeqReq) : SeqRecords × Sent :=
  if !groupHas (seqGroup r q.group) q.pkg q.asid then (r, answerTo q 0)
  else
    let r' := withoutMember r q.group fun m => m.2.1 == q.pkg && m.2.2 == q.asid
    ({ r' with
        numbers := r.numbers.map fun n => if n.group == q.group && !n.go then { n with cancelled := true } else n
        keys := r.keys.filter fun k => k.group != q.group }, answerTo q 0)

def seqModNum (r : SeqRecords) (n : BitVec 32) (f : SeqNumber → SeqNumber) : SeqRecords :=
  { r with numbers := r.numbers.map fun x => if x.number == n then f x else x }

/-- R364: accepted from a member, before the go. -/
def seqCancel (r : SeqRecords) (q : SeqReq) (n : BitVec 32) : SeqRecords :=
  seqModNum r n fun x =>
    if x.go || !groupHas (seqGroup r x.group) q.pkg q.asid then x else { x with cancelled := true }

/-- R362: the go once every member has posted. -/
def seqPost (r : SeqRecords) (q : SeqReq) (n : BitVec 32) (card : Vector Lane 16) : SeqRecords :=
  seqModNum r n fun x =>
    if x.cancelled || x.failed || x.posts.any (fun p => p.1 == q.pkg && p.2.1 == q.asid) then x
    else
      let posts := x.posts ++ [(q.pkg, q.asid, card)]
      let g := seqGroup r x.group
      { x with posts := posts, go := groupFormed g && decide (g.size ≤ posts.length) }

/-- R369. -/
def seqQuery (r : SeqRecords) (q : SeqReq) (k : Nat) : Sent :=
  let g := seqGroup r q.group
  answerTo q (match k with
    | 0 => r.next
    | 1 => BitVec.ofNat 32 g.members.length
    | 2 => if groupFormed g then 1 else 0
    | _ => r.takeovers)

/-- One request at the sequencer: none where it waits. -/
def seqHandle (r : SeqRecords) (busy : List (BitVec 32)) (q : SeqReq) : Option (SeqRecords × Sent) :=
  match q.kind with
  | .number site inst => seqNumber r busy q site inst
  | .join m p => some (seqJoin r q m p)
  | .leave => some (seqLeave r q)
  | .cancel n => some (seqCancel r q n, [])
  | .post n card => some (seqPost r q n card, [])
  | .query k => some (r, seqQuery r q k)

/-! ### Requests of this package and their answers -/

def onPrimary (s : State) : Bool := s.collective.primary == some (ownPackage s)
def onStandby (s : State) : Bool := s.collective.standby == some (ownPackage s)

def sameAsker (q : SeqReq) (cell task ins : Nat) : Bool := q.cell == cell && q.task == task && q.ins == ins

/-- An answer to the request is already on the channel. -/
def answered (s : State) (q : SeqReq) : Bool :=
  s.collective.channel.any fun m =>
    match m with
    | .answer c t i _ => sameAsker q c t i
    | .refuse c t i => sameAsker q c t i
    | .announce _ _ _ => false

/-- What the sequencer here sends to this package joins its ordered channel (R359); what it sends to others leaves
the package. -/
def deliver (s : State) (l : Sent) : State :=
  { s with collective := { s.collective with
      channel := s.collective.channel ++ (l.filter (·.1 == ownPackage s)).map (·.2) } }

/-- Kinds of request, as the six events name them. -/
inductive ReqClass where
  | number | join | leave | cancel | post | query
  deriving DecidableEq, Repr

def classOf (q : SeqReq) : ReqClass :=
  match q.kind with
  | .number _ _ => .number
  | .join _ _ => .join
  | .leave => .leave
  | .cancel _ => .cancel
  | .post _ _ => .post
  | .query _ => .query

def dropRequest (s : State) (q : SeqReq) : State :=
  { s with collective := { s.collective with requests := s.collective.requests.erase q } }

/-- A post or a cancellation, which needs no answer. -/
def unanswered (q : SeqReq) : Bool := classOf q == .post || classOf q == .cancel

/-- A request that needs no answer has left for a primary elsewhere: it stays known, to be sent again after a takeover (R367). -/
def requestSent (s : State) (q : SeqReq) : State :=
  if unanswered q then
    let s1 := dropRequest s q
    { s1 with collective := { s1.collective with sent := s1.collective.sent ++ [q] } }
  else s

/-- A post or cancellation of a number whose go or cancellation is not known here. -/
def stillSent (c : Collective) (q : SeqReq) : Bool :=
  let waits (n : BitVec 32) : Bool :=
    c.numbers.any fun l => l.number == n && !l.go && !l.cancelNotice && !l.failNotice && !numDone l
  match q.kind with
  | .post n _ => waits n
  | .cancel n => waits n
  | _ => false

/-- The numbers known to be incomplete: this package's own, and the one that the event tells of another. -/
def busyNums (s : State) : List (BitVec 32) :=
  (if s.args.k = 1 then [s.args.n32] else []) ++ (s.collective.numbers.filter fun l => !numDone l).map (·.number)

/-- The standby, where there is one, has recorded what a request changes, as the event tells; posts and queries change
nothing that R367 has recorded. -/
def standbyKnows (s : State) (q : SeqReq) (r : SeqRecords) : Bool :=
  s.collective.standby.isNone || s.args.flag || classOf q == .post || r == s.collective.records

/-- The primary's handling of a request: answered once the standby has recorded it (R358, R367); on the primary's package `copy`
is what the standby is known to have recorded. -/
def primaryTakes (s : State) (q : SeqReq) : State :=
  let queue : State :=
    if s.collective.records.waiting.contains q || q.pkg == ownPackage s then s
    else { s with collective := { s.collective with records :=
        { s.collective.records with waiting := s.collective.records.waiting ++ [q] } } }
  match seqHandle s.collective.records (busyNums s) q with
  | none => queue
  | some (r, l) =>
    if standbyKnows s q r then
      let r' := { r with waiting := r.waiting.erase q }
      let s1 := deliver { s with collective := { s.collective with
        records := r', copy := if s.collective.standby.isSome then r' else s.collective.copy } } l
      if unanswered q then dropRequest s1 q else s1
    else queue

/-- The standby records the same change, and has heard from the primary (R367). -/
def standbyTakes (s : State) (q : SeqReq) : State :=
  { s with collective := { s.collective with
      copy := match seqHandle s.collective.copy [] q with
        | some (r, _) => r
        | none => s.collective.copy
      lastHeard := s.pkg.aocnt } }

/-- A request of a class handled: the one that arrives, or the first of the package's own and the waiting ones that
the records allow. With the primary elsewhere, the package's own leaves for it. `args.flag` says that the standby has recorded
the change, and with `args.k` = 1 number `args.n32` is incomplete on another package. -/
def seqEvent (k : ReqClass) (s : State) : Host.Outcome State Fault Refusal :=
  match s.args.req with
  | some q =>
    if classOf q != k then .next s
    else if onPrimary s then .next (primaryTakes s q)
    else if onStandby s then .next (standbyTakes s q)
    else .next s
  | none =>
    let mine := s.collective.requests.filter fun q => classOf q == k && !answered s q
    if onPrimary s then
      let waits := (s.collective.records.waiting.filter fun q => classOf q == k) ++ mine
      match waits.find? fun q => (seqHandle s.collective.records (busyNums s) q).isSome with
      | some q => .next (primaryTakes s q)
      | none => .next s
    else if s.collective.primary.isSome then
      match mine with
      | q :: _ => .next (requestSent s q)
      | [] => .next s
    else .next s

def execSeqNumberRequest (s : State) := seqEvent .number s
def execSeqJoinRequest (s : State) := seqEvent .join s
def execSeqLeaveRequest (s : State) := seqEvent .leave s
def execSeqCancelRequest (s : State) := seqEvent .cancel s
def execSeqPostNotice (s : State) := seqEvent .post s
def execSeqQueryRequest (s : State) := seqEvent .query s

/-! ### What the package is told (R359, R361, R362, R364, R367) -/

/-- The number lies in a gap that a takeover cancelled (R367). -/
def inGap (c : Collective) (n : BitVec 32) : Bool := c.gaps.any fun h => decide ((n - (h + 1)).toNat < 2 ^ 20 - 1)

/-- The context's instance notes a collective operation that a rollback would repeat (16 R423). -/
def noteColl (s : State) (cell : Nat) (o : CollOp) : State :=
  match pageOf s cell with
  | none => s
  | some p => modInst s p.inst fun i => { i with collLog := i.collLog ++ [(p.saved, o)] }

/-- An answer that comes after the rollback of its firing is kept for the firing that asks again (16 R423). -/
def lateColl (s : State) (cell : Nat) (o : CollOp) : State :=
  match pageOf s cell with
  | none => s
  | some p => modInst s p.inst fun i => { i with collReplay := i.collReplay ++ [o] }

/-- An answer is put to the firing that asked. -/
def giveAnswer (s : State) (cell task ins : Nat) (v : Option (BitVec 32)) : State :=
  touchCell (modFiring s (cell, task) fun fr =>
    if fr.asked.contains ins then { fr with answers := fr.answers ++ [(ins, v)] } else fr) cell

/-- The answer to a request reaches the firing that asked, where it is still in flight. -/
def answerFiring (s : State) (q : SeqReq) (v : Option (BitVec 32)) : State :=
  if q.late then touchCell s q.cell else giveAnswer s q.cell q.task q.ins v

/-- What an accepted request changes in the member context (R356, R357); a leave of a context that has ended, nothing. -/
def acceptRequest (s : State) (q : SeqReq) (v : BitVec 32) : State :=
  let note := if q.late then lateColl else noteColl
  if 256 ≤ q.ins then s
  else match q.kind with
  | .join m p => note (modCtx s q.asid fun x => { x with joined := x.joined ++ [(q.group, m, p)] }) q.cell (.join q.group)
  | .leave => modCtx s q.asid fun x => { x with joined := x.joined.filter fun j => j.1 != q.group }
  | .number site inst => note s q.cell (.num q.group site inst v)
  | _ => s

/-- One message of the channel. The announcement of a number that is finished and that now lies ahead is of a new number: numbers
come round (R360). -/
def takeMsg (s : State) (m : SeqMsg) : State :=
  match m with
  | .announce n g bad =>
    if (localNum s n).any fun l => !numDone l || s.collective.lastFinished.any fun f => !ahead f n then s
    else { s with collective := { s.collective with numbers := (s.collective.numbers.filter (·.number != n)) ++
        [{ number := n, group := g, members := membersNow s g, posted := [], state := .announced, go := false
           cancelNotice := inGap s.collective n, failNotice := bad, part := .none }] } }
  | .answer c t i v =>
    (match s.collective.requests.find? fun q => sameAsker q c t i with
     | some q => answerFiring (acceptRequest (dropRequest s q) q v) q (some v)
     | none => s)
  | .refuse c t i =>
    (match s.collective.requests.find? fun q => sameAsker q c t i with
     | some q => answerFiring (dropRequest s q) q none
     | none => s)

/-- COLLECTIVE_ANNOUNCE: the next message of the ordered channel. -/
def execCollectiveAnnounce (s : State) : Host.Outcome State Fault Refusal :=
  if onPrimary s then
    match s.collective.channel with
    | m :: r => .next (takeMsg { s with collective := { s.collective with channel := r } } m)
    | [] => .next s
  else if s.collective.primary.isNone then .next s
  else
    match s.args.msg with
    | some m => .next (takeMsg s m)
    | none => .next s

/-- What R365 compares of two cards. -/
def cardsAgree (a b : Vector Lane 16) : Bool :=
  let x := parseCard a
  let y := parseCard b
  x.jop == y.jop && x.fmt == y.fmt && cardRop x == cardRop y && cardRoot x == cardRoot y && x.ral == y.ral && x.wl == y.wl

/-- COLLECTIVE_GO: where the sequencer is here, once every member has posted; posts that differ fail the number (R365). -/
def execCollectiveGo (s : State) : Host.Outcome State Fault Refusal :=
  let n := s.args.n32
  let told : Option Bool :=
    if onPrimary s then
      match s.collective.records.numbers.find? (·.number == n) with
      | some x => if x.go then some (x.posts.any fun p => x.posts.any fun q => !cardsAgree p.2.2 q.2.2) else none
      | none => none
    else if s.collective.primary.isSome then some s.args.flag else none
  match told with
  | some bad => .next (modNum s n fun l => if numDone l || l.cancelNotice then l else { l with go := true, failNotice := l.failNotice || bad })
  | none => .next s

/-- COLLECTIVE_CANCEL_NOTICE: without effect after the go (R364). -/
def execCollectiveCancelNotice (s : State) : Host.Outcome State Fault Refusal :=
  let n := s.args.n32
  let told :=
    if onPrimary s then s.collective.records.numbers.any fun x => x.number == n && x.cancelled
    else s.collective.primary.isSome
  if told then .next (modNum s n fun l => if numDone l || l.go then l else { l with cancelNotice := true }) else .next s

/-! ### Failover (R365, R367) -/

/-- The standby's records after it takes over. LOG 25, DEDUCED. -/
def takenOver (r : SeqRecords) : SeqRecords :=
  { r with next := r.next - 1 + 2 ^ 20, takeovers := r.takeovers + 1, waiting := [] }

/-- Every member package learns of the gap after H: its numbers are cancelled, and event 0xF004 is logged. -/
def noticeGap (s : State) (h : BitVec 32) : State :=
  let c := { s.collective with gaps := s.collective.gaps ++ [h] }
  let s1 := { s with collective := { c with
      numbers := c.numbers.map fun l => if !numDone l && inGap c l.number then { l with cancelNotice := true } else l } }
  (s1.contexts.filter fun ax => !ax.2.joined.isEmpty).foldl (fun z ax => logEvent z ax.1 0 0xF004 (h + 1)) s1

/-- The package's posts and cancellations that may be pending at the old primary are to be sent again (R367). -/
def sendAgain (s : State) : State :=
  { s with collective := { s.collective with
      requests := s.collective.sent.filter (stillSent s.collective) ++ s.collective.requests, sent := [] } }

/-- The standby becomes the primary, without a standby of its own. -/
def becomePrimary (s : State) : State :=
  let r := s.collective.copy
  sendAgain (noticeGap { s with collective := { s.collective with
      primary := s.collective.standby, standby := none, records := takenOver r } } (r.next - 1))

/-- STANDBY_TAKEOVER: nothing heard for 100,000 ticks. -/
def execStandbyTakeover (s : State) : Host.Outcome State Fault Refusal :=
  if onStandby s && !onPrimary s && decide (100000 ≤ (s.pkg.aocnt - s.collective.lastHeard).toNat) then .next (becomePrimary s)
  else .next s

/-- TAKEOVER_NOTICE: a standby elsewhere has taken over, as every other package learns, the old primary's too. -/
def execTakeoverNotice (s : State) : Host.Outcome State Fault Refusal :=
  match s.collective.standby with
  | none => .next s
  | some p =>
    if onStandby s then .next s
    else .next (sendAgain (noticeGap { s with collective := { s.collective with primary := some p, standby := none } } s.args.n32))

/-- SEQUENCER_FAIL_NO_STANDBY: every pending `CLNUM`, `CLJOIN` and `CLLEAVE` traps `COLLFAIL`. -/
def execSequencerFailNoStandby (s : State) : Host.Outcome State Fault Refusal :=
  if s.collective.primary.isNone || s.collective.standby.isSome then .next s
  else
    let fails := s.collective.requests.filter fun q => classOf q == .number || classOf q == .join || classOf q == .leave
    let s1 := fails.foldl (fun z q => giveAnswer (dropRequest z q) q.cell q.task q.ins none) s
    .next { s1 with collective := { s1.collective with primary := none, channel := [] } }

/-- The groups that a package has a member in, as the records here show; elsewhere the notice names the group. -/
def groupsWith (s : State) (pkg : Nat) : List (BitVec 12) :=
  let of (r : SeqRecords) := (r.groups.filter fun g => g.2.members.any fun m => m.2.1 == pkg).map (·.1)
  if onPrimary s then of s.collective.records
  else if onStandby s then of s.collective.copy
  else [BitVec.ofNat 12 s.args.j]

/-- An announcement on its way, of a number of one of the groups, tells that the number has failed. -/
def failAnnounced (gs : List (BitVec 12)) : SeqMsg → SeqMsg
  | .announce n g bad => .announce n g (bad || gs.contains g)
  | m => m

/-- MEMBER_UNREACHABLE: the unfinished numbers of its groups fail, and the groups are no longer formed (R365). -/
def execMemberUnreachable (s : State) : Host.Outcome State Fault Refusal :=
  let gs := groupsWith s s.args.i
  let cut (r : SeqRecords) : SeqRecords :=
    { gs.foldl (fun z g => withoutMember z g fun m => m.2.1 == s.args.i) r with
      numbers := r.numbers.map fun n => if gs.contains n.group then { n with failed := true } else n }
  .next { s with
    pkg := { s.pkg with unreachable := natInsert s.pkg.unreachable s.args.i }
    collective := { s.collective with
      records := cut s.collective.records
      copy := cut s.collective.copy
      channel := s.collective.channel.map (failAnnounced gs)
      numbers := s.collective.numbers.map fun l => if !numDone l && gs.contains l.group then { l with failNotice := true } else l } }

/-- REACH_LINK_FAIL: collectives in execution re-form without the link and log 0xF00C (16 R428). -/
def execReachLinkFail (s : State) : Host.Outcome State Fault Refusal :=
  if 12 ≤ s.args.i then .next s
  else
    let s1 := { s with pkg := { s.pkg with linksDown := natInsert s.pkg.linksDown s.args.i } }
    let running := s.collective.numbers.filter (·.state == .executing)
    .next (running.foldl (fun z l => (partsOf z l).foldl (fun y a => logEvent y a 0 0xF00C l.number) z) s1)

/-! ### The instructions (R356, R357, R369) -/

def collFail (n : BitVec 32) : TrapInfo := ⟨.collFail, 0, n.toNat, 0, 0⟩

/-- Ask the sequencer, and wait for what it answers: `onAnswer` when it does, `COLLFAIL` when it refuses. A request of the same kind that
a rollback left behind is answered first (16 R423). LOG 25, DEDUCED. -/
def askSequencer (s : State) (u : Cur) (group : BitVec 12) (kind : SeqReqKind) (onAnswer : BitVec 32 → Act) : Act :=
  match u.fr.answers.find? (·.1 == u.ins) with
  | some (_, some v) => onAnswer v
  | some (_, none) => .trap (collFail 0)
  | none =>
    if u.fr.asked.contains u.ins then .wait
    else
      let q : SeqReq := ⟨ownPackage s, asidOf s u.cell, u.cell, u.task, u.ins, group, kind, false⟩
      if s.collective.requests.any (fun r => r.late && (sameAsker r u.cell u.task u.ins || r.asid == q.asid && r.group == group && r.kind == kind))
      then .wait
      else .pause (modFiring { s with collective := { s.collective with requests := s.collective.requests ++ [q] } } u.key
        fun fr => { fr with asked := u.ins :: fr.asked })

/-- One value in every lane (R369). -/
def collValue (s : State) (v : BitVec 32) : Act := oneData s (readOut Fmt.uint32 (broadcast v) 0xFFFF)

def cgrpOf (f : Fields) : BitVec 12 := f.imm.extractLsb' 0 12

def replays (s : State) (u : Cur) : List CollOp :=
  match tget s.instances u.t.inst with
  | some i => i.collReplay
  | none => []

def dropReplay (s : State) (u : Cur) (o : CollOp) : State := modInst s u.t.inst fun i => { i with collReplay := i.collReplay.erase o }

/-- A repeated operation is taken from what a rollback left, and noted anew. -/
def repeatColl (s : State) (u : Cur) (o : CollOp) : State := noteColl (dropReplay s u o) u.cell o

/-- The recorded number of a key that was answered to this member since the cut (16 R423). -/
def replayedNum (s : State) (u : Cur) (g : BitVec 12) (site inst : BitVec 32) : Option (BitVec 32) :=
  (replays s u).findSome? fun o =>
    match o with
    | .num g' a b n => if g' = g ∧ a = site ∧ b = inst then some n else none
    | _ => none

/-- A UINT32 or INT32 operand with lanes 0 and 1 valid. -/
def wantTwo (t : Token) : Option TrapInfo :=
  match wantWord 0 t with
  | some e => some e
  | none => if validAt t 1 then none else some (fmtTrap 0 t.fmt)

def bodyClnum (f : Fields) (s : State) (u : Cur) (o : Opnds) : Act :=
  match o.a with
  | none => .trap illop
  | some a =>
    if a.poison then .control
    else
      match wantTwo a with
      | some e => .trap e
      | none =>
        if s.collective.primary.isNone then .trap (collFail 0)
        else
          match replayedNum s u (cgrpOf f) (laneAt a 0) (laneAt a 1) with
          | some n => collValue (repeatColl s u (.num (cgrpOf f) (laneAt a 0) (laneAt a 1) n)) n
          | none =>
            if !u.fr.asked.contains u.ins && !isJoined s (asidOf s u.cell) (cgrpOf f) then .trap (collFail 0)
            else askSequencer s u (cgrpOf f) (.number (laneAt a 0) (laneAt a 1)) (collValue s)

def execClnum (f : Fields) (s : State) := runIns 0x160 .any f s (bodyClnum f)

/-- The context has posted the number before. -/
def everPosted (s : State) (asid : BitVec 8) (n : BitVec 32) : Bool :=
  hasPosted s asid n || (localNum s n).any fun l => l.posted.contains asid

/-- The number may be posted here (R369): announced for the group and ahead, or finished as CANCELLED. -/
def postable (s : State) (n : BitVec 32) (g : BitVec 12) : Bool :=
  match localNum s n with
  | none => false
  | some l =>
    l.group == g &&
      (match l.state with
       | .announced | .executing => ahead (nextValue s.collective) n
       | .cancelled => true
       | .complete | .failed => false)

/-- The check of a `CLPOST` card. -/
def postTrap (s : State) (u : Cur) (c : Card) : Option TrapInfo :=
  let asid := asidOf s u.cell
  let m := (ctxOf s u.cell).bind fun x => membership x (cardGroup c)
  if c.eng != 4 || c.pop || !collOk c (m.map (·.2)) then some illop
  else if (replays s u).contains (.post (cardNum c)) then none
  else if m.isNone || everPosted s asid (cardNum c) || !postable s (cardNum c) (cardGroup c) then some (collFail (cardNum c))
  else none

/-- Posted at retirement; a release at level 7 (R366). -/
def bodyClpost (_f : Fields) (s : State) (u : Cur) (o : Opnds) : Act :=
  match o.a with
  | none => .trap illop
  | some a =>
    if a.poison then .control
    else
      match wantTag 0 a Fmt.raw with
      | some e => .trap e
      | none =>
        if a.valid != 0xFFFF then .trap (fmtTrap 0 a.fmt)
        else if s.collective.primary.isNone then .trap (collFail 0)
        else
          match postTrap s u (parseCard a.lanes) with
          | some t => .trap t
          | none => .done (later s u (.post a.lanes)) .none noFlags

def execClpost (f : Fields) (s : State) := runIns 0x161 .any f s (bodyClpost f)

/-- Sent at retirement. -/
def bodyClcancel (_f : Fields) (s : State) (u : Cur) (o : Opnds) : Act :=
  match o.a with
  | none => .trap illop
  | some a =>
    if a.poison then .control
    else
      match wantWord 0 a with
      | some e => .trap e
      | none =>
        if s.collective.primary.isNone then .trap (collFail 0)
        else .done (later s u (.cancel (laneAt a 0))) .none noFlags

def execClcancel (f : Fields) (s : State) := runIns 0x162 .any f s (bodyClcancel f)

/-- R370; 0 where no primary is known (R368). -/
def bodyClstat (_f : Fields) (s : State) (u : Cur) (o : Opnds) : Act :=
  match o.a with
  | none => .trap illop
  | some a =>
    if a.poison then .control
    else
      match wantWord 0 a with
      | some e => .trap e
      | none =>
        collValue s (if s.collective.primary.isNone then 0 else BitVec.ofNat 32 (statusCode s (asidOf s u.cell) (laneAt a 0)))

def execClstat (f : Fields) (s : State) := runIns 0x163 .any f s (bodyClstat f)

/-- R356; a repeated join after a rollback has no effect (16 R423). -/
def bodyCljoin (f : Fields) (s : State) (u : Cur) (o : Opnds) : Act :=
  match o.a with
  | none => .trap illop
  | some a =>
    if a.poison then .control
    else
      match wantTwo a with
      | some e => .trap e
      | none =>
        if s.collective.primary.isNone then .trap (collFail 0)
        else if (replays s u).contains (.join (cgrpOf f)) then .done (repeatColl s u (.join (cgrpOf f))) .none noFlags
        else askSequencer s u (cgrpOf f) (.join (laneAt a 0).toNat (laneAt a 1).toNat) fun _ => .done s .none noFlags

def execCljoin (f : Fields) (s : State) := runIns 0x164 .any f s (bodyCljoin f)

/-- R357. -/
def bodyClleave (f : Fields) (s : State) (u : Cur) (_o : Opnds) : Act :=
  if s.collective.primary.isNone then .trap (collFail 0)
  else askSequencer s u (cgrpOf f) .leave fun _ => .done s .none noFlags

def execClleave (f : Fields) (s : State) := runIns 0x165 .any f s (bodyClleave f)

def bodyClquery (f : Fields) (s : State) (u : Cur) (_o : Opnds) : Act :=
  if s.collective.primary.isNone then .trap (collFail 0)
  else askSequencer s u (cgrpOf f) (.query (bits (immN f) 23 22)) (collValue s)

def execClquery (f : Fields) (s : State) := runIns 0x166 .any f s (bodyClquery f)

end Sys2Proof.Machine
end

