-- ==== Sys2Proof/Machine/Recovery.lean ====
section
/-! DEFINITION. The recovery and debug instructions (16_recovery.md R413, R433-R439). -/

namespace Sys2Proof.Machine

/-- The guard mode in force for a page: the greatest of its own, the context's floor, and ALL at service level 1 (R413). -/
def effGuard (s : State) (page : Nat) : Nat :=
  match tget s.pages page with
  | none => 0
  | some p =>
    let floor := match tget s.contexts p.asid with
      | some x => x.guardFloor
      | none => 0
    max (max p.guardMode floor) (if s.pkg.level == 1 then 2 else 0)

def execMark (f : Fields) (s : State) := runIns 0x1A0 .any f s fun s u _ => .done (later s u .mark) .none noFlags

/-- The `SEQ` of the head of the lowest port that a block reads; 0 where it reads none. -/
def lowestSeq (s : State) (u : Cur) : Nat :=
  match (List.range 8).find? fun p => maskBit (hInmask (headerAt u.c u.fr.block)) p with
  | none => 0
  | some p =>
    match portHead s u.cell p with
    | some h => (itemSeq h.item).toNat
    | none => 0

/-- R435: the firing stops with code 0x0E. -/
def bodyTrap (f : Fields) (s : State) (u : Cur) (_o : Opnds) : Act :=
  .trap ⟨.user, 0, immN f % 2 ^ 16, 0, lowestSeq s u⟩

def execTrap (f : Fields) (s : State) := runIns 0x1A1 .any f s (bodyTrap f)

/-- R435: the task is Trapped after its firing has retired in full. -/
def execBrk (f : Fields) (s : State) := runIns 0x1A2 .any f s fun s u _ =>
  .done (later s u (.brk (immN f % 2 ^ 16))) .none noFlags

/-- R439. -/
def bodySluice (f : Fields) (s : State) (u : Cur) (_o : Opnds) : Act :=
  match tget s.instances u.t.inst with
  | none => .trap illop
  | some i =>
    if immN f % 256 < i.sluices.length then .done (later s u (.sluice (immN f % 256) (f.mod == 0))) .none noFlags
    else .trap illop

def execSluice (f : Fields) (s : State) := runIns 0x1A3 .any f s (bodySluice f)

/-- R437. -/
def execReplay (f : Fields) (s : State) := runIns 0x1A4 .any f s fun s u _ =>
  .done (later s u (.replay (immN f % 8))) .none noFlags

/-- R438. -/
def execGuard (f : Fields) (s : State) := runIns 0x1A5 .any f s fun s u _ =>
  .done (later s u (.guardMode f.mod.toNat)) .none noFlags

/-- A read-out of four lanes. -/
def fourLanes (s : State) (l : List Nat) : Act :=
  oneData s (readOut Fmt.uint32 (Vector.ofFn fun i => BitVec.ofNat 32 (l.getD i.val 0)) 0x000F)

/-- R436. -/
def bodyCutstat (_f : Fields) (s : State) (u : Cur) (_o : Opnds) : Act :=
  let i := tget s.instances u.t.inst
  fourLanes s
    [ i.elim 0 (·.lastCut), i.elim 0 (·.cutNow),
      (match pageOf s u.cell with
       | some p => p.transients.toNat
       | none => 0),
      effGuard s u.c.page ]

def execCutstat (f : Fields) (s : State) := runIns 0x1A6 .any f s (bodyCutstat f)

/-- R436. -/
def bodyResumeq (_f : Fields) (s : State) (u : Cur) (_o : Opnds) : Act :=
  fourLanes s
    [ (match pageOf s u.cell with
       | some p => p.resumptions.toNat
       | none => 0),
      (tget s.instances u.t.inst).elim 0 (·.rollbacks.toNat),
      dieOf s u.cell,
      u.fr.resumed.toNat ]

def execResumeq (f : Fields) (s : State) := runIns 0x1A7 .any f s (bodyResumeq f)

end Sys2Proof.Machine
end

