-- ==== Sys2Proof/Machine/Blocks.lean ====
section
/-! DEFINITION. Blocks: the checks on a block's words (03_opcode_map.md R84, R85), the firing rule and the task
arbiter (12_progress_fabric.md R307-R311). -/

namespace Sys2Proof.Machine

/-! ### Checks 1 to 9 of R84 -/

/-- What the checks of a block's words know beside the words: the kind of cell, whether `PMINT` is legal, the
task's banks, registers and Sluices, and the groups' roles. -/
structure CheckEnv where
  kind : CellKind
  pmint : Bool
  banks : Nat
  sregs : Nat
  sluices : Nat
  roleOk : Nat → Nat → Bool
  spawnOk : Nat → Nat → Nat → Bool

def cellMay (k : CellKind) (u : CellUse) : Bool :=
  match u with
  | .both => true
  | .v => k == .v
  | .m => k == .m

/-- A slot of word `n` is named by a word of the block, whatever its place (R52, R54): a word that is not lower fails check 7. -/
def slotNamed (ws : List IWord) (n : Nat) (sl : SlotCode) : Bool :=
  ws.any fun w => targetOf (fieldsOf w).t0 == some (n, sl) || targetOf (fieldsOf w).t1 == some (n, sl)

/-- Check 6 where it depends on more than the word: an immediate beside a named slot (05 R119, 15 R397), an M-cell's
`RDK` (06 R167), and operands bounded by the task, the groups or the instance. -/
def operandOk (e : CheckEnv) (ws : List IWord) (n : Nat) (r : OpRow) (f : Fields) : Bool :=
  let i := f.imm.toNat
  let named (sl : SlotCode) : Bool := slotNamed ws n sl
  let optNamed := (r.opt.testBit 0 && named 0) || (r.opt.testBit 1 && named 1) || (r.opt.testBit 3 && named 3)
  let ptrImm := r.layout == .free || r.code == 0x191
  let maskImm := r.code == 0x0B2 || r.code == 0x0B0
  !((r.layout == .fill || ptrImm || maskImm) && optNamed && i != 0)
    && !(r.code == 0x003 && e.kind == .m)
    && (match r.layout with
        | .tile | .tileRel => decide (tileBase f + tileSize f ≤ e.sregs)
        | .role => bits i 23 22 ≥ 2 || e.roleOk (bits i 19 12) (bits i 11 2)
        | .spawn => e.spawnOk (bits i 23 16) (bits i 15 6) (bits i 5 3)
        | _ => true)
    && !(r.layout == .fill && f.ft == Fmt.ptr && ((r.opt.testBit 1 && !named 1) || (r.opt.testBit 3 && !named 3)))
    && (if r.code == 0x116 || r.code == 0x117 then decide (i % 32 < e.banks) else true)
    && (if r.code == 0x1A3 then decide (i < e.sluices) else true)

/-- Checks 1 to 6 of one word: the first that fails, 0 for none. LOG 19, DEDUCED. -/
def earlyCheck (e : CheckEnv) (ws : List IWord) (n : Nat) (w : IWord) : Nat :=
  match rowOf (opOf w) with
  | none => 1
  | some r =>
    let f := fieldsOf w
    if r.code == 0x197 && !e.pmint then 1
    else if !cellMay e.kind r.cell then 2
    else if f.pr == 3 && !((targetOf f.t0).isSome && (targetOf f.t1).isSome) then 3
    else
      match fieldCheck r f with
      | 0 => if operandOk e ws n r f then 0 else 6
      | k => k

/-- The slots that a legal word uses; slot P is left to check 8. -/
def usesSlot (w : IWord) (sl : SlotCode) : Bool :=
  match rowOf (opOf w) with
  | none => true
  | some r =>
    let q := slotUse r (fieldsOf w)
    sl == 2 || (q.1 ||| q.2).testBit sl.toNat

/-- Check 7 of one target field (R53). -/
def targetOk (e : CheckEnv) (ws : List IWord) (n : Nat) (t : BitVec 10) : Bool :=
  match targetOf t with
  | none => t == 0
  | some (m, sl) =>
    decide (n < m) &&
      (match ws[m]? with
       | none => false
       | some w => earlyCheck e ws m w != 0 || usesSlot w sl)

/-- Check 7 of one word. -/
def targetsOk (e : CheckEnv) (ws : List IWord) (n : Nat) (r : OpRow) (f : Fields) : Bool :=
  let k := (if (targetOf f.t0).isSome then 1 else 0) + (if (targetOf f.t1).isSome then 1 else 0)
  targetOk e ws n f.t0 && targetOk e ws n f.t1
    && (if r.results == 0 then k == 0 else if r.results == 2 then k == 2 else true)

/-- Check 8 of one word. -/
def slotsOk (ws : List IWord) (n : Nat) (r : OpRow) (f : Fields) : Bool :=
  let q := (slotUse r f).1
  let needs (k : Nat) (sl : SlotCode) : Bool := !q.testBit k || slotNamed ws n sl
  let fills := r.layout == .fill && ((r.opt.testBit 1 && !slotNamed ws n 1) || (r.opt.testBit 3 && !slotNamed ws n 3))
  needs 0 0 && needs 1 1 && needs 3 3 && (slotNamed ws n 2 == (f.pr != 0)) && !(fills && f.ft == Fmt.fromOperand)

/-- The greatest memory-order index whose value reaches each word, by instruction index (R57). -/
def valueMo (ws : List IWord) : Nat → List (Option Nat)
  | 0 => []
  | n + 1 =>
    let l := valueMo ws n
    let from_ (m : Nat) : Option Nat :=
      match ws[m]? with
      | none => none
      | some w =>
        let hits (t : BitVec 10) : Bool := (targetOf t).elim false (·.1 == n)
        if hits (fieldsOf w).t0 || hits (fieldsOf w).t1 then maxLevel (moOf w) (l.getD m none) else none
    l ++ [(List.range n).foldl (fun x m => maxLevel x (from_ m)) none]

/-- Check 9 of one word. -/
def orderOk (ws : List IWord) (mos : List (Option Nat)) (n : Nat) (w : IWord) : Bool :=
  match moOf w with
  | none => true
  | some k =>
    !(ws.take n).any (fun x => moOf x == some k)
      && (match mos.getD n none with
          | some j => decide (j ≤ k)
          | none => true)

/-- The first of checks 1 to 9 that a word of a block fails, 0 for none. -/
def wordCheck (e : CheckEnv) (ws : List IWord) (mos : List (Option Nat)) (n : Nat) (w : IWord) : Nat :=
  match earlyCheck e ws n w, rowOf (opOf w) with
  | 0, some r =>
    if !targetsOk e ws n r (fieldsOf w) then 7
    else if !slotsOk ws n r (fieldsOf w) then 8
    else if !orderOk ws mos n w then 9
    else 0
  | k, _ => k

/-- The lowest failing word of a block with the check it fails. -/
def blockFails (e : CheckEnv) (ws : List IWord) : Option (Nat × Nat) :=
  let mos := valueMo ws ws.length
  (List.range ws.length).findSome? fun n =>
    match ws[n]? with
    | none => none
    | some w => match wordCheck e ws mos n w with
      | 0 => none
      | k => some (n, k)

/-- The words of a block. -/
def blockWords (c : Cell) (blk : Nat) : List IWord := (List.range (blockLen c blk)).map (insWord c blk)

/-- A group in use has this cell role, and each of its member cells has task `k` (12 R337). -/
def spawnLegal (s : State) (y : Context) (g r k : Nat) : Bool :=
  let e := roleEntry y g r
  groupUsed y g && decide (r < groupRoles y g) && roleIsCell e
    && (roleMembers y e).all fun m => match m.2.2 with
        | some cell => (tget s.tasks (cell, k)).isSome
        | none => false

/-- What the checks know when a block has been chosen. -/
def runEnv (s : State) (c : Cell) (t : Task) : CheckEnv :=
  let x := (tget s.pages c.page).bind fun p => tget s.contexts p.asid
  { kind := c.kind, pmint := true, banks := t.banks.length, sregs := t.nsregs
    sluices := (tget s.instances t.inst).elim 0 (·.sluices.length)
    roleOk := fun g r => x.elim false fun y => groupUsed y g && decide (r < groupRoles y g)
    spawnOk := fun g r k => x.elim false fun y => spawnLegal s y g r k }

/-! ### What a block names -/

def countOp (c : Cell) (blk : Nat) (p : IWord → Bool) : Nat := ((blockWords c blk).filter p).length

def hasOp (c : Cell) (blk code : Nat) : Bool := (blockWords c blk).any fun w => opOf w == code

def immOf (w : IWord) : Nat := (fieldsOf w).imm.toNat

/-- The output ports that `TEAR` words of a block name. -/
def tearPorts (c : Cell) (blk : Nat) : Nat :=
  (blockWords c blk).foldl (fun m w => if opOf w == 0x173 then m ||| immOf w % 256 else m) 0

/-- A block sends to a port by `WRP` or `SENDT`. -/
def blockSends (c : Cell) (blk p : Nat) : Bool :=
  (blockWords c blk).any fun w => (opOf w == 0x005 || opOf w == 0x007) && immOf w % 8 == p

/-- Slots that a firing of a block needs on an output port (R307, R308). -/
def slotsNeeded (s : State) (cell : Nat) (c : Cell) (blk p : Nat) : Nat :=
  match outArc s cell p with
  | some (_, a) => if a.slots != 0 && maskBit (tearPorts c blk) p && blockSends c blk p then 2 else 1
  | none => 1

/-- Room on an output port for what a block needs; a port bound to no arc needs none. -/
def portRoom (s : State) (cell : Nat) (c : Cell) (blk p : Nat) : Bool :=
  match outArc s cell p with
  | some (k, a) => decide (slotsNeeded s cell c blk p ≤ arcRoom s k a)
  | none => (arcsFrom s cell p).isEmpty

/-- A port's head, when the port presents a token to the firing rule (R307, 16 R411, R419). -/
def presents (s : State) (cell p : Nat) : Bool :=
  match inArc s cell p with
  | none => false
  | some (_, a) =>
    match headOf a with
    | some h => !isTeardown h.item && !isMarker h.item && a.ports.awaiting.isNone
    | none => false

/-! ### Guards (02 R48) -/

/-- The 64-bit constant in the pair k(2m+1):k(2m). -/
def constPair (c : Cell) (m : Nat) : Nat :=
  if h : 2 * m + 1 < 16 then c.consts[2 * m].toNat + 2 ^ 32 * c.consts[2 * m + 1].toNat else 0

/-- The number that a collective guard names. -/
def guardNum (c : Cell) (h : BitVec 128) : BitVec 32 := let k := hGidx h % 16; if hk : k < 16 then c.consts[k] else 0

def guardHolds (s : State) (cell task : Nat) (c : Cell) (t : Task) (h : BitVec 128) (skip : Option Nat) : Bool :=
  match hGuard h with
  | 0 => true
  | 1 => skip == some (hGidx h % 16) || decide (0 < (fifoOf s (asidOf s cell) (hGidx h % 16)).count)
  | 2 => (match bankAt t (hGidx h) with
      | some b => mayTake s (cell, task) b
      | none => false)
  | 3 => (match chainOf s cell (hGidx h / 8) with
      | some (_, ch) => decide (constPair c (hGidx h % 8) ≤ ch.q)
      | none => false)
  | 4 => (match statusCode s (asidOf s cell) (guardNum c h) with
      | 4 => true
      | 5 => true
      | 7 => true
      | _ => false)
  | _ => false

/-- The trap of a block that is merely considered: no header, a reserved guard, a guard on a FAILED number
(02 R48, R49, 13 R365). -/
def considered (s : State) (cell : Nat) (c : Cell) (t : Task) : Option TrapInfo :=
  let h := headerAt c t.block
  if t.state != .waiting || t.frozen || t.firing.isSome || t.draining then none
  else if hSig h != 0x5A || 5 ≤ hGuard h then some ⟨.illop, 0, t.block, 0, 0⟩
  else if hGuard h == 4 && statusCode s (asidOf s cell) (guardNum c h) == 6 then some (collFail (guardNum c h))
  else none

/-- The conditions of R327 on a task's bound input ports. -/
def drainDue (s : State) (cell : Nat) (t : Task) : Bool :=
  let ps := t.ports.filter fun p => !(arcsTo s cell p).isEmpty
  !ps.isEmpty && ps.all (portClosed s cell)

/-! ### The firing rule (R307) -/

/-- Entries that the `CLPOST` instructions of a context's begun firings hold (13 R362). -/
def postsBegun (s : State) (asid : BitVec 8) : Nat :=
  (s.tasks.filter fun kt => asidOf s kt.1.1 == asid).foldl (fun n kt =>
    match kt.2.firing, tget s.cells kt.1.1 with
    | some fr, some c => n + countOp c fr.block (fun y => opOf y == 0x161)
    | _, _ => n) 0

/-- The conditions of the special opcodes that a block holds; `skip` leaves out one token FIFO's pops. -/
def opsReady (s : State) (cell task : Nat) (c : Cell) (t : Task) (blk : Nat) (skip : Option Nat) : Bool :=
  (blockWords c blk).all fun w =>
    let i := immOf w
    let same : IWord → Bool := fun x => opOf x == opOf w && immOf x % 16 == i % 16
    match opOf w with
    | 0x142 => presents s cell (i % 8)
    | 0x0E1 => c.mat.rows.isEmpty
    | 0x0E4 => (fieldsOf w).mod != 1 || c.mat.rows.isEmpty
    | 0x0E2 | 0x0E3 =>
      decide (c.mat.rows.length < 4) &&
        (match rowPort (fieldsOf w) c.mat with
         | some p => (match outArc s cell p with
           | some (k, a) => arcRoom s k a != 0
           | none => true)
         | none => true)
    | 0x0E8 => t.relq.isEmpty
    | 0x116 => (match bankAt t (i % 32) with
        | some b => mayTake s (cell, task) b
        | none => false)
    | 0x117 => (match bankAt t (i % 32) with
        | some b => holdsBank s (cell, task) b
        | none => false)
    | 0x118 =>
      let q := fifoOf s (asidOf s cell) (i % 16)
      decide (q.count + q.resPush + countOp c blk same ≤ 64)
    | 0x119 =>
      let q := fifoOf s (asidOf s cell) (i % 16)
      skip == some (i % 16) || decide (q.resPop + countOp c blk same ≤ q.count)
    | 0x11A =>
      (match chainOf s cell (i % 4) with
       | some (k, ch) =>
         decide (ch.w - ch.q + ch.reserved + (cardsDue s cell k).length + countOp c blk (fun x => opOf x == 0x11A && immOf x % 4 == i % 4) ≤ ch.cards)
       | none => false)
    | 0x161 =>
      (match ctxOf s cell with
       | some x =>
         decide (x.posts.length + postsBegun s (asidOf s cell) + countOp c blk (fun y => opOf y == 0x161) ≤ 256)
       | none => false)
    | _ => true

/-- Block frames of a cell in use and in all (R306). -/
def framesUsed (s : State) (cell : Nat) : Nat := ((tasksOf s cell).filter fun kt => kt.2.firing.isSome).length
def framesOf (k : CellKind) : Nat := if k == .m then 1 else 4

/-- A replica that is parked (12 R323). -/
def replicaParkedAt (s : State) (p : Page) : Bool :=
  match p.stage, tget s.instances p.inst with
  | some g, some i => i.stages.any fun st => st.stage == g && !st.active.contains p.replica
  | _, _ => false

/-- A task's block is firing-ready, but for the pops and the guard of one FIFO where `skip` names it. -/
def readyBut (s : State) (cell task : Nat) (skip : Option Nat) : Bool :=
  match tget s.cells cell, tget s.tasks (cell, task) with
  | some c, some t =>
    let h := headerAt c t.block
    t.state == .waiting && t.firing.isNone && !t.frozen && !t.draining && !drainDue s cell t && cellRuns s cell
      && !(pageOf s cell).any (replicaParkedAt s)
      && (List.range 8).all (fun p => !maskBit (hInmask h) p || presents s cell p)
      && (List.range 8).all (fun p => !maskBit (hOutmask h) p || (portRoom s cell c t.block p && !queuedFor s cell p))
      && guardHolds s cell task c t h skip
      && opsReady s cell task c t t.block skip
      && decide (framesUsed s cell < framesOf c.kind)
      && !(blockWords c t.block).isEmpty
  | _, _ => false

def firingReady (s : State) (cell task : Nat) : Bool := readyBut s cell task none

/-! ### Who takes a FIFO's entry (10 R291) -/

/-- A popper's place in the rotation: instance number, the task's place in its graph, and the chain after its owner. -/
def popperKey (inst : BitVec 32) (decl sub : Nat) : Nat := (inst.toNat * 2 ^ 24 + decl) * 8 + sub

/-- The FIFOs that a block pops, lowest first. -/
def popsOf (c : Cell) (blk : Nat) : List Nat :=
  ((blockWords c blk).filter fun w => opOf w == 0x119).foldl (fun l w => natInsert l (immOf w % 16)) []

/-- The waiting task poppers of a FIFO that could take an entry of it: those that pop a lower FIFO too are first in line there,
as `won` says of each lower FIFO. -/
def taskPoppers (s : State) (asid : BitVec 8) (f : Nat) (won : List (Option Nat)) : List Nat :=
  s.tasks.filterMap fun kt =>
    match tget s.cells kt.1.1 with
    | some c =>
      let key := popperKey kt.2.inst kt.2.decl 0
      let pops := popsOf c kt.2.block
      if asidOf s kt.1.1 == asid && pops.contains f && pops.all (fun g => f ≤ g || won.getD g none == some key)
          && readyBut s kt.1.1 kt.1.2 (some f)
      then some key else none
    | none => none

/-- Where a card of a chain stands in memory; none where it cannot be read. -/
def cardSegs (s : State) (c : Chain) (n : Nat) : Option (List Seg) :=
  (spanOf s { partyOf s c.cell c.task with ponly := false } ⟨0, none⟩ Need.read (cardAddr c n) 64).toOption

/-- The next card of a chain, as it stands in memory. -/
def cardAt (s : State) (c : Chain) (n : Nat) : Vector Lane 16 :=
  match cardSegs s c n with
  | some segs => lanesOfBytes ((homeRead s segs).1.map (·.1))
  | none => Vector.replicate 16 0

/-- Jobs issued and not complete with which a card has an edge (09 R254). -/
def edgesHold (ch : Chain) (c : Card) : Bool := ch.inFlight.any fun j => jobEdge c (parseCard j.card)

/-- A chain's next job is held by nothing but its pop, where it has one. -/
def chainWaits (s : State) (ch : Chain) : Option Card :=
  if ch.stopped || !cellRuns s ch.cell || ch.t ≤ ch.issued then none
  else
    let c := parseCard (cardAt s ch ch.issued)
    if edgesHold ch c then none else some c

def chainKey (s : State) (ch : Chain) : Nat :=
  match tget s.tasks (ch.cell, ch.task) with
  | some t => popperKey t.inst t.decl (ch.num + 1)
  | none => 0

def chainPoppers (s : State) (asid : BitVec 8) (f : Nat) : List Nat :=
  s.chains.filterMap fun kc =>
    match chainWaits s kc.2 with
    | some c => if asidOf s kc.2.cell == asid && c.pop && c.qf == f then some (chainKey s kc.2) else none
    | none => none

/-- The first of the waiting poppers at or after the rotation's point. -/
def firstPopper (point : Nat) (l : List Nat) : Option Nat :=
  let low : List Nat → Option Nat := fun m => m.foldl (fun x k => match x with
    | some y => some (min y k)
    | none => some k) none
  match low (l.filter (point ≤ ·)) with
  | some k => some k
  | none => low l

/-- The popper that is first in line at each FIFO below `n`. LOG 30, DEDUCED. -/
def firstInLine (s : State) (asid : BitVec 8) : Nat → List (Option Nat)
  | 0 => []
  | n + 1 =>
    let won := firstInLine s asid n
    won ++ [firstPopper (fifoOf s asid n).point (taskPoppers s asid n won ++ chainPoppers s asid n)]

/-- A popper may take the FIFO's free entry now. -/
def popGranted (s : State) (asid : BitVec 8) (f key : Nat) : Bool := (firstInLine s asid (f + 1)).getD f none == some key

/-- A task's block is first in line at every FIFO that it pops. -/
def popsGranted (s : State) (cell : Nat) (c : Cell) (t : Task) : Bool :=
  match popsOf c t.block with
  | [] => true
  | l =>
    let won := firstInLine s (asidOf s cell) 16
    l.all fun f => won.getD f none == some (popperKey t.inst t.decl 0)

/-- LOG 30, DEDUCED. -/
def movePoint (s : State) (asid : BitVec 8) (f key : Nat) : State := modFifo s asid f fun q => { q with point := key + 1 }

/-! ### The choice (R308, R311) -/

def taskCount (c : Cell) : Nat := if c.kind == .m then 4 else 8

def pointerAt (c : Cell) (level : Nat) : Nat := if level == 1 then c.ptr1 else c.ptr0

def setPointer (s : State) (cell level n : Nat) : State :=
  modCell s cell fun c => if level == 1 then { c with ptr1 := n % taskCount c } else { c with ptr0 := n % taskCount c }

/-- A task that would be chosen: ready, and first in line for the FIFO entry it pops. -/
def choosable (s : State) (cell : Nat) (c : Cell) (n level : Nat) : Bool :=
  match tget s.tasks (cell, n) with
  | some t => t.prio == level && firingReady s cell n && popsGranted s cell c t
  | none => false

def scanFrom (s : State) (cell : Nat) (c : Cell) (level : Nat) : Option Nat :=
  let k := taskCount c
  ((List.range k).map fun i => (pointerAt c level + i) % k).find? fun n => choosable s cell c n level

/-- The level and the task of the next choice. A task that waits for its turn at a FIFO is not Ready, and holds no other back (10 R291). -/
def nextChoice (s : State) (cell : Nat) (c : Cell) : Option (Nat × Nat) :=
  match scanFrom s cell c 1 with
  | some n => some (1, n)
  | none => (scanFrom s cell c 0).map fun n => (0, n)

/-- The ports whose heads a firing of a block would take, their ECC checked (16 R411). -/
def headsChecked (s : State) (cell : Nat) : List Nat → State × HeadFound × Nat
  | [] => (s, .clear, 0)
  | p :: r =>
    match inArc s cell p with
    | none => headsChecked s cell r
    | some (k, _) =>
      match headCheck s k with
      | (s', .clear) => headsChecked s' cell r
      | (s', x) => (s', x, p)

/-- The slots of the output ports reserved (R308). -/
def reserveArcs (s : State) (cell : Nat) (c : Cell) (blk : Nat) : List Nat → State × List Nat
  | [] => (s, [])
  | p :: r =>
    match outArc s cell p with
    | none => reserveArcs s cell c blk r
    | some (k, _) =>
      let n := slotsNeeded s cell c blk p
      let x := reserveArcs (modArc s k fun a => { a with reserved := a.reserved + n }) cell c blk r
      (x.1, List.replicate n k ++ x.2)

/-- One FIFO entry or card slot reserved for each instruction that needs one. -/
def reserveOps (s : State) (cell : Nat) : List IWord → State × List Nat × List Nat × List Nat
  | [] => (s, [], [], [])
  | w :: r =>
    let asid := asidOf s cell
    let f := immOf w % 16
    match opOf w with
    | 0x118 =>
      let x := reserveOps (modFifo s asid f fun q => { q with resPush := q.resPush + 1 }) cell r
      (x.1, f :: x.2.1, x.2.2)
    | 0x119 =>
      let x := reserveOps (modFifo s asid f fun q => { q with resPop := q.resPop + 1 }) cell r
      (x.1, x.2.1, f :: x.2.2.1, x.2.2.2)
    | 0x11A =>
      (match chainOf s cell (immOf w % 4) with
       | some (k, _) =>
         let x := reserveOps (modChain s k fun c => { c with reserved := c.reserved + 1 }) cell r
         (x.1, x.2.1, x.2.2.1, k :: x.2.2.2)
       | none => reserveOps s cell r)
    | _ => reserveOps s cell r

/-- Why a chosen block does not begin: outside the code pointer (15 R383), an illegal word (R85), `PMINT` outside the
loader's context (R88), or a row on an invalid route entry (06 R181). With the index that `TINS` names. The record of a
`PMINT` outside the loader's context has `TINS` 0xFF and `TAUX` 0 (LOG 32, DESIGN CHOICE). -/
def blockTrap (s : State) (c : Cell) (t : Task) : Option (TrapInfo × Nat) :=
  if t.block < t.codeLo || t.codeHi < t.block + blockLen c t.block + 2 then some (⟨.perm, 0, t.block, 0, 0⟩, 0xFF)
  else
    match blockFails (runEnv s c t) (blockWords c t.block) with
    | some (n, k) => some (⟨.illop, k, t.block + 2 + n, 0, 0⟩, n)
    | none =>
      if hasOp c t.block 0x197 && !((tget s.instances t.inst).elim false (·.loader)) then some (trapOf .perm, 0xFF)
      else
        let badRow (n : Nat) : Bool :=
          let w := insWord c t.block n
          (opOf w == 0x0E2 || opOf w == 0x0E3) && (fieldsOf w).imm.getLsbD 3 && (currentRoute c.mat).isNone
        match (List.range (blockLen c t.block)).find? badRow with
        | some n => some (⟨.illop, 0, t.block + 2 + n, 0, 0⟩, n)
        | none => none

/-- A word of the block whose ECC error could not be repaired keeps the firing from beginning (03 R86). LOG 19, DEDUCED. -/
def blockBad (c : Cell) (blk : Nat) : Bool := c.badWords.any fun a => decide (blk ≤ a ∧ a < blk + blockLen c blk + 2)

/-- THE FIRING BEGINS (R308): its reservations are made, and the acquires of its guard and of a restart act. -/
def beginFiring (s : State) (cell task : Nat) (c : Cell) (t : Task) : State :=
  let h := headerAt c t.block
  let ports (m : Nat) : List Nat := (List.range 8).filter (maskBit m)
  let s := (readPorts c t.block).foldl (fun z p => pinPort z cell p) s
  let x := reserveArcs s cell c t.block (ports (hOutmask h))
  let y := reserveOps x.1 cell (blockWords c t.block)
  let s := (popsOf c t.block).foldl (fun z f => movePoint z (asidOf s cell) f (popperKey t.inst t.decl 0)) y.1
  let s := match hGuard h, bankAt t (hGidx h) with
    | 2, some b => acquireAt (takeBank s (cell, task) b) c.page 7
    | 3, _ => acquireAt s c.page 5
    | 4, _ => acquireAt s c.page 7
    | _, _ => s
  let s := if t.acqAll then acquireAt s c.page 7 else s
  touchCell (setTask s (cell, task) { t with
    state := .firing, acqAll := false, resumed := false
    firing := some
      { block := t.block, done := [], got := [], resArcs := x.2, resPush := y.2.1, resPop := y.2.2.1, resCards := y.2.2.2
        popped := [], parts := [], sends := [], writes := [], exit := none, raised := noFlags, deferred := []
        relLevel := none, relMo := 0, relDone := false, asked := [], answers := [], time := none, count := none
        guard := effGuard s c.page, resumed := t.resumed } }) cell

/-- A fault left pending is taken as a trap (07 R206). -/
def takePending (s : State) (cell task : Nat) (t : Task) (x : TrapInfo × Nat) : State :=
  let s := setTask s (cell, task) { t with traps := t.traps.drop 1 }
  let s := takeTrapFrom s x.2 cell task x.1 0xFF
  match tget s.cells x.2 with
  | some c => if c.kind == .t then slotTrapTaken s x.2 x.1 else s
  | none => s

/-- The chosen task: its heads, its pending faults, and its block are checked, and its firing begins; a frame found faulty by the
heads' check freezes what has begun (16 R411, R417). -/
def chooseTask (s : State) (cell : Nat) (c : Cell) (level n : Nat) (t : Task) : State :=
  match headsChecked s cell (readPorts c t.block) with
  | (s', .awaiting, _) => s'
  | (s', .lost q, p) => takeTrap s' cell n (gapTrap p q) 0xFF
  | (s', .clear, _) =>
    let t : Task := { t with frozen := (tget s'.tasks (cell, n)).any fun x => x.frozen }
    let s1 := setPointer s' cell level (n + 1)
    match t.traps with
    | x :: _ => takePending s1 cell n t x
    | [] =>
      if blockBad c t.block then s'
      else
        match blockTrap s1 c t with
        | some (info, ins) => takeTrap s1 cell n info ins
        | none => beginFiring s1 cell n c t

/-- A choice of a cell's arbiter that takes a task, where one is ready or has a trap to take. -/
def arbiterChoice (s : State) (cell : Nat) (c : Cell) : State :=
  match (tasksOf s cell).findSome? fun kt => (considered s cell c kt.2).map fun i => (kt.1, i) with
  | some (n, i) => takeTrap s cell n i 0xFF
  | none =>
    match nextChoice s cell c with
    | none => s
    | some (level, n) =>
      match tget s.tasks (cell, n) with
      | some t => chooseTask s cell c level n t
      | none => s

/-- ARBITER_CHOICE (R311): one choice of the arbiter of cell `args.i`. While power exceeds the cap with every region at its floor,
whole choices leave the block frame idle (18 R452): which ones do is open (LOG 2, DESIGN CHOICE). -/
def execArbiterChoice (s : State) : Host.Outcome State Fault Refusal :=
  let cell := s.args.i
  match tget s.cells cell with
  | none => .next s
  | some c =>
    if !cellRuns s cell then .next s
    else if !s.pkg.idleChoices then .next (arbiterChoice s cell c)
    else if Config.choiceIdle s.free then .next (freshChoice s)
    else .next (arbiterChoice (freshChoice s) cell c)

end Sys2Proof.Machine
end

