-- ==== Sys2Proof/Machine/Ports.lean ====
section
/-! DEFINITION. Ports: acceptance, Spillways, orphans, replay, teardown and drains, and `SPAWN` requests
(02_encoding.md R35, R39-R41, 12_progress_fabric.md R319-R333, R337, 13_progress_watch.md R345-R349,
16_recovery.md R410-R412). -/

namespace Sys2Proof.Machine

/-! ### Ports that close while others hold tokens (12 R328) -/

/-- The port holds a token for an instruction: one that is neither a teardown token nor a marker. -/
def portHolds (s : State) (cell port : Nat) : Bool :=
  (arcsTo s cell port).any fun ka => ka.2.queue.any fun x => x.held && !isTeardown x.item && !isMarker x.item

/-- The two ports of a `PREDCOUNT`: one read by the current block and closed, another that still holds a token (R328). -/
def countMismatch (s : State) (cell : Nat) (c : Cell) (t : Task) : Option (Nat × Nat) :=
  ((readPorts c t.block).find? (portClosed s cell)).bind fun p =>
    (t.ports.find? fun q => q != p && portHolds s cell q).map fun q => (p, q)

def countsTrap (p q : Nat) : TrapInfo := ⟨.predCount, 0, p + 256 * q, 0, 0⟩

/-- R328, for each waiting task of a cell. -/
def checkCounts (s : State) (cell : Nat) : State :=
  match tget s.cells cell with
  | none => s
  | some c =>
    (tasksOf s cell).foldl (fun z kt =>
      if kt.2.state != .waiting || kt.2.frozen || kt.2.draining then z
      else
        match countMismatch s cell c kt.2 with
        | some (p, q) => takeTrap z cell kt.1 (countsTrap p q) 0xFF
        | none => z) s

/-! ### Bindings and replicas (R315, R317, R323) -/

/-- The binding-table entry of a member (R315). -/
def bindingWord (s : State) (page : Nat) (cell : Option Nat) : BitVec 32 :=
  match tget s.pages page with
  | none => 0
  | some p =>
    let parked := BitVec.ofBool (replicaParkedAt s p)
    let site : BitVec 6 := match cell.bind (tget s.cells ·) with
      | some c => BitVec.ofNat 3 c.sx ++ BitVec.ofNat 3 c.sy
      | none => 0
    match p.frame with
    | some f => 1#1 ++ parked ++ BitVec.ofNat 2 f.die ++ BitVec.ofNat 4 f.x ++ BitVec.ofNat 4 f.y ++ site ++ 0#14
    | none => 0#1 ++ parked ++ 0#10 ++ site ++ 0#14

/-- A context's binding table written anew from its members' places. -/
def rebind (s : State) (asid : BitVec 8) : State :=
  modCtx s asid fun x => { x with bindings := x.members.map fun m => (m.1, bindingWord s m.2.1 m.2.2) }

/-- The tasks of one replica of a stage changed. -/
def modReplica (s : State) (inst : BitVec 32) (stage r : Nat) (g : Task → Task) : State :=
  { s with tasks := tmap s.tasks fun k t =>
      match pageOf s k.1 with
      | some p => if p.inst == inst && p.stage == some stage && p.replica == r then g t else t
      | none => t }

/-- A replica activated: its parked tasks wait again, or its drain is cancelled (R323). -/
def activateReplica (s : State) (inst : BitVec 32) (stage r : Nat) : State :=
  let s := modInst s inst fun i =>
    { i with stages := i.stages.map fun st =>
        if st.stage == stage then
          { st with active := if st.active.contains r then st.active else natInsert st.active r
                    draining := if st.draining == some r then none else st.draining }
        else st }
  let s := modReplica s inst stage r fun t => if t.state = .parked then { t with state := .waiting } else t
  let cells := s.cells.filter fun kc => (pageOf s kc.1).any fun p => p.inst == inst && p.stage == some stage && p.replica == r
  let s := cells.foldl (fun z kc => checkCounts z kc.1) s
  match tget s.instances inst with
  | some i => rebind s i.asid
  | none => s

/-- The replica at the consumer's end of an arc is activated, if it is parked, to drain (R326). -/
def activateConsumer (s : State) (a : Arc) : State :=
  match pageOf s a.cCell with
  | some p =>
    (match p.stage with
     | some g => if replicaParkedAt s p then activateReplica s p.inst g p.replica else s
     | none => s)
  | none => s

/-! ### Scopes (09 R240-R244) -/

/-- What may lie in a scope: a cell, the copy engines of a die, the package's engines, the parties of another package of the
domain, or the host and the collective engines. -/
inductive ScopeParty where
  | cell (cell : Nat)
  | copyEngines (die : Nat)
  | packageEngines
  | domain (pkg : Nat)
  | host
  deriving DecidableEq, Repr

/-- Cell `q` lies in what level `l` adds to the scope of cell `p` (R240); a page that is not placed belongs to no scope (R241). -/
def levelHolds (s : State) (p q : Nat) (l : Nat) : Bool :=
  let placed := (pageOf s p).any (·.frame.isSome) && (pageOf s q).any (·.frame.isSome)
  let inRole (g r : Nat) : Bool :=
    (ctxOf s p).any fun x => (roleMembers x (roleEntry x g r)).any fun m => m.2.1 == pageIdOf s q
  placed && match l with
  | 0 => p == q
  | 1 => pageIdOf s p == pageIdOf s q
  | 2 => ((tget s.cells p).bind (·.role)).any fun gr => inRole gr.1 gr.2
  | 3 => ((tget s.cells p).bind (·.role)).any fun gr =>
      (ctxOf s p).any fun x => (List.range (groupRoles x gr.1)).any fun r => inRole gr.1 r
  | 4 => asidOf s p == asidOf s q && dieOf s p == dieOf s q
  | _ => asidOf s p == asidOf s q

/-- A party lies in what level `l` adds to the scope of cell `p` (R240). -/
def partyHolds (s : State) (p : Nat) (q : ScopeParty) (l : Nat) : Bool :=
  let placed := (pageOf s p).any (·.frame.isSome)
  match q with
  | .cell c => levelHolds s p c l
  | .copyEngines d => placed && l == 4 && dieOf s p == d
  | .packageEngines => placed && l == 5
  | .domain n => placed && l == 6 && reachable s n
  | .host => placed && l == 7

/-- Scopes nest: the level-`l` scope of cell `p` holds the party. -/
def scopeHolds (s : State) (p : Nat) (q : ScopeParty) (l : Nat) : Bool := (List.range (l + 1)).any (partyHolds s p q)

/-- The level-`l` scope of cell `p` holds cell `q`. -/
def inScope (s : State) (p q l : Nat) : Bool := scopeHolds s p (.cell q) l

/-- The union level of an arc (R244); 7 where an end is not placed (LOG 33, DESIGN CHOICE). -/
def unionLevel (s : State) (a : Arc) : Nat :=
  ((List.range 8).find? fun l => inScope s a.pCell a.cCell l && inScope s a.cCell a.pCell l).getD 7

/-- The level that a release token carries from its acceptance on. -/
def carriedLevel (s : State) (a : Arc) (l : Option Nat) : Option Nat :=
  l.map fun x => max x (max (unionLevel s a) (a.weir.getD 0))

/-! ### What arrives (02 R34, R35, R41) -/

/-- The fixed fields of a token's kind are as R34's table gives. -/
def fixedOk (t : Token) : Bool :=
  let zeroFrom (k : Nat) : Bool := (List.range 16).all fun i => decide (i < k) || laneAt t i == 0
  match t.kind.toNat with
  | 0 => true
  | 1 | 2 => t.fmt == 0 && t.valid == 1 && zeroFrom 1
  | 3 => t.fmt == 0 && t.valid == 1 && zeroFrom 1 && decide ((laneAt t 0).toNat < 8)
  | 4 => (t.fmt == Fmt.cb4 || t.fmt == Fmt.cb4s) && t.valid == 0x00FF && zeroFrom 8
  | 5 => t.fmt == 0 && t.valid == 0 && zeroFrom 0
  | _ => false

/-- A form that no producer can send is taken as a poisoned data token (R35). -/
def mended (t : Token) : Token :=
  if decide (0x1C ≤ t.fmt.toNat) || !fixedOk t then { t with kind := Kind.data, poison := true } else t

/-- A data token whose `BHEAD` disagrees with the consumer's count is poisoned, and the count moves (R41). -/
def burstCheck (a : Arc) (t : Token) : Token × Nat :=
  if t.kind != Kind.data then (t, a.ports.cData)
  else
    let due := decide (a.ports.cData % a.burst = 0)
    (if t.bhead == due then t else { t with poison := true }, a.ports.cData + 1)

/-- A data token by kind, which the counts of R41 count. -/
def isDataToken : Item → Bool
  | .data t => t.kind == Kind.data
  | _ => false

/-- The port's count of data tokens as it stood before its head: those accepted and not given up, in slots and in the arc's Spillway
queue, are counted since. -/
def headDue (s : State) (arc : Nat) (a : Arc) : Nat :=
  let queued := match spillOf s arc a with
    | some (_, _, z) => z.items
    | none => []
  a.ports.cData - (a.queue.filter (·.held) ++ queued).countP fun x => isDataToken x.item

/-- A copy that fills the head of a port, as the port takes it: mended, and checked against the count that the head had (R41). -/
def arriveHead (s : State) (arc : Nat) (a : Arc) (it : Item) : Item :=
  match it with
  | .data t => .data (burstCheck { a with ports := { a.ports with cData := headDue s arc a } } (mended t)).1
  | x => x

/-- An item as the consumer port takes it, and the port's data count after it. -/
def arrive (a : Arc) (it : Item) : Item × Nat :=
  match it with
  | .data t => (.data (burstCheck a (mended t)).1, (burstCheck a (mended t)).2)
  | x => (x, a.ports.cData)

/-- A token that is poisoned on arrival is logged (R406). -/
def notePoison (s : State) (a : Arc) (before after : Item) : State :=
  match before, after with
  | .data t, .data u =>
    if u.poison && !t.poison then logEvent s (asidOf s a.cCell) (esrcOf s a.cCell) 0xF007 (BitVec.ofNat 32 a.cPort) else s
  | _, _ => s

/-- What may arrive in place of an offered item: the same encoding. -/
def sameForm (a b : Item) : Bool :=
  match a, b with
  | .data _, .data _ => true
  | .pred _, .pred _ => true
  | .control _ _ _, .control _ _ _ => true
  | .command _ _, .command _ _ => true
  | _, _ => false

/-! ### Gaps and teardown tokens (02 R40, 12 R330) -/

/-- A sequence gap or a lost token at a port falls to the task bound to it: at once where it waits, else at the
retirement of its firing (02 R40). At a tile it falls as 07 R199 gives. -/
def raiseGap (s : State) (cell port : Nat) (q : BitVec 22) : State :=
  match tget s.cells cell with
  | none => s
  | some c =>
    if c.kind = .t then tileGap s cell port q
    else
      match (tasksOf s cell).find? fun kt => kt.2.ports.contains port with
      | none => s
      | some (n, t) =>
        if t.state = .waiting && !t.frozen then takeTrap s cell n (gapTrap port q) 0xFF
        else pendTrap s cell cell n (gapTrap port q)

/-- Teardown tokens at the heads of a port are given up once their task is Drained (R330). -/
def dropTeardowns (s : State) (cell port : Nat) : State :=
  (arcsTo s cell port).foldl (fun z ka =>
    if arcClosed ka.2 && !ka.2.ports.cClosed then
      modArc (giveUp z ka.1) ka.1 fun a => { a with ports := { a.ports with cClosed := true } }
    else z) s

/-- At a port of a Drained task a teardown token is given up at once. -/
def settlePort (s : State) (cell port : Nat) : State :=
  match (tasksOf s cell).find? fun kt => kt.2.ports.contains port with
  | some (_, t) => if t.state = .drained && portClosed s cell port then dropTeardowns s cell port else s
  | none => s

/-! ### Acceptance (02 R40, 09 R225, 12 R332, R333) -/

/-- What the producer learns from an acknowledgement: a row's last token has left flight (06 R182), a stream's slot may be
done (07 R200). -/
def acknowledged (s : State) (arc : Nat) (a : Arc) (q : BitVec 22) : State :=
  match tget s.cells a.pCell with
  | some c =>
    if c.kind = .m then rowAccepted s a.pCell arc q
    else if c.kind = .t then settleSlot s a.pCell a.pPort else s
  | none => s

/-- A back arc's record of the cuts that the consumer's page has saved (16 R419): ended by its marker. -/
def recordItem (a : Arc) (x : SlotTok) : List (Nat × Bool × List SlotTok) :=
  a.recorded.map fun r =>
    if !r.2.1 then r
    else if isMarker x.item then (if markerNum x.item = r.1 then (r.1, false, r.2.2) else r)
    else (r.1, true, r.2.2 ++ [x])

/-- The queue with its first offered token replaced by a held one. -/
def holdFirst (x : SlotTok) : List SlotTok → List SlotTok
  | [] => []
  | y :: r => if y.held then y :: holdFirst x r else x :: r

/-- The queue without its first offered token. -/
def dropFirst : List SlotTok → List SlotTok
  | [] => []
  | y :: r => if y.held then y :: dropFirst r else r

/-- The first offered token of an arc. -/
def offeredHead (a : Arc) : Option SlotTok := a.queue.find? fun x => !x.held

/-- The token enters a slot: held, with its carried level. -/
def acceptSlot (s : State) (arc : Nat) (a : Arc) (x : SlotTok) (it : Item) : State :=
  let y : SlotTok := { x with item := (arrive a it).1, held := true, level := carriedLevel s a x.level }
  let s := setArc s arc { a with
    queue := holdFirst y a.queue, recorded := recordItem a y
    ports := { a.ports with cE := a.ports.cE + 1, cData := (arrive a it).2 } }
  let s := touchCell (addBalance (notePoison s a it y.item) (asidOf s a.cCell) 1) a.cCell
  let s := clearMarkers (acknowledged s arc a (itemSeq it)) arc
  checkCounts (settlePort s a.cCell a.cPort) a.cCell

/-- The copy that a replay source sends: its own where that left it unpoisoned, else one read afresh (R411), under the scale of
its own granule at the head of a burst and under the burst's behind it (04 R101). -/
def replayCopy (s : State) (r : Replay) : Token :=
  if !r.tok.poison then r.tok
  else
    let sc := match r.tok.bhead, r.reads.find? (·.pos == scalePos) with
      | true, some e => byteAt (homeRead s e.segs).1 0
      | _, _ => r.tok.scale
    { readToken s r.tok.fmt r.tok.valid sc false [] r.reads with seq := r.tok.seq, bhead := r.tok.bhead, tag := r.tok.tag }

/-- A transient error at a consumer port: logged, and counted on its page (R405, R406). -/
def noteRecovered (s : State) (a : Arc) : State :=
  let s := modPage s (pageIdOf s a.cCell) fun p => { p with transients := p.transients + 1 }
  logEvent s (asidOf s a.cCell) (esrcOf s a.cCell) 0xF006 (BitVec.ofNat 32 a.cPort)

/-- An uncorrectable error in a token that moves into a Spillway queue (16 R411, R412): it stood at its producer's page until
then (09 R226). -/
def mendEntering (s : State) (arc : Nat) (a : Arc) (x : SlotTok) : State × Option SlotTok :=
  if x.ecc = .good then (s, some x)
  else
    match replayEntry s arc a (itemSeq x.item) with
    | some r => (noteRecovered s a, some { x with item := .data (replayCopy s r), ecc := .good })
    | none =>
      let poisoned : Bool := x.ecc = .payload
      (lastingSlot s (pageIdOf s a.pCell) (asidOf s a.cCell) (esrcOf s a.cCell) a.cPort poisoned,
        if poisoned then some { x with item := poisonItem x.item, ecc := .good } else none)

def modSpill (s : State) (asid : BitVec 8) (q : Nat) (g : SpillQueue → SpillQueue) : State :=
  modCtx s asid fun x => if h : q < 16 then { x with spill := x.spill.set q (g x.spill[q]) } else x

/-- A queue that is attached to no arc, the lowest. -/
def freeQueue (s : State) (asid : BitVec 8) : Option Nat :=
  match tget s.contexts asid with
  | none => none
  | some x => (List.range 16).find? fun q => if h : q < 16 then x.spill[q].arc.isNone else false

/-- The token enters a Spillway queue, which checks it as the port would (R332, 13 R345). -/
def acceptSpill (s : State) (arc : Nat) (a : Arc) (asid : BitVec 8) (q : Nat) (extension : Bool) (x : SlotTok) (it : Item) : State :=
  match mendEntering s arc a { x with item := it } with
  | (s, none) =>
    raiseGap (setArc s arc { a with queue := dropFirst a.queue, ports := { a.ports with gap := some (itemSeq it) } })
      a.cCell a.cPort (itemSeq it)
  | (s, some y) =>
    let raw := y.item
    let y : SlotTok := { y with item := (arrive a raw).1, held := true }
    let s := setArc (notePoison s a raw y.item) arc { a with
      queue := dropFirst a.queue, recorded := recordItem a y
      ports := { a.ports with cE := a.ports.cE + 1, cData := (arrive a raw).2 } }
    let s := modSpill s asid q fun z => { z with arc := some arc, extension := extension, items := z.items ++ [y] }
    let s := freeReplay (addBalance s asid 1) arc a (itemSeq it)
    touchCell (acknowledged s arc a (itemSeq it)) a.cCell

/-- The token is acknowledged and dropped (R333). LOG 30, DEDUCED. -/
def orphan (s : State) (arc : Nat) (a : Arc) (it : Item) : State :=
  let num := match tget s.cells a.cCell with | some c => c.decl | none => 0
  let s := setArc s arc { a with queue := dropFirst a.queue, ports := { a.ports with cE := a.ports.cE + 1 } }
  let s := logEvent s (asidOf s a.pCell) (esrcOf s a.cCell) 0xF001 (BitVec.ofNat 32 (8 * num + a.cPort))
  acknowledged (freeReplay s arc a (itemSeq it)) arc a (itemSeq it)

/-- What becomes of a token that arrives at its number: it stays offered, is dropped, or enters a slot or a Spillway queue. -/
inductive AcceptWay where
  | withheld
  | orphan
  | slot
  | spill (asid : BitVec 8) (queue : Nat) (extension : Bool)
  deriving DecidableEq, Repr

/-- A page saved by a freeze: its channels carry nothing (09 R227). -/
def pageStill (s : State) (page : Nat) : Bool := (tget s.pages page).any fun p => p.frozen && !p.returned

/-- The freeze in progress that takes a page takes the other one too (16 R424): of the freezes that name a page that is freezing,
the first is the one in progress. -/
def oneFreeze (s : State) (page other : Nat) : Bool :=
  (s.freezes.find? fun r => r.pages.contains page).any fun r => r.pages.contains other

/-- A freeze withholds what an arc offers: its producer's page is saved (09 R226, R227), or its consumer's is, or is freezing and the
token comes from outside the region (16 R424). -/
def arcWithheld (s : State) (a : Arc) : Bool :=
  let from_ := pageIdOf s a.pCell
  let to_ := pageIdOf s a.cCell
  pageStill s from_ || pageStill s to_
    || (tget s.pages to_).any fun p => p.freezing && !p.returned && !oneFreeze s to_ from_

/-- A slot that an accepted token may enter. A wire has none, and is held at its producer until then. -/
def slotFree (a : Arc) : Bool := decide (heldCount a < a.slots) || (a.slots == 0 && heldCount a == 0)

/-- The way of a token whose port takes tokens: a consumer in a frame takes it in a slot, behind what its Spillway queue holds; one
without a frame has a queue in place of its slots (12 R332). -/
def openWay (s : State) (arc : Nat) (a : Arc) (p : Page) (it : Item) : AcceptWay :=
  let fits (q : SpillQueue) : Bool := decide (spillUsed q + spillEntries it ≤ 512)
  match p.frame, spillOf s arc a with
  | none, some (asid, q, z) => if fits z && a.slots != 0 then .spill asid q z.extension else .withheld
  | none, none =>
    (match freeQueue s p.asid with
     | some q => if a.slots != 0 then .spill p.asid q false else .withheld
     | none => .withheld)
  | some _, some (asid, q, z) =>
    if z.items.isEmpty && decide (heldCount a < a.slots) then .slot
    else if fits z then .spill asid q z.extension else .withheld
  | some _, none => if slotFree a then .slot else .withheld

/-- The way of a token that arrives at its number (R40, d = 0). LOG 30, DEDUCED. -/
def acceptWay (s : State) (arc : Nat) (a : Arc) (it : Item) : AcceptWay :=
  if arcWithheld s a then .withheld
  else
    match pageOf s a.cCell with
    | none => .orphan
    | some p =>
      if p.returned || portClosed s a.cCell a.cPort || arcClosed a then .orphan
      else if a.armed then .withheld
      else openWay s arc a p it

/-- A token that arrives at its number. -/
def acceptNext (s : State) (arc : Nat) (a : Arc) (x : SlotTok) (it : Item) : State :=
  match acceptWay s arc a it with
  | .withheld => s
  | .orphan => orphan s arc a it
  | .slot => acceptSlot s arc a x it
  | .spill asid q extension => acceptSpill s arc a asid q extension x it

/-- A token is in transit on an arc: offered, and not held back (09 R226). -/
def inTransit (s : State) (arc : Nat) (a : Arc) : Bool :=
  a.ports.gap.isNone && match offeredHead a with
    | some x => acceptWay s arc a x.item != .withheld
    | none => false

/-- The head that a port awaits, filled by a copy (16 R411), which arrives as R35 and R41 give; E and the count do not change. -/
def fillHead (s : State) (arc : Nat) (a : Arc) (raw : Item) : State :=
  let it := arriveHead s arc a raw
  let s := setArc (notePoison s a raw it) arc { a with
    ports := { a.ports with awaiting := none }
    queue := match a.queue with
      | h :: r => { h with item := it, ecc := .good } :: r
      | [] => [] }
  touchCell (noteRecovered s a) a.cCell

/-- TOKEN_ACCEPT (R40): the first offered token of arc `args.i` arrives, or what `args.item` says arrives for it: a copy
sent again, or a form that a fault gave it. -/
def execTokenAccept (s : State) : Host.Outcome State Fault Refusal :=
  let arc := s.args.i
  match tget s.arcs arc with
  | none => .next s
  | some a =>
    if a.ports.gap.isSome then .next s
    else
      match s.args.item, offeredHead a with
      | none, none => .next s
      | none, some x => .next (acceptNext s arc a x x.item)
      | some it, o =>
        let d := (itemSeq it - a.ports.cE).toNat
        if a.ports.awaiting == some (itemSeq it) then
          .next (if cellRuns s a.cCell && a.queue.any (fun h => h.held && sameForm h.item it) then fillHead s arc a it else s)
        else if 2 ^ 21 ≤ d then .next (setArc s arc { a with ports := { a.ports with dups := a.ports.dups + 1 } })
        else
          match o with
          | none => .next s
          | some x =>
            if !sameForm x.item it || arcWithheld s a then .next s
            else if d = 0 then .next (acceptNext s arc a x it)
            else
              .next (raiseGap (setArc s arc { a with ports := { a.ports with gap := some a.ports.cE } }) a.cCell a.cPort a.ports.cE)

/-! ### Spillway queues (13 R345, R349) -/

/-- A queue that is detached once it is empty: an extension is logged. -/
def detachIfEmpty (s : State) (asid : BitVec 8) (q : Nat) (cell : Nat) : State :=
  match tget s.contexts asid with
  | none => s
  | some x =>
    if h : q < 16 then
      let z := x.spill[q]
      if !z.items.isEmpty || z.arc.isNone then s
      else
        let s1 := modSpill s asid q fun _ => ⟨none, false, false, []⟩
        if z.extension then logEvent s1 asid (esrcOf s cell) 0xF003 (BitVec.ofNat 32 q) else s1
    else s

/-- The oldest item of a queue moved to the consumer's slots, where one is free. -/
def passOne (s : State) (asid : BitVec 8) (q : Nat) : State :=
  match tget s.contexts asid with
  | none => s
  | some x =>
    if h : q < 16 then
      let z := x.spill[q]
      match z.arc, z.items with
      | some arc, it :: r =>
        (match tget s.arcs arc with
         | none => s
         | some a =>
           if a.slots ≤ heldCount a then s
           else
             let y : SlotTok := { it with level := carriedLevel s a it.level }
             let held := a.queue.filter (·.held)
             let s1 := setArc s arc { a with queue := held ++ [y] ++ a.queue.filter fun e => !e.held }
             let s2 := modSpill s1 asid q fun w => { w with passed := true, items := r }
             let s3 := clearMarkers (touchCell s2 a.cCell) arc
             checkCounts (settlePort (detachIfEmpty s3 asid q a.cCell) a.cCell a.cPort) a.cCell)
      | _, _ => s
    else s

/-- SPILLWAY_PASS: queue `args.i` of context `args.asid`. -/
def execSpillwayPass (s : State) : Host.Outcome State Fault Refusal :=
  let q := s.args.i
  match tget s.contexts s.args.asid with
  | none => .next s
  | some x =>
    if h : q < 16 then
      match x.spill[q].arc.bind (tget s.arcs ·) with
      | some a =>
        if cellRuns s a.cCell && (pageOf s a.cCell).any (·.frame.isSome) then .next (passOne s s.args.asid q) else .next s
      | none => .next s
    else .next s

/-! ### Replay (16 R411, R437) -/

/-- REPLAY_SEND: the source of arc `args.i` sends what its consumer awaits; where the window holds it no longer, the
head is poisoned, or lost, and the error is a lasting one (R405). -/
def execReplaySend (s : State) : Host.Outcome State Fault Refusal :=
  let arc := s.args.i
  match tget s.arcs arc with
  | none => .next s
  | some a =>
    match a.ports.awaiting with
    | none => .next s
    | some q =>
      if !cellRuns s a.cCell || !cellRuns s a.pCell then .next s
      else
        match replayEntry s arc a q with
        | some r => .next (fillHead s arc a (.data (replayCopy s r)))
        | none =>
          match headOf a with
          | none => .next s
          | some h =>
            let s1 := setArc s arc { a with ports := { a.ports with awaiting := none } }
            if h.ecc = .sideband then
              .next (lastingHead (raiseGap (addBalance (modArc s1 arc fun x =>
                  { x with queue := x.queue.drop 1, ports := { x.ports with gap := some q } }) (asidOf s a.cCell) (-1))
                a.cCell a.cPort q) a false)
            else .next (lastingHead (setHead s1 arc { h with item := poisonItem h.item, ecc := .good }) a true)

/-! ### Drains (R327) -/

/-- The output ports of one instruction word that R327 names. -/
def wordPorts (c : Cell) (w : IWord) : List Nat :=
  let i := immOf w
  let valid (k : BitVec 4) : List Nat := if k.getLsbD 3 then [(k.extractLsb' 0 3).toNat] else []
  match opOf w with
  | 0x0E2 | 0x0E3 => if i.testBit 3 then c.mat.routes.toList.flatMap valid else [i % 8]
  | 0x0E8 =>
    let k := bits i 11 8
    let rw : BitVec 32 := if h : k < 16 then c.consts[k] else 0
    ((List.range 8).filter fun e => rw.getLsbD (24 + e)).map fun e => (rw.extractLsb' (3 * e) 3).toNat
  | 0x140 | 0x141 | 0x143 => [i % 8]
  | _ => []

/-- The output ports of a task (R327 step 4). -/
def taskOuts (c : Cell) (t : Task) : List Nat :=
  (t.blocks.flatMap fun b =>
    (List.range 8).filter (maskBit (hOutmask (headerAt c b))) ++ (blockWords c b).flatMap (wordPorts c)).foldl natInsert []

/-- Every copy of an output port's arc has sent its teardown token. -/
def outClosed (s : State) (cell port : Nat) : Bool := (arcsFrom s cell port).all fun ka => ka.2.ports.pClosed

/-- Another task of the cell, not yet Drained, names the port too. -/
def sharedPort (s : State) (cell task : Nat) (c : Cell) (port : Nat) : Bool :=
  (tasksOf s cell).any fun kt => kt.1 != task && kt.2.state != .drained && (taskOuts c kt.2).contains port

/-- The teardown token as it is formed for an arc (02 R34). -/
def teardownFor (a : Arc) : Item :=
  if a.isPred then .control Kind.teardown 0 0
  else .data { blankToken with valid := 0, kind := Kind.teardown }

/-- A teardown token sent on each copy of a port that has room and has sent none. -/
def sendTeardown (s : State) (cell port : Nat) : State :=
  (arcsFrom s cell port).foldl (fun z ka =>
    match tget z.arcs ka.1 with
    | some a =>
      if a.ports.pClosed || arcRoom z ka.1 a = 0 then z
      else offer (activateConsumer z a) ka.1 (teardownFor a) none
    | none => z) s

/-- The task holds a bank token, which it gives by a release at level 7 (10 R288). -/
def holdsAny (s : State) (key : Nat × Nat) (l : List (Nat × Nat)) : Bool := l.any fun b => holdsBank s key b

/-- The task drains: no further firing, its bank tokens given (steps 1 and 2). -/
def startDrain (s : State) (cell task : Nat) : State :=
  match tget s.tasks (cell, task) with
  | none => s
  | some t => setTask (giveBanks s (cell, task) t.banks) (cell, task) { t with draining := true, restart := false }

/-- The task is Drained; teardown tokens at its ports are given up (R305, R330). -/
def becomeDrained (s : State) (cell task : Nat) : State :=
  match tget s.tasks (cell, task) with
  | none => s
  | some t =>
    let s := setTask s (cell, task) { t with state := .drained, draining := false, restart := false, firing := none }
    t.ports.foldl (fun z p => if portClosed z cell p then dropTeardowns z cell p else z) s

/-- A token of the task's release queue is still queued, or was sent and has not been accepted (step 3). -/
def releaseLeft (s : State) (t : Task) : Bool :=
  !t.relq.isEmpty || t.relSent.any fun x => stillOffered s x.1 x.2

/-- A row in flight sends to the port: its tokens go before the port's teardown token (06 R183). -/
def rowsTo (c : Cell) (port : Nat) : Bool := c.mat.rows.any fun r => r.outPort == port

/-- Steps 3 to 5: the release queue out and accepted, the teardown tokens sent, each on its own port as that has room, Drained. -/
def drainOn (s : State) (cell task : Nat) (c : Cell) (t : Task) : State :=
  let outs := (taskOuts c t).filter fun p => !(arcsFrom s cell p).isEmpty
  if releaseLeft s t then s
  else
    let due := outs.filter fun p => !outClosed s cell p && !sharedPort s cell task c p
    let s := (due.filter fun p => !rowsTo c p).foldl (fun z p => sendTeardown z cell p) s
    if due.all (outClosed s cell) then becomeDrained s cell task else s

/-- TASK_DRAIN: task `args.j` of cell `args.i`. -/
def execTaskDrain (s : State) : Host.Outcome State Fault Refusal :=
  let cell := s.args.i
  let task := s.args.j
  match tget s.cells cell, tget s.tasks (cell, task) with
  | some c, some t =>
    if !cellRuns s cell || t.firing.isSome || !(t.state = .waiting || t.state = .finished) || t.frozen then .next s
    else if t.draining then .next (drainOn s cell task c t)
    else if !drainDue s cell t || (countMismatch s cell c t).isSome && t.state = .waiting then .next s
    else if holdsAny s (cell, task) t.banks && !(unperformed s (cell, task)).isEmpty then .next s
    else
      let s1 := startDrain s cell task
      .next (match tget s1.tasks (cell, task) with
        | some t1 => drainOn s1 cell task c t1
        | none => s1)
  | _, _ => .next s

/-- STREAM_SLOT_TEARDOWN: slot `args.j` of tile `args.i`, its command port closed and its command finished. -/
def execStreamSlotTeardown (s : State) : Host.Outcome State Fault Refusal :=
  let tile := s.args.i
  let j := s.args.j
  match tget s.cells tile with
  | none => .next s
  | some c =>
    if c.kind != .t || 4 ≤ j || !cellRuns s tile || (slotAt c j).state != .idle || !portClosed s tile j then .next s
    else
      let s1 := sendTeardown s tile j
      if outClosed s1 tile j then
        .next (dropTeardowns (if portClosed s1 tile (j + 4) then dropTeardowns s1 tile (j + 4) else s1) tile j)
      else .next s1

/-! ### `SPAWN` (R337) -/

/-- A task restarted: Waiting at its entry block, its first firing an acquire at level 7. -/
def restartTask (t : Task) : Task := { t with state := .waiting, block := t.entry, acqAll := true, firing := none }

/-- The target acts on a request; none where it is held until the page is placed. -/
def spawnAct (s : State) (r : SpawnReq) : Option State :=
  let lost (num : Nat) := logEvent s r.asid (esrcOf s r.cell) 0xF001 (BitVec.ofNat 32 (8 * num))
  match tget s.cells r.cell, pageOf s r.cell, tget s.tasks (r.cell, r.task) with
  | some c, some p, some t =>
    if p.returned || t.state = .drained then some (lost c.decl)
    else if p.frame.isNone then none
    else if t.state = .finished && !p.frozen && !p.freezing then
      some (checkCounts (touchCell (setTask s (r.cell, r.task) (restartTask t)) r.cell) r.cell)
    else some (setTask s (r.cell, r.task) { t with restart := true })
  | some c, _, _ => some (lost c.decl)
  | none, _, _ => some (lost 0)

/-- SPAWN_ARRIVE: request `args.i` of those on their way. -/
def execSpawnArrive (s : State) : Host.Outcome State Fault Refusal :=
  match s.spawns[s.args.i]? with
  | none => .next s
  | some r =>
    match spawnAct s r with
    | none => .next s
    | some s1 => .next { s1 with spawns := s1.spawns.eraseIdx s.args.i }

/-! ### Links (01 R16, 16 R404) -/

/-- FLIT_CRC_RETRY: the flit is sent again and no program sees it. -/
def execFlitCrcRetry (s : State) : Host.Outcome State Fault Refusal := .next s

/-- The edges of a compute die (01 R15): 0 joins the I/O die, 1 the next die counter-clockwise, 2 the next die clockwise. CD`n` is
rotated by n times 90 degrees counter-clockwise, so the next one is CD(n + 1). `edgeAcross` is the die and the edge at the other
end, none for the I/O die. -/
def edgeAcross (n e : Nat) : Option (Nat × Nat) :=
  match e with
  | 1 => some ((n + 1) % 4, 2)
  | 2 => some ((n + 3) % 4, 1)
  | _ => none

/-- Module `k` of edge `e` of a die left out, by package module number. -/
def leaveOut (s : State) (n e k : Nat) : State :=
  if h : n < 4 then
    let d := s.pkg.dies[n]
    if d.modulesOut.contains (e, k) then s
    else { s with pkg := { s.pkg with dies := s.pkg.dies.set n { d with modulesOut := d.modulesOut ++ [(e, k)] } } }
  else s

/-- UCIE_MODULE_EXCLUDE: module `args.k` of edge `args.j` of die `args.i`, which failed training, is left out of its edge, at both
of the edge's ends. -/
def execUcieModuleExclude (s : State) : Host.Outcome State Fault Refusal :=
  let n := s.args.i
  let e := s.args.j
  let k := s.args.k
  if !dieFitted s n || 3 ≤ e || 16 ≤ k then .next s
  else
    match edgeAcross n e with
    | none => .next (leaveOut s n e k)
    | some (m, e') => if dieFitted s m then .next (leaveOut (leaveOut s n e k) m e' k) else .next s

end Sys2Proof.Machine
end

