-- ==== Sys2Proof/Machine/Retire.lean ====
section
/-! DEFINITION. Retirement of a firing (02_encoding.md R55), the performing of memory operations at their homes
(09_order_model.md R235-R252), translation walks, and the writing of trap records. -/

namespace Sys2Proof.Machine

/-! ### Operations that perform (09 R234-R237, R249) -/

/-- The package that an access goes to, when it is not this one. -/
def entryDest (s : State) (e : Pending) : Option Nat :=
  match e.access with
  | .write w => (match w.patches with
      | p :: _ => remoteOf s w.space p.addr
      | [] => none)
  | .atomic a => remoteOf s a.space a.addr
  | .order _ => none

/-- The bytes of two accesses overlap. -/
def overlaps (a b : Pending) : Bool := (accessSegs a.access).any (accessHits b.access)

def isAtomic (e : Pending) : Bool := match e.access with | .atomic _ => true | _ => false

/-- An earlier operation of the task that holds this one back: of a lower index in its firing (R235), overlapping it
(R236), an acquire (R262), an earlier element of the same atomic (10 R282), an earlier card of the same chain (10 R299), or any, of a fence (R250). -/
def holdsBack (e d : Pending) : Bool :=
  let same := d.firing == e.firing && d.mo == e.mo
  (d.firing == e.firing && decide (d.mo < e.mo)) || overlaps e d || (d.holdsLater && !same) || (same && isAtomic e)
    || (e.card.isSome && d.card == e.card) || e.access = .order true

/-- Entry `k` of a task's pending operations may perform now. In one outbound queue, order is kept (R249). -/
def mayApply (s : State) (key : Nat × Nat) (t : Task) (k : Nat) (e : Pending) : Bool :=
  !(t.pending.take k).any (holdsBack e)
    && s.outbound.all fun o => !(o.cell == key.1 && o.task == key.2) || some o.dest == entryDest s e || !holdsBack e o.entry

/-- One operation performs at its home for a page's cell. -/
def performEntry (s : State) (page : Nat) (e : Pending) : State :=
  match e.access with
  | .write w => performWrite s page w
  | .atomic a => (atomicStep s page a).1
  | .order _ => s

/-- The granules that an element of an atomic marks when it performs are the atomic's own for its later elements (10 R268). -/
def ownEntry (marks : List (Space × Nat)) (e d : Pending) : Pending :=
  match d.access with
  | .atomic a => if d.firing == e.firing && d.mo == e.mo then { d with access := .atomic (ownElem marks a) } else d
  | _ => d

/-- A card that has been written is counted in `W` (10 R299). -/
def countCard (s : State) (card : Option Nat) : State :=
  match card with
  | some k => modChain s k fun x => { x with w := x.w + 1 }
  | none => s

/-- One operation of a task, taken out of what is pending or queued, performs. -/
def performOf (s : State) (key : Nat × Nat) (e : Pending) : State :=
  let marks := match e.access with
    | .atomic a => atomicMark s a
    | _ => []
  let page := pageIdOf s key.1
  let s0 := countCard (acquireOf (performEntry s page e) page e.acq) e.card
  let s1 := modTask s0 key fun t => { t with pending := t.pending.map (ownEntry marks e) }
  touchCell { s1 with outbound := s1.outbound.map fun o =>
    if o.cell == key.1 && o.task == key.2 then { o with entry := ownEntry marks e o.entry } else o } key.1

/-- An access may take its place at its home: its granule is held there, or the comparator has room (R237). -/
def mayArrive (s : State) (e : Pending) : Bool :=
  (accessStart e.access).all fun x =>
    let h := homeOf x.1 x.2
    let held := ((standing s).filter fun y => y.home = h).map fun y => (y.space, y.granule)
    held.contains (x.1, x.2 / 64) || (comparatorSize h).all fun n => decide (held.dedup.length < n)

/-- An access that stands at its home is applied when its turn has come (R237, R252). -/
def applyStanding (s : State) (key : Nat × Nat) (t : Task) (k : Nat) (e : Pending) : State :=
  match standingOf key.1 e with
  | none => s
  | some x =>
    if !standsNext s x then s
    else serveHome (performOf (setTask s key { t with pending := t.pending.eraseIdx k }) key e) x.port x.home

/-- A `TRAP` of the operation's own firing has not executed, and needs no memory operation that does not come before this one:
what it stops is not to be stored (16 R429, R441). LOG 19, DEDUCED. -/
def trapAhead (s : State) (cell : Nat) (t : Task) (e : Pending) : Bool :=
  match tget s.cells cell, t.firing with
  | some c, some fr =>
    e.firing == t.firings && hasOp c fr.block 0x1A1 &&
      (let ws := blockWords c fr.block
       let mos := valueMo ws ws.length
       (List.range ws.length).any fun n =>
         !fr.done.contains n && opOf (insWord c fr.block n) == 0x1A1 && (mos.getD n none).all fun k => decide (k < e.mo))
  | _, _ => false

/-- Entry `k` of a task's pending operations arrives at its home and, unless it is only to arrive now, is applied there; or it
enters the outbound queue of its package. An order of operations touches no home. -/
def applyPending (s : State) (key : Nat × Nat) (k : Nat) (atomics stays : Bool) : State :=
  match tget s.tasks key with
  | none => s
  | some t =>
    match t.pending[k]? with
    | none => s
    | some e =>
      if isAtomic e != atomics || !mayApply s key t k e || trapAhead s key.1 t e then s
      else
        match entryDest s e, e.arrived with
        | some d, _ =>
          touchCell (countCard { setTask s key { t with pending := t.pending.eraseIdx k } with
            outbound := s.outbound ++ [⟨d, key.1, key.2, { e with card := none }⟩] } e.card) key.1
        | none, some _ => if stays then s else applyStanding s key t k e
        | none, none =>
          if isOrder e then performOf (setTask s key { t with pending := t.pending.eraseIdx k }) key e
          else if !mayArrive s e then s
          else
            let e1 := { e with arrived := some (nextArrival s) }
            let t1 := { t with pending := t.pending.set k e1 }
            let s1 := setTask s key t1
            if stays then s1 else applyStanding s1 key t1 k e1

/-- ATOMIC_APPLY: entry `args.k` of task (`args.i`, `args.j`) at its home's node; with `args.l` = 1 it only arrives there. -/
def execAtomicApply (s : State) : Host.Outcome State Fault Refusal :=
  .next (applyPending s (s.args.i, s.args.j) s.args.k true (s.args.l == 1))

/-- REMOTE_OUTBOUND_SEND: the oldest access to package `args.i` performs at its home there, in its turn (R252). -/
def execRemoteOutboundSend (s : State) : Host.Outcome State Fault Refusal :=
  match s.outbound.find? (·.dest == s.args.i) with
  | none => .next s
  | some o =>
    let segs := (accessStart o.entry.access).toList.map fun x => (⟨0, 1, x.1, x.2⟩ : Seg)
    if !reachable s o.dest || !homesOpen s .queue segs then .next s
    else .next (servePort (performOf { s with outbound := s.outbound.erase o } (o.cell, o.task) o.entry) .queue segs)

/-- RELEASE_COMPLETE (R245): every operation before the firing's `REL` has performed, those to other packages, up to
level 5, once they have entered the outbound queue (R249). -/
def execReleaseComplete (s : State) : Host.Outcome State Fault Refusal :=
  let key := (s.args.i, s.args.j)
  match tget s.cells key.1, tget s.tasks key with
  | some c, some t =>
    (match t.firing with
     | some fr =>
       (match fr.relLevel with
        | some l =>
          let before (e : Pending) : Bool := decide (e.firing < t.firings) || decide (e.mo < fr.relMo)
          let issued := (List.range (blockLen c fr.block)).all fun m =>
            fr.done.contains m || (match moOf (insWord c fr.block m) with
              | some k => decide (fr.relMo ≤ k)
              | none => true)
          let left := if l ≤ 5 then t.pending.filter fun e => !isOrder e else unperformed s key
          if issued && !left.any before then .next (setTask s key { t with firing := some { fr with relDone := true } })
          else .next s
        | none => .next s)
     | none => .next s)
  | _, _ => .next s

/-- TRANSLATION_WALK: die `args.i` of a context takes up the translation of address `args.j` (15 R385, R388). -/
def execTranslationWalk (s : State) : Host.Outcome State Fault Refusal :=
  if !dieFitted s s.args.i || (tget s.contexts s.args.asid).isNone then .next s
  else
    .next (holdTranslation s
      { page := 0, asid := s.args.asid, inst := 0, die := s.args.i, task := (0, 0), ponly := false } (va57 (s.args.j : Int)))

/-! ### Trap records (16 R430) -/

/-- Records that a trap takes in its ring: two more hold its arc words. -/
def recordLen (r : TrapRec) : Nat := if r.arcs.isEmpty then 1 else 3

/-- TRAP_RECORD_WRITE: the oldest record of context `args.asid` that waits, when the ring has room. -/
def execTrapRecordWrite (s : State) : Host.Outcome State Fault Refusal :=
  match tget s.contexts s.args.asid with
  | none => .next s
  | some x =>
    match x.trapsDue with
    | [] => .next s
    | r :: rest =>
      let g := x.traps
      let n := recordLen r
      if 1024 < (g.wr - g.rd).toNat + n then .next s
      else
        let at_ := g.wr.toNat
        let cleared := (List.range n).foldl (fun t k => tdel t ((at_ + k) % 1024)) g.slots
        .next (raiseNotify (setCtx s s.args.asid { x with
          trapsDue := rest
          traps := { g with
            slots := tput cleared (at_ % 1024) { r with seqn := g.nextSeq }
            wr := g.wr + BitVec.ofNat 64 n, nextSeq := g.nextSeq + 1 } }) 1)

/-! ### What a retirement does -/

/-- The job of a chain changed. -/
def modJob (s : State) (id n : Nat) (g : Job → Job) : State :=
  modChain s id fun ch => { ch with inFlight := ch.inFlight.map fun j => if j.n == n then g j else j }

/-- The push of a finished number is applied: the FIFO has an entry more, and the collective job that it belongs to has no push left to
wait for. -/
def applyPush (s : State) (asid : BitVec 8) (f : Nat) (job : Option (Nat × Nat)) : State :=
  let s := modFifo s asid f fun q => { q with count := q.count + 1 }
  match job with
  | some j => modJob s j.1 j.2 fun x => { x with pushed := true }
  | none => s

/-- A push that its number does not wait for: applied, or due once an entry frees, behind those due before (10 R291). -/
def pushWhenFree (s : State) (asid : BitVec 8) (f : Nat) (job : Option (Nat × Nat)) : State :=
  match tget s.contexts asid with
  | none => s
  | some x =>
    if h : f < 16 then
      if x.fifos[f].duePushes.isEmpty && decide (x.fifos[f].count + x.fifos[f].resPush < 64) then applyPush s asid f job
      else modFifo s asid f fun q => { q with duePushes := q.duePushes ++ [job] }
    else s

/-- A request put on its way to the sequencer. -/
def sendRequest (s : State) (cell task ins : Nat) (g : BitVec 12) (k : SeqReqKind) : State :=
  let q : SeqReq := ⟨ownPackage s, asidOf s cell, cell, task, ins, g, k, false⟩
  { s with collective := { s.collective with requests := s.collective.requests ++ [q] } }

/-- The post record of a number, as a re-executed post finds it. -/
def setPostPush (s : State) (asid : BitVec 8) (n : BitVec 32) (push : Bool) : State :=
  modCtx s asid fun x => { x with posts := x.posts.map fun p => if p.number == n then { p with push := push } else p }

/-- A card posted (13 R362, R364, R369; re-executed after a rollback: 16 R423). -/
def postCard (s : State) (cell task ins : Nat) (inst : BitVec 32) (chain : Option Nat) (job : Nat) (lanes : Vector Lane 16) : State :=
  let c := parseCard lanes
  let n := cardNum c
  let asid := asidOf s cell
  let push := c.push && chain.isNone
  let s1 := modNum (noteColl s cell (.post n)) n fun l => { l with posted := asid :: l.posted.erase asid }
  let again := (tget s.instances inst).any fun i => i.collReplay.contains (.post n)
  let s2 := if again then modInst s1 inst fun i => { i with collReplay := i.collReplay.erase (.post n) } else s1
  let finished := (localNum s n).any numDone
  let entry : Post := ⟨n, cell, task, chain, job, lanes, push, false⟩
  if finished then
    (if push && (localNum s n).any (fun l => l.state != .failed) then pushWhenFree s2 asid c.pf none else s2)
  else if again && hasPosted s asid n then setPostPush s2 asid n push
  else sendRequest (modCtx s2 asid fun x => { x with posts := x.posts ++ [entry] }) cell task ins (cardGroup c) (.post n lanes)

/-- A Sluice armed or opened (16 R439). -/
def setSluice (s : State) (inst : BitVec 32) (index : Nat) (arm : Bool) : State :=
  match (tget s.instances inst).bind fun i => i.sluices[index]? with
  | none => s
  | some d =>
    let s1 := { s with arcs := tmap s.arcs fun _ a => if a.inst == inst && a.decl == d then { a with armed := arm } else a }
    if arm then s1
    else
      (s1.arcs.filter fun ka => ka.2.inst == inst && ka.2.decl == d).foldl
        (fun z ka => touchCell (touchCell z ka.2.pCell) ka.2.cCell) s1

/-- A cut asked for: without effect while one is in progress or ordered (16 R434). -/
def askCut (s : State) (inst : BitVec 32) : State :=
  modInst s inst fun i => if i.cutNow = 0 then { i with cutOrdered := true } else i

/-- One deferred effect at retirement; `book` is the A-side codebook register as the firing found it. What several of one
firing leave follows from the order of `byIns` (LOG 32, DESIGN CHOICE). -/
def applyDeferred (cell task : Nat) (inst : BitVec 32) (book : Book) (level : Option Nat) (s : State) (d : Nat × Deferred) : State :=
  let key := (cell, task)
  let page := pageIdOf s cell
  match d.2 with
  | .setMode m => modTask s key fun t => { t with mode := m, spoilt := t.spoilt.filter (· != .mode) }
  | .clearFlags _ => s
  | .issueRow r => touchCell (modMat s cell fun m => issueRow m book (effGuard s page) r) cell
  | .accumulate => modTask s key fun t => { t with acnt := t.acnt + 1 }
  | .readyTile p => modTask s key fun t => { t with rdy := true, prl := p, acnt := 0, spoilt := t.spoilt.filter (· != .acc) }
  | .releaseTile _ _ port toks =>
    let s1 := modTask s key fun t => { t with rdy := false, prl := false }
    (match port with
     | some p => queueTokens s1 key p toks level
     | none => s1)
  | .pushFifo f => modFifo s (asidOf s cell) f fun q => { q with count := q.count + 1 }
  | .giveBank k => (match (tget s.tasks key).bind fun t => bankAt t k with
      | some b => giveBanks s key [b]
      | none => s)
  | .spawn c t => { s with spawns := s.spawns ++ [⟨asidOf s cell, c, t⟩] }
  | .tear _ => s
  | .event code pay => logEvent s (asidOf s cell) (esrcOf s cell) code pay
  | .yield => (match tget s.tasks key with
      | some t => setPointer s cell t.prio (task + 1)
      | none => s)
  | .prio p => setPointer (modTask s key fun t => { t with prio := p }) cell p (task + 1)
  | .guardMode m => modPage s page fun p => { p with guardMode := m }
  | .sluice i arm => setSluice s inst i arm
  | .mark => askCut s inst
  | .brk _ => s
  | .replay _ => s
  | .post card => postCard s cell task d.1 inst none 0 card
  | .cancel n => sendRequest s cell task d.1 0 (.cancel n)
  | x => modMat s cell fun m => applyMat m x

/-- The ports whose heads the retirement gives up: those of `INMASK`, and those that `SPOP` took. -/
def takenPorts (c : Cell) (fr : Firing) : List Nat :=
  (List.range 8).filter fun p => maskBit (hInmask (headerAt c fr.block)) p || fr.popped.contains p

/-- A head given up, or kept for a copy that `REPLAY` asked for (16 R437). -/
def leaveHead (s : State) (cell : Nat) (c : Cell) (replayed : Bool) (p : Nat) : State :=
  match inArc s cell p with
  | none => s
  | some (k, a) =>
    if !replayed then giveUp s k
    else if (replayEntry s k a (headSeq a)).isSome then modArc s k fun x => { x with ports := { x.ports with awaiting := some (headSeq a) } }
    else logEvent (giveUp s k) (asidOf s cell) (esrcOf s cell) 0xF00B (BitVec.ofNat 32 (8 * c.decl + p))

def replayPorts (fr : Firing) : List Nat :=
  fr.deferred.filterMap fun d => match d.2 with
    | .replay p => some p
    | _ => none

/-- The arc that a firing sends on: the copy it reserved a slot of (12 R319), else the one its port has now. -/
def sendArc (s : State) (cell : Nat) (fr : Firing) (port : Nat) : Option (Nat × Arc) :=
  match (arcsFrom s cell port).find? fun ka => fr.resArcs.contains ka.1 with
  | some x => some x
  | none => outArc s cell port

/-- What a firing sends on one port (R55 step 2), behind release tokens queued for it (06 R197). -/
def sendOne (s : State) (cell task : Nat) (fr : Firing) (x : Nat × Outgoing) : State :=
  match x.2, sendArc s cell fr x.1 with
  | _, none => s
  | .token (.data t), some (k, _) =>
    if queuedFor s cell x.1 then queueTokens s (cell, task) x.1 [t] fr.relLevel else offer s k (.data t) fr.relLevel
  | .token (.pred p), some (k, _) => offer s k (.pred p) fr.relLevel
  | .command c, some (k, _) => offer s k (.command c 0) fr.relLevel

/-- The teardown token that `TEAR` sends on every copy of a port, behind what the same firing sent (R338, R326). -/
def tearPort (s : State) (cell port : Nat) : State :=
  (arcsFrom s cell port).foldl (fun z ka =>
    if ka.2.ports.pClosed then z else offer (activateConsumer z ka.2) ka.1 (teardownFor ka.2) none) s

def tearMask (fr : Firing) : Option Nat :=
  let l := fr.deferred.filterMap fun d => match d.2 with
    | .tear m => some m.toNat
    | _ => none
  if l.isEmpty then none else some (l.foldl (· ||| ·) 0)

def brkOf (fr : Firing) : Option (Nat × Nat) :=
  fr.deferred.findSome? fun d => match d.2 with
    | .brk k => some (d.1, k)
    | _ => none

def clearMasks (fr : Firing) : FlagSet :=
  fr.deferred.foldl (fun m d => match d.2 with
    | .clearFlags x => flagsOr m x
    | _ => m) noFlags

def writeRegs (regs : Vector (Option Token) 16) : List (Nat × Token) → Vector (Option Token) 16
  | [] => regs
  | (k, t) :: r => writeRegs (if h : k < 16 then regs.set k (some t) else regs) r

/-- The lowest instruction of the block that sends to a closed port in this firing (R326). -/
def closedSend (s : State) (cell : Nat) (c : Cell) (fr : Firing) : Option Nat :=
  let shut (p : Nat) : Bool := !(arcsFrom s cell p).isEmpty && outClosed s cell p
  let sent := (fr.sends.map (·.1)).filter shut
  let byWord := (List.range (blockLen c fr.block)).filter fun n =>
    let w := insWord c fr.block n
    sent.contains (immOf w % 8) && fr.done.contains n
      && [0x005, 0x007, 0x140, 0x141, 0x143].contains (opOf w)
  let byUnit := fr.deferred.filterMap fun d => match d.2 with
    | .issueRow r => if shut r.outPort then some d.1 else none
    | .releaseTile _ _ (some p) _ => if shut p then some d.1 else none
    | .tear m => if (List.range 8).any fun p => maskBit m.toNat p && shut p then some d.1 else none
    | _ => none
  (byWord ++ byUnit).foldl (fun m n => some (match m with
    | some k => min k n
    | none => n)) none

/-- The firing's retirement is its task's last: it leaves the task Finished, or Drained by `TEAR` (R49, R338), or a `BRK` leaves it to
be made Finished by CONTINUE (16 R435): what the task gives then is released here (LOG 36, DEDUCED). -/
def lastFiring (c : Cell) (fr : Firing) : Bool :=
  (tearMask fr).isSome || !exitValid (hExit (headerAt c fr.block) (fr.exit.getD 0))

/-- The firing may retire: every instruction executed or nullified, and its releases complete (R245, R337, 13 R366): a last
firing gives the bank tokens that its task holds as `BKGIVE` does (10 R288), and a `TEAR` follows what is queued for its ports. -/
def mayRetire (s : State) (key : Nat × Nat) (c : Cell) (t : Task) (fr : Firing) : Bool :=
  let releases := fr.deferred.any fun d => match d.2 with
    | .spawn _ _ => true
    | .post _ => true
    | _ => false
  let torn := (List.range 8).filter fun p => (tearMask fr).any fun m => maskBit m p
  (List.range (blockLen c fr.block)).all (fun n => fr.done.contains n)
    && (!(lastFiring c fr && holdsAny s key t.banks) || (unperformed s key).isEmpty) && !torn.any (queuedFor s key.1)
    && (fr.relLevel.isNone || fr.relDone) && (!releases || (unperformed s key).isEmpty) && !t.frozen

/-- The exit (R49): `TEAR` takes none and the task is Drained (R338); `BRK` leaves it Trapped (16 R435). -/
def takeExit (s : State) (cell task : Nat) (c : Cell) (fr : Firing) : State :=
  let e := hExit (headerAt c fr.block) (fr.exit.getD 0)
  let next := if exitValid e then some (exitAddr e) else none
  match tget s.tasks (cell, task) with
  | none => s
  | some t =>
    if (tearMask fr).isSome then becomeDrained (giveBanks s (cell, task) t.banks) cell task
    else
      match brkOf fr, next with
      | some (ins, k), _ =>
        queueTrap (setTask s (cell, task) { t with state := .trapped, firing := none, brkExit := next }) cell cell task
          ⟨.brk, 0, k, 0, 0⟩ ins fr.block false [] []
      | none, some a => setTask s (cell, task) { t with state := .waiting, firing := none, block := a }
      | none, none => finishTask s cell task

/-- A `SEQGAP` that arose during the firing is taken at its retirement (02 R40). -/
def takeGap (s : State) (cell task : Nat) : State :=
  match tget s.tasks (cell, task) with
  | none => s
  | some t =>
    if t.state != .waiting then s
    else
      match t.traps.find? fun x => x.1.code == .seqGap && x.2 == cell with
      | some x => takeTrap (setTask s (cell, task) { t with traps := t.traps.erase x }) cell task x.1 0xFF
      | none => s

/-- THE RETIREMENT (R55): heads given up, tokens sent, effects and registers written, the exit taken. -/
def retire (s : State) (cell task : Nat) (c : Cell) (t : Task) (fr : Firing) : State :=
  let key := (cell, task)
  let ports := takenPorts c fr
  let level := ports.foldl (fun l p => maxLevel l ((portHead s cell p).bind (·.level))) t.taken
  let s := ports.foldl (fun z p => leaveHead z cell c ((replayPorts fr).contains p) p) s
  let s := fr.sends.foldl (fun z x => sendOne z cell task fr x) (releaseAll s cell fr)
  let s := match tearMask fr with
    | some m => ((List.range 8).filter (maskBit m)).foldl (fun z p => tearPort z cell p) s
    | none => s
  let s := modTask s key fun t => { t with
    spoilt := if flagsClear (Vector.replicate 16 (-1)) (clearMasks fr) == noFlags then t.spoilt.filter (· != .flags) else t.spoilt
    sregs := writeRegs t.sregs fr.writes, flags := flagsRetire t.flags (clearMasks fr) fr.raised
    taken := level, firings := t.firings + 1 }
  let s := (byIns fr.deferred).foldl (applyDeferred cell task t.inst c.mat.cbA fr.relLevel) s
  let s := modPage s c.page fun p => { p with fireCount := p.fireCount + 1 }
  let s := takeExit (touchCell s cell) cell task c fr
  checkCounts (takeGap s cell task) cell

/-- BLOCK_RETIRE: the firing of task `args.j` of cell `args.i`. -/
def execBlockRetire (s : State) : Host.Outcome State Fault Refusal :=
  let key := (s.args.i, s.args.j)
  match tget s.cells key.1, tget s.tasks key with
  | some c, some t =>
    (match t.firing with
     | none => .next s
     | some fr =>
       if !mayRetire s key c t fr || !cellRuns s key.1 then .next s
       else
         match closedSend s key.1 c fr with
         | some n => .next (takeTrap s key.1 key.2 illop n)
         | none => .next (retire s key.1 key.2 c t fr))
  | _, _ => .next s

end Sys2Proof.Machine
end

