-- ==== Sys2Proof/Machine/Cuts.lean ====
section
/-! DEFINITION. Storage errors, faulty frames, marker cuts, rollback, and the freezing and resumption of pages
(16_recovery.md R404-R406, R417-R427). -/

namespace Sys2Proof.Machine

/-! ### Frames (01 R19, R20, 15 R391) -/

/-- A die's rotation (01 R18). -/
def dieRot (s : State) (die : Nat) : Nat := if h : die < 4 then (s.pkg.dies[die].orient.extractLsb' 2 2).toNat else 0

/-- Package coordinates to die coordinates (R19). -/
def dieCoords (rot x y : Nat) : Nat × Nat :=
  match rot with
  | 0 => (x, y)
  | 1 => (y, 11 - x)
  | 2 => (11 - x, 11 - y)
  | _ => (11 - y, x)

/-- The sites of a die that are no frames, in die coordinates (R20). -/
def noFrames : List (Nat × Nat) := [(0, 3), (0, 4), (0, 7), (0, 8), (11, 5), (11, 6), (5, 0), (5, 11)]

/-- A physical frame, by package coordinates. -/
def isFrame (s : State) (f : FrameId) : Bool :=
  dieFitted s f.die && decide (f.x < 12) && decide (f.y < 12) && !noFrames.contains (dieCoords (dieRot s f.die) f.x f.y)

/-- A die's frames in the order of their frame numbers (12 R321). -/
def dieFrames (s : State) (die : Nat) : List FrameId :=
  ((List.range 12).flatMap fun y => (List.range 12).map fun x => (⟨die, x, y⟩ : FrameId)).filter (isFrame s)

def allFrames (s : State) : List FrameId := (List.range 4).flatMap (dieFrames s)

/-- A frame as it is known; one not yet tested is not exposed (18 R456). -/
def frameAt (s : State) (f : FrameId) : Frame := (tget s.pkg.frames f).getD ⟨false, false, false, false, false, 950, none⟩

def setFrame (s : State) (f : FrameId) (x : Frame) : State := { s with pkg := { s.pkg with frames := tput s.pkg.frames f x } }

def frameTaken (s : State) (f : FrameId) : Bool := s.pages.any fun kp => kp.2.frame == some f && !kp.2.returned

def dieGated (s : State) (n : Nat) : Bool := if h : n < 4 then s.pkg.dies[n].gated || s.pkg.dies[n].mode == 3 else true

/-- A frame in which a page may be placed: exposed, scrubbed, free, on a die that is not gated. -/
def frameFree (s : State) (f : FrameId) : Bool :=
  let x := frameAt s f
  x.exposed && !x.faulty && !x.scrubbing && !frameTaken s f && !dieGated s f.die

/-- The free frames in the order in which the loader takes them: rising, from the one that `args.k` tells on (01 R32, R426;
LOG 7, DESIGN CHOICE). -/
def freeFrames (s : State) : List FrameId := ((allFrames s).filter (frameFree s)).rotateLeft s.args.k

/-- A frame that returns to the pool from a context is scrubbed before it is placed again (15 R391). -/
def scrubFrame (s : State) (asid : BitVec 8) (f : FrameId) : State :=
  setFrame s f { frameAt s f with scrubbing := true, lastCtx := some asid }

/-! ### Resumption (R426) -/

/-- A task as it stands after a resumption: in the state saved, a pending restart of a finished one made (12 R305, R337). -/
def thawTask (t : Task) : Task :=
  let t1 := { t with
    frozen := false, resumed := t.firing.isNone
    firing := t.firing.map fun fr => { fr with resumed := true } }
  if t1.state = .finished && t1.restart then { restartTask t1 with restart := false } else t1

/-- The carried levels of release tokens on a page's arcs raised to the arcs' union levels (09 R244). -/
def raiseLevels (s : State) (page : Nat) : State :=
  { s with arcs := tmap s.arcs fun _ a =>
      if pageIdOf s a.pCell == page || pageIdOf s a.cCell == page then
        { a with queue := a.queue.map fun x => if x.held then { x with level := x.level.map fun l => max l (unionLevel s a) } else x }
      else a }

/-- Tokens of a Spillway queue moved to their consumer's slots, as many as have room (12 R332). -/
def passAll (s : State) (asid : BitVec 8) (q : Nat) : Nat → State
  | 0 => s
  | n + 1 => passAll (passOne s asid q) asid q n

def passQueues (s : State) (page : Nat) (asid : BitVec 8) : State :=
  (List.range 16).foldl (fun z q =>
    match tget z.contexts asid with
    | some x =>
      if h : q < 16 then
        match x.spill[q].arc.bind (tget z.arcs ·) with
        | some a => if pageIdOf z a.cCell == page then passAll z asid q 8 else z
        | none => z
      else z
    | none => z) s

/-- The pages at the other ends of a page's arcs. -/
def neighbours (s : State) (page : Nat) : List Nat :=
  s.arcs.foldl (fun l ka =>
    if pageIdOf s ka.2.pCell == page then natInsert l (pageIdOf s ka.2.cCell)
    else if pageIdOf s ka.2.cCell == page then natInsert l (pageIdOf s ka.2.pCell) else l) []

/-- A page runs again where it stands, its neighbours' quiet counted afresh (13 R342): its tasks in their saved states, its line buffer empty, its bindings rewritten. -/
def thawPage (s : State) (page : Nat) : State :=
  match tget s.pages page with
  | none => s
  | some p =>
    let s := setPage s page { p with frozen := false, freezing := false, lines := [], resumptions := p.resumptions + 1 }
    let s := { s with tasks := tmap s.tasks fun k t => if pageIdOf s k.1 == page then thawTask t else t }
    let s := touchPage (passQueues (raiseLevels (rebind s p.asid) page) page p.asid) page
    let s := (s.cells.filter fun kc => kc.2.page == page).foldl (fun z kc => checkCounts z kc.1) s
    (neighbours s page).foldl touchPage s

/-- A page put into a frame; the frame it leaves is scrubbed (15 R392). -/
def movePage (s : State) (page : Nat) (f : FrameId) : State :=
  match tget s.pages page with
  | none => s
  | some p =>
    let s := match p.frame with
      | some old => if old = f then s else scrubFrame s p.asid old
      | none => s
    setPage s page { p with frame := some f }

/-- Instruction stores and constants of a page's cells from the loader's copy of the image (R417). -/
def rewriteCells (s : State) (page : Nat) : State :=
  { s with cells := tmap s.cells fun _ c =>
      if c.page != page then c
      else
        match (tget s.instances c.inst).bind fun i => tget i.bytesOf c.decl with
        | some (st, k) => { c with store := st, consts := k, badWords := [] }
        | none => { c with badWords := [] } }

/-! ### Storage errors (R404-R406) -/

/-- An event's payload: the unit in [31:28], the index in [27:0] (R406). -/
def unitPay (unit index : Nat) : BitVec 32 := BitVec.ofNat 32 (unit * 2 ^ 28 + index % 2 ^ 28)

/-- A transient error of a page's storage: logged and counted. -/
def transientAt (s : State) (page unit index : Nat) : State :=
  match tget s.pages page with
  | none => s
  | some p =>
    logEvent (setPage s page { p with transients := p.transients + 1 }) p.asid (esrcOfPage s page) 0xF006 (unitPay unit index)

/-- What a lasting error leaves poisoned is logged (R406). -/
def poisonedAt (s : State) (page unit index : Nat) : State :=
  match tget s.pages page with
  | none => s
  | some p => logEvent s p.asid (esrcOfPage s page) 0xF007 (unitPay unit index)

/-- An error of a page's storage: read well at the second attempt, or poisoned as `spoil` says. -/
def pageError (s : State) (lasting : Bool) (page unit index : Nat) (spoil : State → State) : State :=
  if lasting then lastingAt (poisonedAt (spoil s) page unit index) page unit else transientAt s page unit index

/-- A word of a task that holds no token reads poisoned until it is next written (R404, R407). -/
def spoilWord (cell task : Nat) (w : TaskWord) (s : State) : State :=
  modTask s (cell, task) fun t => { t with spoilt := if t.spoilt.contains w then t.spoilt else w :: t.spoilt }

def poisonPlane (cell : Nat) (shadow : Bool) (s : State) : State :=
  modMat s cell fun m =>
    if shadow then { m with shadow := { m.shadow with poison := true } } else { m with active := { m.active with poison := true } }

/-- What an item of a page reads as once it could not be read (R404): a plane by its poison bit, any other item poisoned. -/
def spoilItem (s : State) : ErrorSite → State
  | .slot arc k _ => modArc s arc fun a => { a with queue := a.queue.modify k fun x => { x with item := poisonItem x.item } }
  | .release cell task k => modTask s (cell, task) fun t => { t with relq := t.relq.modify k fun e => (e.1, { e.2.1 with poison := true }, e.2.2) }
  | .tile p g => modPage s p fun x => { x with window := setPoison x.window (64 * g) true }
  | .sreg cell task k => modTask s (cell, task) fun t =>
      if h : k < 16 then { t with sregs := t.sregs.set k (t.sregs[k].map fun x => { x with poison := true }) } else t
  | .modeWord cell task => spoilWord cell task .mode s
  | .flagState cell task => spoilWord cell task .flags s
  | .accumulator cell task => spoilWord cell task .acc s
  | .plane cell shadow => poisonPlane cell shadow s
  | .codebook cell _ => poisonPlane cell false s
  | .cutBuffer p => modPage s p fun x => { x with images := x.images.map fun i => { i with poisoned := true } }
  | _ => s

/-- The page whose saved image holds an item: of a token, the page that owns it (09 R226). -/
def pageOfSite (s : State) : ErrorSite → Option Nat
  | .slot arc k _ => (tget s.arcs arc).map fun a => pageIdOf s (if (a.queue[k]?).any (·.held) then a.cCell else a.pCell)
  | .tile p _ => some p
  | .release cell _ _ | .sreg cell _ _ | .modeWord cell _ | .flagState cell _ | .accumulator cell _ | .plane cell _ | .codebook cell _ =>
    some (pageIdOf s cell)
  | _ => none

/-- An error in the saved image of a frozen page, which stands in context memory: no frame is faulty for it. -/
def imageError (s : State) (lasting : Bool) (e : ErrorSite) : State :=
  match pageOfSite s e with
  | some page =>
    if !(tget s.pages page).any (fun p => p.frozen && !p.returned) then s
    else if lasting then poisonedAt (spoilItem s e) page 2 0
    else transientAt s page 2 0
  | none => s

/-- One error met by its unit's first action; `lasting` says that the second attempt failed. `asid` is the context in
whose log an error of shared memory appears, and `page` the page whose access met it. LOG 26, DEDUCED. -/
def storageError (s : State) (asid : BitVec 8) (page : Nat) (lasting : Bool) : ErrorSite → State
  | .slot arc k sideband =>
    modArc s arc fun a => { a with queue := a.queue.modify k fun x =>
      { x with ecc := if sideband || x.ecc = .sideband then .sideband else .payload } }
  | .release cell task k =>
    match (tget s.tasks (cell, task)).bind fun t => t.relq[k]? with
    | none => s
    | some e =>
      lastingAt (poisonedAt (spoilItem s (.release cell task k)) (pageIdOf s cell) 0 e.1) (pageIdOf s cell) 0
  | .tile p g => pageError s lasting p 1 g (spoilItem · (.tile p g))
  | .memory g =>
    let unit := if g * 64 % 2 ^ 48 < 0x8000000000 then 2 else 3
    if !lasting then logEvent (modPage s page fun p => { p with transients := p.transients + 1 }) asid 0 0xF006 (unitPay unit g)
    else logEvent { s with phys := setPoison s.phys (64 * g) true } asid 0 0xF007 (unitPay unit g)
  | .store cell w =>
    if !lasting then transientAt s (pageIdOf s cell) 4 w
    else lastingAt (modCell s cell fun c => { c with badWords := w :: c.badWords }) (pageIdOf s cell) 4
  | .constant cell k => if lasting then lastingAt s (pageIdOf s cell) 6 else transientAt s (pageIdOf s cell) 6 k
  | .sreg cell task k =>
    pageError s lasting (pageIdOf s cell) 5 k (spoilItem · (.sreg cell task k))
  | .modeWord cell task => pageError s lasting (pageIdOf s cell) 5 task (spoilItem · (.modeWord cell task))
  | .flagState cell task => pageError s lasting (pageIdOf s cell) 5 task (spoilItem · (.flagState cell task))
  | .accumulator cell task => pageError s lasting (pageIdOf s cell) 5 task (spoilItem · (.accumulator cell task))
  | .plane cell shadow => pageError s lasting (pageIdOf s cell) 7 shadow.toNat (spoilItem · (.plane cell shadow))
  | .codebook cell bSide => pageError s lasting (pageIdOf s cell) 7 (2 + bSide.toNat) (spoilItem · (.codebook cell bSide))
  | .spillway a q k =>
    let at_ := ((tget s.contexts a).bind fun x => if h : q < 16 then x.spill[q].arc else none).bind (tget s.arcs ·)
    if !lasting then
      logEvent (match at_ with
        | some arc => modPage s (pageIdOf s arc.cCell) fun p => { p with transients := p.transients + 1 }
        | none => s) a 0 0xF006 (unitPay 8 q)
    else
      logEvent (modSpill s a q fun z => { z with items := z.items.modify k fun x => { x with item := poisonItem x.item } })
        a 0 0xF007 (unitPay 8 q)
  | .cutBuffer p =>
    pageError s lasting p 9 p (spoilItem · (.cutBuffer p))
  | .saved e => imageError s lasting e

/-- UNCORRECTABLE_ERROR: `args.site`, met by page `args.i` of context `args.asid`; `args.flag` where it is lasting. -/
def execUncorrectableError (s : State) : Host.Outcome State Fault Refusal :=
  match s.args.site with
  | some e => .next (storageError s s.args.asid s.args.i s.args.flag e)
  | none => .next s

/-- The record of a page's fault that leaves no task Trapped (R417 step 5). -/
def recordFault (s : State) (f : PageFault) : State :=
  queueTrap s f.cell f.cell f.task f.info f.ins ((tget s.tasks (f.cell, f.task)).elim 0 (·.block)) true [] []

/-- A fault of a page for which no frame is free leaves its task Trapped, once: a further fault of a task is recorded (R417). -/
def trapFault (s : State) (f : PageFault) : State :=
  let info : TrapInfo := if f.info.aux = 2 + 16 * 9 then ⟨.cutFail, 0, 3, 0, 0⟩ else f.info
  if (tget s.tasks (f.cell, f.task)).any (·.state == .trapped) then recordFault s { f with info := info }
  else modTask (takeTrap s f.cell f.task info f.ins) (f.cell, f.task) fun t => { t with frozen := false }

/-- FAULTY_PAGE_RELOCATE (R417): the frozen page of a faulty frame resumes in a free one, with a record of each fault that leaves
no task Trapped; where none is free it stays frozen and a task is Trapped. -/
def execFaultyPageRelocate (s : State) : Host.Outcome State Fault Refusal :=
  let page := s.args.i
  match tget s.pages page with
  | none => .next s
  | some p =>
    if p.faults.isEmpty || !p.frozen then .next s
    else
      let s1 := setPage s page { p with faults := [] }
      match freeFrames s with
      | x :: _ => .next (p.faults.foldl recordFault (thawPage (rewriteCells (movePage s1 page x) page) page))
      | [] => .next (p.faults.foldl trapFault s1)

/-! ### Freezes (R424) -/

/-- Every operation of the list is held by a `TRAP` that has not executed, or held back by one that is: none of them is issued until
the firing goes on. -/
def allHeld (s : State) (cell : Nat) (t : Task) : List Pending → List Pending → Bool
  | _, [] => true
  | held, e :: r => (trapAhead s cell t e || held.any (holdsBack e)) && allHeld s cell t (held ++ [e]) r

/-- A task has nothing left that a freeze waits for: operations issued have performed, and no instruction is under way. -/
def taskQuiet (s : State) (key : Nat × Nat) (t : Task) : Bool :=
  s.outbound.all (fun o => !(o.cell == key.1 && o.task == key.2)) && allHeld s key.1 t [] t.pending
    && match tget s.cells key.1, t.firing with
      | some c, some fr => fr.parts.all fun d => contractRests ⟨key.1, key.2, d.ins, c, t, fr⟩ d
      | _, _ => true

/-- Everything that step 3 of a freeze waits for: its tasks, the token that a stream slot is at, tokens in transit from the page's
ports (09 R226), and jobs issued that are not collective (10 R294). -/
def pageQuiet (s : State) (page : Nat) : Bool :=
  (s.tasks.all fun kt => pageIdOf s kt.1.1 != page || taskQuiet s kt.1 kt.2)
    && (s.cells.all fun kc => kc.2.page != page || (List.range 4).all fun j => !tokenBegun s kc.1 kc.2 j)
    && (s.arcs.all fun ka => pageIdOf s ka.2.pCell != page || !inTransit s ka.1 ka.2)
    && s.chains.all fun kc => pageIdOf s kc.2.cell != page || kc.2.inFlight.all fun j => (parseCard j.card).eng == 4

/-- The freezes after one has gone: those that now meet no earlier one begin. -/
def beginWaiting (s : State) : List FreezeReq → List FreezeReq → State
  | _, [] => s
  | before, r :: rest =>
    beginWaiting (if freezesMeet before r.pages then s else beginFreeze s r.pages) (before ++ [r]) rest

/-- A mailbox command that waited for its end has ended (18 R447, R449). -/
def endMailbox (s : State) (stat : BitVec 8) : State :=
  raiseNotify { s with pkg := { s.pkg with mailbox := { s.pkg.mailbox with stat := stat } } } 3

/-- The first freeze in progress whose pages are quiet, by its place. -/
def freezeDone (s : State) : List FreezeReq → List FreezeReq → Option (Nat × FreezeReq)
  | _, [] => none
  | before, r :: rest =>
    if !freezesMeet before r.pages && r.pages.all (pageQuiet s) then some (before.length, r)
    else freezeDone s (before ++ [r]) rest

/-- FREEZE_COMPLETE: the pages are frozen, and what waited for that goes on. -/
def execFreezeComplete (s : State) : Host.Outcome State Fault Refusal :=
  match freezeDone s [] s.freezes with
  | none => .next s
  | some (n, r) =>
    let rest := s.freezes.eraseIdx n
    let s1 := { s with
      freezes := rest
      pages := tmap s.pages fun k p => if r.pages.contains k then { p with freezing := false, frozen := true, lines := [] } else p }
    let s2 := beginWaiting s1 [] rest
    .next (if r.byMailbox then endMailbox s2 0x00 else s2)

/-! ### Cuts (R418-R421) -/

def pagesOf (s : State) (inst : BitVec 32) : List (Nat × Page) := s.pages.filter fun kp => kp.2.inst == inst

/-- A boundary channel that a cut passes: producer and consumer on different pages of the arc's own instance (an arc to
a page shared with an older instance carries no marker: that page saves with its own). -/
def boundary (s : State) (a : Arc) : Bool :=
  pageIdOf s a.pCell != pageIdOf s a.cCell
    && (pageOf s a.pCell).any (fun p => p.inst == a.inst) && (pageOf s a.cCell).any fun p => p.inst == a.inst

def incoming (s : State) (page : Nat) : List (Nat × Arc) :=
  s.arcs.filter fun ka => pageIdOf s ka.2.cCell == page && boundary s ka.2

def outgoing (s : State) (page : Nat) : List (Nat × Arc) :=
  s.arcs.filter fun ka => pageIdOf s ka.2.pCell == page && boundary s ka.2

/-- A marker as an arc carries it (02 R34). -/
def markerFor (a : Arc) (n : Nat) : Item :=
  if a.isPred then .control Kind.marker (BitVec.ofNat 32 n) 0
  else .data { blankToken with
    lanes := (Vector.replicate 16 0).set 0 (BitVec.ofNat 32 n), valid := 1, kind := Kind.marker }

def headMarker (a : Arc) : Option Nat :=
  match headOf a with
  | some h => if isMarker h.item then some (markerNum h.item) else none
  | none => none

/-- The tokens of an arc that its consumer owns, those in a Spillway queue last, then those still offered. -/
def ownedQueue (s : State) (k : Nat) (a : Arc) : List SlotTok :=
  a.queue.filter (·.held) ++ (match spillOf s k a with
    | some (_, _, z) => z.items
    | none => []) ++ a.queue.filter fun x => !x.held

/-- The numbers that a chain's jobs, issued and not yet counted in its Q, have posted. -/
def postedJobs (s : State) (ch : Chain) : List (BitVec 32) :=
  (List.range' ch.q (ch.issued - ch.q)).filterMap fun n =>
    let c := parseCard (match ch.inFlight.find? (·.n == n) with
      | some j => j.card
      | none => cardAt s ch n)
    if c.eng == 4 then some (cardNum c) else none

/-- A page's image for a cut (R420, R425). -/
def imageOf (s : State) (page n : Nat) (p : Page) : PageImage :=
  let mine (cell : Nat) : Bool := pageIdOf s cell == page
  { cut := n
    cells := s.cells.filter fun kc => kc.2.page == page
    tasks := s.tasks.filter fun kt => mine kt.1.1
    arcs := (s.arcs.filter fun ka => mine ka.2.pCell || mine ka.2.cCell).map fun ka =>
      (ka.1, { ka.2 with queue := ownedQueue s ka.1 ka.2, recorded := [] })
    guardMode := p.guardMode
    fifos := match tget s.contexts p.asid with
      | some x => (List.range 16).map fun f => (f, if h : f < 16 then x.fifos[f].count else 0)
      | none => []
    banks := (s.banks.filter fun kb => mine kb.1.1).map fun kb => (kb.1, kb.2.turn, kb.2.holder)
    window := p.window, poisoned := false
    chains := (s.chains.filter fun kc => mine kc.2.cell).map fun kc => (kc.1, kc.2.w, kc.2.t, kc.2.q)
    posted := (s.chains.filter fun kc => mine kc.2.cell).flatMap fun kc => postedJobs s kc.2 }

/-- A marker of the cut is somewhere on the arc at the consumer's side already. -/
def markerCame (s : State) (k n : Nat) (a : Arc) : Bool :=
  (ownedQueue s k a).any fun x => x.held && isMarker x.item && markerNum x.item == n

/-- A PAGE SAVES (R419): its markers given up, marker `n` sent on its outgoing channels, its image written, and its
back arcs recorded from now on; a teardown token that comes to a head with that closes its port (12 R328). LOG 26, DEDUCED. -/
def savePage (s : State) (page n : Nat) : State :=
  match tget s.pages page with
  | none => s
  | some p =>
    let s := setPage s page { p with saved := n }
    let s := (incoming s page).foldl (fun z ka => modArc z ka.1 fun a =>
      if a.back then { a with recorded := a.recorded ++ [(n, !markerCame s ka.1 n ka.2, [])] } else a) s
    let s := (incoming s page).foldl (fun z ka => clearMarkers z ka.1) s
    let s := (outgoing s page).foldl (fun z ka =>
      if ka.2.ports.pClosed then z else offer z ka.1 (markerFor ka.2 n) none) s
    let s := touchPage (modPage s page fun q => { q with images := (imageOf s page n q :: q.images).take 2 }) page
    (s.cells.filter fun kc => kc.2.page == page).foldl (fun z kc => checkCounts z kc.1) s

/-- Every incoming channel that is neither a back arc nor closed has a marker at its head. -/
def aligned (s : State) (page : Nat) : Bool :=
  (incoming s page).all fun ka => ka.2.back || arcClosed ka.2 || (headMarker ka.2).isSome

/-- Two different marker numbers at a page's alignment (R419). -/
def mixedMarkers (s : State) (page n : Nat) : Bool :=
  (incoming s page).any fun ka => !ka.2.back && !arcClosed ka.2 && headMarker ka.2 != some n

/-- An undo log has passed three quarters of its 16,384 granules (R418). -/
def undoHigh (p : Page) : Bool := decide (12288 < (p.undo.filter (·.1 == p.saved)).length)

/-- CUT_ORDER: instance `args.n32`; its running source pages save. -/
def execCutOrder (s : State) : Host.Outcome State Fault Refusal :=
  let n32 := s.args.n32
  match tget s.instances n32 with
  | none => .next s
  | some i =>
    let auto := i.markInterval != 0 && (decide (i.markInterval ≤ i.sinceCut) || (pagesOf s n32).any fun kp => undoHigh kp.2)
    if i.cutNow != 0 || i.ended.isSome || !(i.cutOrdered || auto) then .next s
    else
      let n := i.lastCut + 1
      let s1 := setInst s n32 { i with cutNow := n, cutOrdered := false, sinceCut := 0 }
      .next ((pagesOf s1 n32).foldl (fun z kp =>
        if kp.2.sourcePage && pageRuns z kp.1 then savePage z kp.1 n else z) s1)

/-- PAGE_CUT_SAVE: page `args.i`, aligned, or a source page that was frozen when the cut was ordered. -/
def execPageCutSave (s : State) : Host.Outcome State Fault Refusal :=
  let page := s.args.i
  match tget s.pages page with
  | none => .next s
  | some p =>
    match tget s.instances p.inst with
    | none => .next s
    | some i =>
      let n := i.cutNow
      if n = 0 || n ≤ p.saved || !pageRuns s page || !(p.sourcePage || aligned s page) then .next s
      else if !p.sourcePage && mixedMarkers s page n then
        let k := firstTask s page
        .next (if p.mixed = n then s else takeTrap (setPage s page { p with mixed := n }) k.1 k.2 ⟨.cutFail, 0, 4, 0, 0⟩ 0xFF)
      else .next (savePage s page n)

/-- The marker of a cut has come on a back arc, or the arc is closed. -/
def backDone (a : Arc) (n : Nat) : Bool := arcClosed a || a.recorded.any fun r => r.1 == n && !r.2.1

/-- CUT_COMPLETE (R421). -/
def execCutComplete (s : State) : Host.Outcome State Fault Refusal :=
  let n32 := s.args.n32
  match tget s.instances n32 with
  | none => .next s
  | some i =>
    let n := i.cutNow
    let ps := pagesOf s n32
    if n = 0 || !ps.all (fun kp => kp.2.returned || decide (n ≤ kp.2.saved))
        || !(s.arcs.filter fun ka => ka.2.inst == n32 && ka.2.back).all (fun ka => backDone ka.2 n) then .next s
    else
      .next { setInst s n32 { i with
          lastCut := n, cutNow := 0, causes := [], collLog := i.collLog.filter fun e => decide (n ≤ e.1) } with
        pages := tmap s.pages fun _ p =>
          if p.inst == n32 && !p.returned then
            { p with images := p.images.filter (·.cut == n), undo := p.undo.filter fun e => decide (n ≤ e.1)
                     undoVoid := p.undoVoid.filter (n ≤ ·) }
          else p
        arcs := tmap s.arcs fun _ a =>
          if a.inst == n32 then { a with recorded := a.recorded.filter fun r => decide (n ≤ r.1) } else a }

/-! ### Rollback (R422, R423) -/

/-- A window with its undo logs since cut `c` applied, newest entry first. -/
def undoWindow (m : Mem) (c : Nat) : List (Nat × Nat × List Byte × List Nat × Bool) → Mem
  | [] => m
  | (n, g, bytes, tags, bad) :: r =>
    undoWindow (if n < c then m
      else
        let m1 := writeBytes m (64 * g) bytes
        let m2 := (List.range 4).foldl (fun z k => setTag z (64 * g + 16 * k) (tags.contains k)) m1
        setPoison m2 (64 * g) bad) c r

/-- The ports of a boundary arc at the cut: what the producer's page had sent before its marker counts as accepted, and a head that
the port awaited is awaited again (16 R411, R425). -/
def portsAtCut (p c : PortState) : PortState :=
  { p with cE := p.pSeq, cData := p.pData, cClosed := c.cClosed, gap := none, dups := c.dups, awaiting := c.awaiting }

/-- An arc as the images of its two ends hold it, with what its consumer recorded. -/
def arcAtCut (s : State) (c : Nat) (k : Nat) (a : Arc) : Arc :=
  let img (cell : Nat) : Option Arc :=
    ((tget s.pages (pageIdOf s cell)).bind fun p => imageAt p c).bind fun i => tget i.arcs k
  match img a.pCell, img a.cCell with
  | some p, some q =>
    if boundary s a then
      let before (x : SlotTok) : Bool :=
        x.held && !isMarker x.item && decide ((p.ports.pSeq - itemSeq x.item).toNat < 2 ^ 21)
      let rec1 := (a.recorded.filter (·.1 == c)).flatMap fun r => r.2.2
      { a with
        armed := q.armed
        ports := portsAtCut p.ports q.ports, recorded := []
        queue := ((q.queue.filter before) ++ rec1).map fun x => { x with held := true } }
    else { q with recorded := [], occSum := a.occSum, fullTime := a.fullTime }
  | _, _ => { a with queue := [], recorded := [] }

/-- Reservations counted anew from the firings in flight (12 R308). -/
def recount (s : State) (asid : BitVec 8) : State :=
  let firings := s.tasks.filterMap fun kt => kt.2.firing.map fun fr => (kt.1.1, fr)
  let here := firings.filter fun x => asidOf s x.1 == asid
  let count (l : List Nat) (k : Nat) : Nat := (l.filter (· == k)).length
  { s with
    arcs := tmap s.arcs fun k a => { a with reserved := count (firings.flatMap fun x => x.2.resArcs) k }
    chains := tmap s.chains fun k c => { c with reserved := count (firings.flatMap fun x => x.2.resCards) k }
    contexts := tmod s.contexts asid fun x => { x with fifos := Vector.ofFn fun f : Fin 16 =>
      { x.fifos[f] with
        resPush := count (here.flatMap fun y => y.2.resPush) f.val, resPop := count (here.flatMap fun y => y.2.resPop) f.val } } }

/-- Tokens that an instance's arcs and Spillway queues hold (13 R343). -/
def tokensHeld (s : State) (inst : BitVec 32) : Nat :=
  ((s.arcs.filter fun ka => ka.2.inst == inst).map fun ka => ((ownedQueue s ka.1 ka.2).filter (·.held)).length).sum

/-- One page takes its image of the cut (R422 steps 2 and 3). LOG 26, DEDUCED. -/
def restorePage (s : State) (page c : Nat) : State :=
  match (tget s.pages page).bind fun p => (imageAt p c).map fun i => (p, i) with
  | none => s
  | some (p, g) =>
    let s := g.cells.foldl (fun z kc => setCell z kc.1 kc.2) s
    let s := g.tasks.foldl (fun z kt => setTask z kt.1 kt.2) s
    let s := g.banks.foldl (fun z b => modBank z b.1 fun x => { x with turn := b.2.1, holder := b.2.2 }) s
    let s := g.chains.foldl (fun z k => modChain z k.1 fun x => { x with
      w := k.2.1, t := k.2.2.1, q := k.2.2.2, issued := k.2.2.2, inFlight := [], finished := [], stopped := false }) s
    setPage s page { p with
      guardMode := g.guardMode, saved := c, images := [g], undo := [], undoVoid := [], returned := false, frozen := true
      window := if p.returned then g.window else undoWindow p.window c p.undo }

/-- The page stands in a frame that is not faulty. -/
def placedWell (s : State) (p : Page) : Bool := p.frame.any fun f => !(frameAt s f).faulty

/-- The pages of an instance resume, those without a sound frame in a free one (R422 step 6); where none is free the page stays
frozen, and the faults of its frame are still to be recorded (R417). -/
def resumeAll (s : State) (inst : BitVec 32) : State :=
  (pagesOf s inst).foldl (fun z kp =>
    if kp.2.returned then z
    else if placedWell z kp.2 then thawPage z kp.1
    else
      match freeFrames z with
      | f :: _ =>
        kp.2.faults.foldl recordFault
          (thawPage (rewriteCells (movePage (modPage z kp.1 fun p => { p with faults := [] }) kp.1 f) kp.1) kp.1)
      | [] => z) s

/-- Rows of the instance whose fourth token counts as accepted at the cut have left flight (06 R182, R185). -/
def settleRows (s : State) (inst : BitVec 32) : State :=
  let offered (r : Row) : Bool :=
    (tget s.arcs r.lastArc).any fun a => a.queue.any fun x => !x.held && itemSeq x.item == r.lastSeq
  { s with cells := tmap s.cells fun _ c =>
      if c.inst == inst then { c with mat := { c.mat with rows := c.mat.rows.filter fun r => r.sent != 4 || offered r } } else c }

/-- The FIFO counts that the first source page saved. LOG 26, DEDUCED. -/
def fifosAtCut (s : State) (inst : BitVec 32) (c : Nat) : List (Nat × Nat) :=
  match (pagesOf s inst).find? fun kp => kp.2.sourcePage with
  | some kp => (match imageAt kp.2 c with
      | some g => g.fifos
      | none => [])
  | none => []

/-- The Spillway queues of some arcs emptied and freed: an extension that goes is logged (13 R349). -/
def emptyQueues (s : State) (asid : BitVec 8) (arcs : List Nat) : State :=
  (List.range 16).foldl (fun z q =>
    match ((tget z.contexts asid).bind fun x => if h : q < 16 then x.spill[q].arc else none) with
    | some k =>
      if arcs.contains k then
        detachIfEmpty (modSpill z asid q fun w => { w with items := [] }) asid q ((tget z.arcs k).elim 0 (·.cCell))
      else z
    | none => z) s

/-- The firing of a request is in flight and waits for its answer. -/
def awaits (s : State) (q : SeqReq) : Bool :=
  ((tget s.tasks (q.cell, q.task)).bind (·.firing)).any fun fr =>
    fr.asked.contains q.ins && !fr.answers.any (·.1 == q.ins)

/-- The requests of an instance after its firings were taken back (R423): one whose firing does not wait for it any more is late, and
a firing whose request was answered since the cut asks again. -/
def settleAsked (s : State) (inst : BitVec 32) : State :=
  let reqs := s.collective.requests.map fun q =>
    if (tget s.cells q.cell).any (·.inst == inst) && decide (q.ins < 256) && !unanswered q && !awaits s q then { q with late := true } else q
  { s with
    collective := { s.collective with requests := reqs }
    tasks := tmap s.tasks fun k t =>
      if t.inst != inst then t
      else { t with firing := t.firing.map fun fr =>
        { fr with asked := fr.asked.filter fun n => fr.answers.any (·.1 == n) || reqs.any fun q => !q.late && sameAsker q k.1 k.2 n } } }

/-- THE ROLLBACK of a frozen instance to its last complete cut. -/
def rollBack (s : State) (inst : BitVec 32) (i : Instance) : State :=
  let c := i.lastCut
  let had := tokensHeld s inst
  let mine := s.arcs.filter fun ka => ka.2.inst == inst
  let arcs := mine.map fun ka => (ka.1, arcAtCut s c ka.1 ka.2)
  let fifos := fifosAtCut s inst c
  let jobs := (pagesOf s inst).flatMap fun kp => ((imageAt kp.2 c).map (·.posted)).getD []
  let s := emptyQueues s i.asid (mine.map (·.1))
  let s := (pagesOf s inst).foldl (fun z kp => restorePage z kp.1 c) s
  let s := settleRows (arcs.foldl (fun z ka => setArc z ka.1 ka.2) s) inst
  let s := fifos.foldl (fun z f => modFifo z i.asid f.1 fun q => { q with count := f.2, duePushes := [] }) s
  let s := addBalance (recount s i.asid) i.asid ((tokensHeld s inst : Int) - (had : Int))
  let s := settleAsked s inst
  let again := jobs.map CollOp.post ++ (i.collLog.filter fun e => decide (c ≤ e.1)).map (·.2)
  let s := again.foldl (fun z o => match o with
    | .post n => setPostPush z i.asid n false
    | _ => z) s
  let s := setInst s inst { i with
    rollbackDue := [], rollbacks := i.rollbacks + 1, cutNow := 0, cutOrdered := false, sinceCut := 0
    collLog := i.collLog.filter fun e => decide (e.1 < c), collReplay := i.collReplay ++ again }
  logEvent (resumeAll s inst) i.asid 0 0xF00A (BitVec.ofNat 32 c)

/-- The rollback cannot be made: the firings that stopped for it have trapped `CUTFAIL`. -/
def rollbackFails (s : State) (inst : BitVec 32) (i : Instance) (cause : Nat) : State :=
  i.rollbackDue.foldl (fun z d =>
    queueTrap z d.1 d.1 d.2.1 ⟨.cutFail, 0, cause, 0, 0⟩ d.2.2 ((tget s.tasks (d.1, d.2.1)).elim 0 (·.block)) false [] [])
    (setInst s inst { i with rollbackDue := [] })

/-- ROLLBACK of instance `args.n32`: due, it is frozen first, and then taken back. -/
def execRollback (s : State) : Host.Outcome State Fault Refusal :=
  let n32 := s.args.n32
  match tget s.instances n32 with
  | none => .next s
  | some i =>
    if i.rollbackDue.isEmpty then .next s
    else
      match noRollback s n32 i with
      | some k => .next (rollbackFails s n32 i k)
      | none =>
        let ps := (pagesOf s n32).filter fun kp => !kp.2.returned
        if ps.all (fun kp => kp.2.frozen) then .next (rollBack s n32 i)
        else
          let todo := (ps.filter fun kp => !kp.2.frozen && !kp.2.freezing).map (·.1)
          if todo.isEmpty || freezesMeet s.freezes todo then .next s else .next (requestFreeze s i.asid todo false)

end Sys2Proof.Machine
end

