-- ==== Sys2Proof/Machine/Fresh.lean ====
section
/-! DEFINITION. Records as they are when they are made: a context, a page, a cell, a task, an instance, a firing. -/

namespace Sys2Proof.Machine

/-- A firing that has done nothing yet. -/
def plainFiring (block : Nat) : Firing :=
  { block := block, done := [], got := [], resArcs := [], resPush := [], resPop := [], resCards := []
    popped := [], sends := [], writes := [], exit := none, raised := Vector.replicate 16 0, deferred := []
    relLevel := none, relMo := 0, relDone := false, asked := [], answers := [], time := none, count := none
    guard := 0, resumed := false, parts := [] }

/-- A task of 16 registers whose one block is at 0, with a firing in flight or without. -/
def plainTask (inst : BitVec 32) (firing : Option Firing) : Task :=
  { inst := inst, decl := 0, state := .firing, frozen := false, prio := 1, entry := 0, block := 0, blocks := [0]
    codeLo := 0, codeHi := 3, restart := false, nsregs := 16, sregs := Vector.replicate 16 none, mode := 0
    flags := Vector.replicate 16 0, acnt := 0, rdy := false, prl := false, relq := [], relSent := [], seals := [], banks := []
    chains := [], ports := [], firing := firing, pending := [], firings := 0, traps := [], brkExit := none
    taken := none, resumed := false, acqAll := false, draining := false, stuck := false, spoilt := [] }

/-- A cell as a launch leaves it: nothing in its planes, codebooks, slots or window (06 R166). -/
def plainCell (page : Nat) (inst : BitVec 32) (kind : CellKind) (store : Table Nat IWord) : Cell :=
  { page := page, inst := inst, decl := 0, sx := 0, sy := 0, kind := kind, store := store, badWords := []
    consts := Vector.replicate 16 0, ptr0 := 0, ptr1 := 0, role := none, mat := MState.empty
    slots := Vector.replicate 4 StreamSlot.idle, replay := [], rr := [] }

/-- A page that has just been placed. -/
def plainPage (inst : BitVec 32) (asid : BitVec 8) : Page :=
  { inst := inst, asid := asid, decl := 0, replica := 0, stage := none, frame := some ⟨0, 0, 0⟩, sharers := []
    window := Mem.empty, lines := [], guardMode := 0, fireCount := 0, resumptions := 0, transients := 0
    frozen := false, freezing := false, lastActive := 0, sourcePage := false, saved := 0
    images := [], undo := [], undoVoid := [], mixed := 0, faults := [], returned := false }

/-- A context without a graph. -/
def plainContext (word : BitVec 64) : Context :=
  { word := word, launched := true, ranges := []
    fifos := Vector.replicate 16 ⟨0, 0, 0, 0, 0, []⟩, spill := Vector.replicate 16 ⟨none, false, false, []⟩
    balance := 0, balanceKept := false, groups := [], roles := [], bindings := [], members := []
    events := Ring.empty, lost := 0, traps := Ring.empty, trapsDue := [], guardFloor := 0, lastActive := 0
    posts := [], joined := [], ending := false }

/-- An instance of which no cut has been taken. -/
def plainInstance (asid : BitVec 8) : Instance :=
  { asid := asid, loader := false, markInterval := 0, lastCut := 0, cutNow := 0, cutOrdered := false, sinceCut := 0
    rollbacks := 0, causes := [], sluices := [], stages := [], symbols := Mem.empty, groupIds := []
    interval := 0, high := 0, low := 0, hold := 0, bytesOf := [], ending := false, ended := none, rollbackDue := [], collLog := []
    collReplay := [] }

end Sys2Proof.Machine
end

