-- ==== Sys2Proof/Machine/Source.lean ====
section
/-! DEFINITION. A graph's expressions evaluated with the launch parameters in force (02_encoding.md R60, R62-R64). A result
outside the range of the field it fills fails the launch. -/

namespace Sys2Proof.Machine

/-! ### Expressions (R60) -/

/-- Division truncates towards zero. None where a parameter is not declared, or a divisor is zero, of which the spec gives no
result (LOG 8, DESIGN CHOICE). -/
def evalExpr (env : List (BitVec 32)) : Expr → Option Int
  | .lit n => some n
  | .param k => (env[k]?).map fun v => (v.toNat : Int)
  | .add a b => (evalExpr env a).bind fun x => (evalExpr env b).map fun y => x + y
  | .sub a b => (evalExpr env a).bind fun x => (evalExpr env b).map fun y => x - y
  | .mul a b => (evalExpr env a).bind fun x => (evalExpr env b).map fun y => x * y
  | .div a b => (evalExpr env a).bind fun x => (evalExpr env b).bind fun y => if y = 0 then none else some (x.tdiv y)

/-- A count, an index or an address: none where the value is negative. What is too large the checks on the graph refuse. -/
def evalNat (env : List (BitVec 32)) (e : Expr) : Option Nat :=
  (evalExpr env e).bind fun v => if v < 0 then none else some v.toNat

def evalOr (env : List (BitVec 32)) (dflt : Nat) : Option Expr → Option Nat
  | none => some dflt
  | some e => evalNat env e

/-- All of some results, none where one fails. -/
def allSome {α : Type} : List (Option α) → Option (List α)
  | [] => some []
  | none :: _ => none
  | some x :: r => (allSome r).map (x :: ·)

/-- The bits of an integer in a field of `w` bits; where its format is signed, or it is a register's, the negative values of
the field are in range too (LOG 8, DESIGN CHOICE). -/
def fieldBits (w : Nat) (signed : Bool) (v : Int) : Option Nat :=
  if (if signed then -(2 ^ (w - 1) : Int) else 0) ≤ v ∧ v < 2 ^ w then some (v % 2 ^ w).toNat else none

/-- RoundTo(v, fmt, RNE) of an integer. -/
def roundInt (g : FpFmt) (v : Int) : Nat := if v = 0 then 0 else (roundFin g .rne false (decide (v < 0)) v.natAbs 0 false).bits

/-- The bits of an initial value: of `w` bits, a number where `fp` is a floating-point format. -/
def initBits (env : List (BitVec 32)) (fp : Option FpFmt) (w : Nat) (signed : Bool) : Init → Option Nat
  | .real b => if b < 2 ^ w then some b else none
  | .raw e => (evalExpr env e).bind (fieldBits w false)
  | .value e => (evalExpr env e).bind fun v =>
    match fp with
    | some g => some (roundInt g v)
    | none => fieldBits w signed v

/-! ### Data regions (R10, R36, R62) -/

/-- The bytes of an element word, and the elements it holds. -/
def dataWord (f : Fmt) : Nat × Nat := if f == Fmt.ptr then (16, 1) else if f == Fmt.int64 then (8, 1) else (4, perLane f)

/-- Elements packed into words, as many as `n` says; those not given are zero. -/
def packWords (f : Fmt) (l : List Nat) : Nat → List Byte
  | 0 => []
  | n + 1 =>
    let x := dataWord f
    natLe x.1 (packSubs (denseWidth f) (l.take x.2)) ++ packWords f (l.drop x.2) n

/-- The bytes that `count` elements take: whole words, and of the last word as many bytes as its elements reach. -/
def dataLen (f : Fmt) (count : Nat) : Nat :=
  count / (dataWord f).2 * (dataWord f).1 + (count % (dataWord f).2 * denseWidth f + 7) / 8

/-- The bytes of a region of `count` elements: values beyond that count are not part of it, so a launch parameter may make a
region shorter than the list of its values (11 R301 runs with `count=2*N` and 18 values; LOG 36, DEDUCED). -/
def dataBytes (env : List (BitVec 32)) (f : Fmt) (count : Nat) (values : List Init) : Option (List Byte) :=
  let w := if f == Fmt.ptr then 128 else denseWidth f
  (allSome ((values.take count).map (initBits env (fpFmt f) w (signedFmt f)))).map fun l =>
    (packWords f l ((count + (dataWord f).2 - 1) / (dataWord f).2)).take (dataLen f count)

/-! ### Declarations (R62) -/

/-- Identifiers assigned in order where they are omitted: the lowest that is neither named nor assigned before (LOG 8, DESIGN
CHOICE). -/
def assignIds (named : List Nat) : List (Option Nat) → List Nat
  | [] => []
  | some v :: r => v :: assignIds named r
  | none :: r =>
    let v := ((List.range (named.length + 1)).find? fun k => !named.contains k).getD 0
    v :: assignIds (v :: named) r

def evalIds (env : List (BitVec 32)) (l : List (Option Expr)) : Option (List Nat) :=
  (allSome (l.map fun e => match e with
    | none => some none
    | some x => (evalNat env x).map some)).map fun ids => assignIds (ids.filterMap id) ids

def evalPair (env : List (BitVec 32)) (x y : Expr) : Option (Nat × Nat) :=
  (evalNat env x).bind fun a => (evalNat env y).map fun b => (a, b)

/-- An optional part evaluated: none where it is there and fails. -/
def evalOpt {α β : Type} (f : α → Option β) : Option α → Option (Option β)
  | none => some none
  | some x => (f x).map some

/-- The constant registers of a cell, the later declaration of a register counting. A `raw(e)` under BF16 or FP16 fits the
element's 16 bits, as R60 has it, though R62 calls it the register's bits (LOG 36, DEDUCED). -/
def evalConsts (env : List (BitVec 32)) : List (Nat × Option Fmt × Init) → Option (Vector (BitVec 32) 16)
  | [] => some (Vector.replicate 16 0)
  | (k, f, i) :: r =>
    let fp := f.bind fpFmt
    match initBits env fp (fp.elim 32 (·.width)) true i, evalConsts env r with
    | some b, some v => if h : k < 16 then (if r.any (·.1 == k) then some v else some (v.set k (BitVec.ofNat 32 b))) else none
    | _, _ => none

/-- The first word of a header with its `GIDX` as an expression gives it: five bits from 72. -/
def withGidx (w : IWord) (n : Nat) : IWord := (w &&& ~~~(31#64 <<< 8)) ||| (BitVec.ofNat 64 n <<< 8)

/-- The first word of a header with its `STAGE`, as the assembler sets it (R64). -/
def withStage (w : IWord) (n : Nat) : IWord := (w &&& ~~~(255#64)) ||| BitVec.ofNat 64 n

def setWord (ws : List (Nat × IWord)) (a : Nat) (g : IWord → IWord) : List (Nat × IWord) :=
  ws.map fun x => if x.1 = a then (x.1, g x.2) else x

def setGuards (env : List (BitVec 32)) (ws : List (Nat × IWord)) : List (Nat × Expr × Nat × Nat) → Option (List (Nat × IWord))
  | [] => some ws
  | (a, e, mul, plus) :: r =>
    (evalNat env e).bind fun v =>
      if 32 ≤ v * mul + plus then none else setGuards env (setWord ws a fun w => withGidx w (v * mul + plus)) r

/-- The `STAGE` of the blocks of a cell's tasks. -/
def setStages (ids : List Nat) (ts : List GTask) (ws : List (Nat × IWord)) : List (Nat × IWord) :=
  ts.foldl (fun z t => t.blocks.foldl (fun y a => setWord y a fun w =>
    withStage w ((t.stage.bind (ids[·]?)).getD 0xFF)) z) ws

def evalCell (env : List (BitVec 32)) (ids : List Nat) (ts : List GTask) (c : SCell) : Option GCell :=
  (evalNat env c.member).bind fun m =>
    (evalOpt (fun p => evalPair env p.1 p.2) c.site).bind fun site =>
      (evalOpt (fun p => (evalNat env p.2).map fun k => (p.1, k)) c.bind).bind fun bnd =>
        (evalConsts env c.consts).bind fun ks =>
          (setGuards env c.words c.guards).map fun ws =>
            { kind := c.kind, role := c.role, member := m, site := site, bind := bnd, consts := ks
              hasConsts := !c.consts.isEmpty, words := setStages ids ts ws }

def evalSym (env : List (BitVec 32)) (all : List SSym) : SSym → Option GSym
  | .data f count a al values =>
    (evalNat env count).bind fun n =>
      (evalOpt (evalNat env) a).bind fun at_ =>
        (evalOr env 64 al).bind fun align => (dataBytes env f n values).map fun l => .data f at_ align l
  | .codebook l => (allSome (l.map (initBits env (some .bf16) 16 false))).map fun v => .codebook (v.map (BitVec.ofNat 16))
  | .range r =>
    (evalNat env r.base).bind fun b =>
      (evalNat env r.lim).bind fun l =>
        (evalNat env r.off).map fun o =>
          let dflt := match r.range.data.bind (all[·]?) with
            | some (.data f _ _ _ _) => f
            | _ => r.range.fmt
          .range { r.range with base := b, lim := l, off := o, fmt := r.fmt.getD dflt }

/-- The parameters in force: their defaults, replaced by a launch request's overrides, the last for a parameter counting. -/
def paramsInForce (g : Source) (overrides : List (Nat × BitVec 32)) : List (BitVec 32) :=
  g.params.mapIdx fun k d => ((overrides.reverse.find? (·.1 == k)).map (·.2)).getD d

/-- THE GRAPH of a launch (R63): every expression evaluated with the parameters in force; none where one fails. -/
def evalGraph (g : Source) (overrides : List (Nat × BitVec 32)) : Option Graph :=
  let env := paramsInForce g overrides
  (evalIds env g.groups).bind fun groups =>
  (allSome (g.roles.map fun r => (evalNat env r.count).map fun n => (⟨r.group, r.isCell, n⟩ : GRole))).bind fun roles =>
  (evalIds env (g.stages.map (·.id))).bind fun ids =>
  (allSome (g.stages.map fun t => evalPair env t.min t.max)).bind fun spans =>
  (allSome (g.tasks.map fun t => (evalNat env t.sregs).map fun n => { t.task with sregs := n })).bind fun tasks =>
  (allSome (g.cells.mapIdx fun k c => evalCell env ids (tasks.filter (·.cell == k)) c)).bind fun cells =>
  (allSome (g.arcs.map fun a => (evalPair env a.slots a.burst).map fun x => { a.arc with slots := x.1, burst := x.2 })).bind fun arcs =>
  (allSome (g.weirs.map (evalNat env))).bind fun weirs =>
  (allSome (g.symbols.map (evalSym env g.symbols))).map fun symbols =>
    { params := g.params.length, groups := groups, roles := roles, cells := cells
      stages := (ids.zip spans).map fun x => ⟨x.1, x.2.1, x.2.2⟩
      tasks := tasks, arcs := arcs, weirs := weirs, sluices := g.sluices, symbols := symbols }

end Sys2Proof.Machine
end

