-- ==== Sys2Proof/Machine/Jobs.lean ====
section
/-! DEFINITION. Engine jobs of chains, their accesses and completion, and the execution and finishing of numbered
collectives (10_order_instructions.md R291-R298, 09_order_model.md R254-R257, 13_progress_watch.md R361-R366). -/

namespace Sys2Proof.Machine

/-! ### The pieces of a job (10 R297) -/

/-- Engine accesses are checked as the owning task's would be (R297); a card's addresses are no pointers (15 R382). -/
def jobParty (s : State) (ch : Chain) : Party := partyOf s ch.cell ch.task

/-- How many pieces a job's work has: an element of a gather, else a run of the write region in one granule. LOG 21, DEDUCED. -/
def chunkCount (c : Card) : Nat :=
  if c.eng = 2 then c.rbl / 4
  else if c.wl = 0 then 0 else (c.w + c.wl + 63) / 64 - c.w / 64

/-- The run of the write region that piece `k` writes: its address and length. -/
def chunkSpan (c : Card) (k : Nat) : Nat × Nat :=
  if c.eng = 2 then
    let e := (gatherWord c.fmt).getD 4
    (c.w + k * e, e)
  else
    let g := 64 * (c.w / 64 + k)
    let lo := max c.w g
    (lo, min (c.w + c.wl) (g + 64) - lo)

/-- What stops a chain: a fault of an access with its element, or a breach of the footprint. -/
inductive JobFault where
  | access (elem : Nat) (code : TrapCode) (addr : Nat)
  | breach
  deriving DecidableEq, Repr

/-- Where the bytes stand that a job reads, each checked. -/
def jobSegs (s : State) (p : Party) (c : Card) (elem : Nat) : List Nat → Except JobFault (List Seg)
  | [] => .ok []
  | a :: r =>
    if a < c.ra || c.ra + c.ral ≤ a then .error .breach
    else
      match spanOf s p ⟨0, none⟩ Need.read a 1 with
      | .error e => .error (.access elem e.1 e.2)
      | .ok g => (jobSegs s p c elem r).map fun l => g ++ l

/-- What the reads of a piece return: the bytes to be written, whether they are poisoned (16 R408), and where they stood. -/
structure Fetched where
  bytes : List Byte
  poisoned : Bool
  segs : List Seg

/-- Bytes read as they stand. -/
def fetch (s : State) (segs : List Seg) : Fetched :=
  ⟨segs.flatMap fun g => (homeRead s [g]).1.map fun b => b.1, segs.any fun g => (homeRead s [g]).2, segs⟩

/-- The bytes that piece `k` writes. -/
def chunkData (s : State) (p : Party) (c : Card) (k : Nat) : Except JobFault Fetched :=
  let at_ := chunkSpan c k
  let off := at_.1 - c.w
  match c.eng, c.jop with
  | 1, 0 => (jobSegs s p c 0 ((List.range at_.2).map fun i => c.ra + off + i)).map (fetch s)
  | 1, _ => .ok ⟨(List.range at_.2).map fun i => BitVec.ofNat 8 (c.param.toNat / 2 ^ (8 * ((off + i) % 4)) % 256), false, []⟩
  | 2, _ =>
    (match spanOf s p ⟨0, none⟩ Need.read (c.rb + 4 * k) 4 with
     | .error e => .error (.access k e.1 e.2)
     | .ok g =>
       let idx := signedOf 32 (numAt (homeRead s g).1 0 4)
       let a : Int := (c.ra : Int) + at_.2 * idx
       if a < 0 then .error .breach
       else
         (jobSegs s p c k ((List.range at_.2).map fun i => a.toNat + i)).map fun l =>
           let x := fetch s l
           ⟨x.bytes, x.poisoned || (homeRead s g).2, g ++ l⟩)
  | _, _ =>
    let l := rowLen c
    (jobSegs s p c 0 ((List.range at_.2).map fun i => c.ra + (off + i) / l * rowStride c + (off + i) % l)).map (fetch s)

/-- Engine writes performed at their homes; they never touch a line buffer (09 R233). -/
def engineWrites (s : State) : List Write → State
  | [] => s
  | w :: r => engineWrites (applyAt s w) r

/-- A chain stops at a job, and its owner has a trap pending (R297, R298). -/
def stopChain (s : State) (k : Nat) (ch : Chain) (n : Nat) (t : TrapInfo) : State :=
  pendTrap (setChain s k { ch with stopped := true, inFlight := ch.inFlight.filter fun j => j.n != n }) ch.cell ch.cell ch.task t

def chainFmt (ch : Chain) (n : Nat) : TrapInfo := ⟨.chainFmt, 0, ch.num, 0, n⟩

def jobTrap (ch : Chain) (n : Nat) : JobFault → TrapInfo
  | .access e c a => ⟨c, 0, e, a, 0⟩
  | .breach => chainFmt ch n

/-- Piece `k` of job `n` performs, or, with `reads`, only what it reads; not before an outbound queue and its homes allow. -/
def applyChunk (s : State) (id n k : Nat) (reads : Bool) : State :=
  match tget s.chains id with
  | none => s
  | some ch =>
    match ch.inFlight.find? (·.n == n) with
    | none => s
    | some j =>
      let c := parseCard j.card
      if c.eng = 4 || j.finished || j.chunks.contains k || chunkCount c ≤ k then s
      else
        let p := jobParty s ch
        let at_ := chunkSpan c k
        let data : Except JobFault Fetched := match j.fetched.find? (·.1 == k) with
          | some f => .ok ⟨f.2.1, f.2.2, []⟩
          | none => chunkData s p c k
        match data with
        | .error e => stopChain s id ch n (jobTrap ch n e)
        | .ok x =>
          if reads then
            if accessWaits s (.chain id) x.segs || j.fetched.any (·.1 == k) then s
            else
              touchCell (servePort (modJob s id n fun y => { y with fetched := (k, x.bytes, x.poisoned) :: y.fetched })
                (.chain id) x.segs) ch.cell
          else
            match spanOf s p ⟨0, none⟩ Need.write at_.1 at_.2 with
            | .error e => stopChain s id ch n (jobTrap ch n (.access (if c.eng = 2 then k else 0) e.1 e.2))
            | .ok segs =>
              if accessWaits s (.chain id) (x.segs ++ segs) then s
              else
                let s1 := engineWrites s (groupWrites (putBytes segs x.bytes) [] x.poisoned false)
                let s2 := modJob s1 id n fun y => { y with chunks := k :: y.chunks, fetched := y.fetched.filter (·.1 != k) }
                touchCell (servePort s2 (.chain id) (x.segs ++ segs)) ch.cell

/-- HOME_ACCESS_APPLY (09 R237): a store of task (`args.i`, `args.j`) by its place `args.k` in what is pending, or, with
`args.flag`, piece `args.k` of job `args.j` of chain `args.i`. With `args.l` = 1 the store only arrives at its home, or the piece
is only read. -/
def execHomeAccessApply (s : State) : Host.Outcome State Fault Refusal :=
  if s.args.flag then .next (applyChunk s s.args.i s.args.j s.args.k (s.args.l == 1))
  else .next (applyPending s (s.args.i, s.args.j) s.args.k false (s.args.l == 1))

/-! ### Issue and completion (09 R254-R257) -/

/-- A collective card on a chain as R363 wants it. -/
def jobMember (s : State) (ch : Chain) (c : Card) : Option (Nat × Nat) :=
  (ctxOf s ch.cell).bind fun x => membership x (cardGroup c)

/-- A card that R298 calls malformed. -/
def malformed (s : State) (ch : Chain) (c : Card) : Bool :=
  if c.eng = 4 then
    !collOk c ((jobMember s ch c).map (·.2))
  else !engineOk c

/-- A number that a job cannot post (R364, R369). -/
def jobRefused (s : State) (ch : Chain) (c : Card) (inst : BitVec 32) : Bool :=
  let again := (tget s.instances inst).any fun i => i.collReplay.contains (.post (cardNum c))
  s.collective.primary.isNone
    || (!again && ((jobMember s ch c).isNone || everPosted s (asidOf s ch.cell) (cardNum c) || !postable s (cardNum c) (cardGroup c)))

/-- Every piece of an engine's job has performed. -/
def piecesDone (j : Job) : Bool := (List.range (chunkCount (parseCard j.card))).all fun k => j.chunks.contains k

/-- Engines of a kind on a die: copy engines, the gather engine, the stream engine (01 R24, 10 R291). -/
def engineCount (eng : Nat) : Nat := if eng = 1 then 4 else 1

/-- The engines of the card's kind on the chain's die each have a job at work. LOG 4, DESIGN CHOICE. -/
def enginesBusy (s : State) (ch : Chain) (c : Card) : Bool :=
  let jobs := (s.chains.filter fun kc => dieOf s kc.2.cell == dieOf s ch.cell).flatMap fun kc => kc.2.inFlight
  c.eng != 4 && decide (engineCount c.eng ≤
    (jobs.filter fun j => (parseCard j.card).eng == c.eng && !piecesDone j).length)

/-- The job enters flight. -/
def issueJob (s : State) (id : Nat) (ch : Chain) (card : Vector Lane 16) : State :=
  touchCell (setChain s id { ch with issued := ch.issued + 1, inFlight := ch.inFlight ++ [⟨ch.issued, card, [], [], false, false⟩] }) ch.cell

/-- A job of a chain whose number has finished: its push, where it has one, takes its turn at its FIFO. -/
def finishJob (s : State) (id n : Nat) (asid : BitVec 8) (c : Card) : State :=
  let s := modJob s id n fun j => { j with finished := true }
  if c.push then pushWhenFree s asid c.pf (some (id, n)) else s

/-- A collective job issues: it is posted, and is done at once where its number has finished (R362, R364). -/
def issueCollective (s : State) (id : Nat) (ch : Chain) (card : Vector Lane 16) (c : Card) (inst : BitVec 32) : State :=
  let s1 := postCard (issueJob s id ch card) ch.cell ch.task 0 inst (some id) ch.issued card
  match localNum s (cardNum c) with
  | some l =>
    if l.state = .failed then
      (match tget s1.chains id with
       | some ch1 => stopChain s1 id ch1 ch.issued (collFail (cardNum c))
       | none => s1)
    else if numDone l then finishJob s1 id ch.issued (asidOf s ch.cell) c else s1
  | none => s1

/-- CHAIN_JOB_ISSUE: the next published job of chain `args.i`. -/
def execChainJobIssue (s : State) : Host.Outcome State Fault Refusal :=
  let id := s.args.i
  match tget s.chains id with
  | none => .next s
  | some ch =>
    let at_ := (cardSegs s ch ch.issued).getD []
    if ch.stopped || !cellRuns s ch.cell || ch.t ≤ ch.issued || accessWaits s (.chain id) at_ then .next s
    else
      let card := cardAt s ch ch.issued
      let c := parseCard card
      let asid := asidOf s ch.cell
      let inst := match tget s.tasks (ch.cell, ch.task) with
        | some t => t.inst
        | none => 0
      let s0 := servePort s (.chain id) at_
      if malformed s ch c then .next (stopChain s0 id ch ch.issued (chainFmt ch ch.issued))
      else if edgesHold ch c || enginesBusy s ch c then .next s
      else if c.eng = 4 && jobRefused s ch c inst then .next (stopChain s0 id ch ch.issued (collFail (cardNum c)))
      else if c.eng = 4 && (ctxOf s ch.cell).any (fun x => decide (256 ≤ x.posts.length + postsBegun s asid)) then .next s
      else if c.pop && !((fifoOf s asid c.qf).resPop < (fifoOf s asid c.qf).count && popGranted s asid c.qf (chainKey s ch)) then .next s
      else
        let s1 := if c.pop then movePoint (modFifo s0 asid c.qf fun q => { q with count := q.count - 1 }) asid c.qf (chainKey s ch) else s0
        if c.eng = 4 then .next (issueCollective s1 id ch card c inst) else .next (issueJob s1 id ch card)

/-- Q after the jobs finished so far: it rises while the next job is among them. -/
def riseQ (done : List Nat) : Nat → Nat → Nat
  | 0, q => q
  | fuel + 1, q => if done.contains q then riseQ done fuel (q + 1) else q

/-- Where a chain's sequence word stands (R293), the owner's own. -/
def sequenceSegs (s : State) (ch : Chain) : Except (TrapCode × Nat) (List Seg) :=
  spanOf s { jobParty s ch with ponly := false } ⟨0, none⟩ Need.write ch.base 8

/-- The sequence word stored (R293); a fault of that store is the owner's. LOG 21, DEDUCED. -/
def writeSequence (s : State) (id : Nat) (ch : Chain) : State :=
  match sequenceSegs s ch with
  | .ok segs => servePort (engineWrites s (groupWrites (putBytes segs (natLe 8 ch.q)) [] false false)) (.chain id) segs
  | .error e => pendTrap s ch.cell ch.cell ch.task (accessTrap 0 e)

/-- Every access of a job has performed; of a collective one, its number has finished and its push has been applied. -/
def jobDone (j : Job) : Bool :=
  let c := parseCard j.card
  if c.eng = 4 then j.finished && (!c.push || j.pushed) else piecesDone j

/-- A job that pushes its FIFO as it completes: any but a collective one, whose push its number makes (R291). -/
def pushesNow (c : Card) : Bool := c.push && c.eng != 4

/-- ENGINE_JOB_COMPLETE (R255): job `args.j` of chain `args.i`; a flagged one waits for an entry of its FIFO. -/
def execEngineJobComplete (s : State) : Host.Outcome State Fault Refusal :=
  let id := s.args.i
  match tget s.chains id with
  | none => .next s
  | some ch =>
    match ch.inFlight.find? (·.n == s.args.j) with
    | none => .next s
    | some j =>
      let c := parseCard j.card
      let asid := asidOf s ch.cell
      let q := fifoOf s asid c.pf
      let held := match sequenceSegs s ch with
        | .ok segs => accessWaits s (.chain id) segs
        | .error _ => false
      if !jobDone j || held || (pushesNow c && decide (64 ≤ q.count + q.resPush)) then .next s
      else
        let s1 := if pushesNow c then modFifo s asid c.pf fun z => { z with count := z.count + 1 } else s
        let done := j.n :: ch.finished
        let q' := riseQ done done.length ch.q
        let ch1 := { ch with
          inFlight := ch.inFlight.filter fun x => x.n != j.n, finished := done.filter (q' ≤ ·), q := q' }
        let s2 := touchCell (setChain s1 id ch1) ch.cell
        .next (if ch.q < q' then writeSequence s2 id ch1 else s2)

/-- FIFO_PENDING_PUSH (R291): the oldest push due at FIFO `args.i` of context `args.asid`. -/
def execFifoPendingPush (s : State) : Host.Outcome State Fault Refusal :=
  let q := fifoOf s s.args.asid s.args.i
  match q.duePushes with
  | [] => .next s
  | job :: rest =>
    if 64 ≤ q.count + q.resPush then .next s
    else .next (applyPush (modFifo s s.args.asid s.args.i fun z => { z with duePushes := rest }) s.args.asid s.args.i job)

/-! ### What a collective computes (R363) -/

/-- Bytes with their poison. -/
abbrev Marked := List (Byte × Bool)

/-- `Comb` on the bits of two elements. -/
def collComb (c : Card) (x y : Nat) : Nat :=
  let ints (m : Fmt) : Nat :=
    match cardRop c with
    | 0 => wrapInt m (intOf m x + intOf m y)
    | 1 => if intOf m x ≤ intOf m y then x else y
    | _ => if intOf m x ≤ intOf m y then y else x
  let floats (g : FpFmt) : Nat :=
    let k : FpCtx := ⟨g, .rne, false, false⟩
    match cardRop c with
    | 0 => (fpAdd k x y).1
    | 1 => (fpMin false k x y).1
    | _ => (fpMin true k x y).1
  if c.jop = 5 then
    let r := (dwNode (x % 2 ^ 32, x / 2 ^ 32) (y % 2 ^ 32, y / 2 ^ 32)).1
    r.1 + 2 ^ 32 * r.2
  else if c.fmt == Fmt.fp32 then floats .fp32
  else if c.fmt == Fmt.bf16 then floats .bf16
  else ints c.fmt

/-- The members' values combined in the fixed tree: padded to the least power of two (R363). -/
def combTree (c : Card) (vs : List Nat) : Nat :=
  let d := 2 ^ Nat.clog 2 vs.length
  ((treeFold (fun x y => (collComb c x y, ())) 13 (vs.map some ++ List.replicate (d - vs.length) none)).1).getD 0

/-- Element `i` of width `e` of a member's input, and whether a byte of it is poisoned. -/
def inElem (l : Marked) (e i : Nat) : Nat × Bool :=
  let b := (l.drop (e * i)).take e
  (leNat (b.map (·.1)), b.any (·.2))

/-- `n` elements from element `from_` on, each combined over the members. -/
def treeElems (c : Card) (inputs : List Marked) (from_ n : Nat) : Marked :=
  let e := collWidth c
  (List.range n).flatMap fun i =>
    let vs := inputs.map fun l => inElem l e (from_ + i)
    (natLe e (combTree c (vs.map (·.1)))).map fun b => (b, vs.any (·.2))

/-- W of member `m`, from the inputs of all members in the order of their indices. -/
def collOutput (c : Card) (m : Nat) (inputs : List Marked) : Marked :=
  let e := collWidth c
  match c.jop with
  | 1 => treeElems c inputs 0 (c.wl / e)
  | 2 => inputs.flatten
  | 3 => treeElems c inputs (m * c.wl / e) (c.wl / e)
  | 4 => inputs.getD (cardRoot c) []
  | 5 => treeElems c inputs 0 (c.wl / 8)
  | _ => []

/-! ### Execution and finishing (R361, R363-R366) -/

/-- A member context here with its post of a number, its index and the group's size. -/
structure Here where
  asid : BitVec 8
  post : Post
  index : Nat
  size : Nat
  card : Card

def membersHere (s : State) (l : LocalNum) : List Here :=
  l.members.filterMap fun m =>
    ((tget s.contexts m.1).bind fun x => x.posts.find? (·.number == l.number)).map fun q => ⟨m.1, q, m.2.1, m.2.2, parseCard q.card⟩

def hereParty (s : State) (h : Here) : Party := partyOf s h.post.cell h.post.task

/-- The number accesses the window of its poster's page. -/
def hereWindow (h : Here) : Option Nat :=
  if inWindow h.card.ra && h.card.ral != 0 then some h.card.ra else if inWindow h.card.w && h.card.wl != 0 then some h.card.w else none

/-- An access of the number to the window of a frozen page waits for the page (10 R294). -/
def hereWaits (s : State) (h : Here) : Bool :=
  (hereWindow h).isSome && (tget s.pages (pageIdOf s h.post.cell)).any fun p => (p.frozen || p.freezing) && !p.returned

/-- Where a member's input and its output stand, or the first fault of its two regions. The window of a page that has returned
is lost (12 R330), and an access to it faults. LOG 25, DEDUCED. -/
def hereInput (s : State) (h : Here) : Except (TrapCode × Nat) (List Seg × List Seg) :=
  let lost := (tget s.pages (pageIdOf s h.post.cell)).all (·.returned)
  match (if lost then hereWindow h else none) with
  | some v => .error (.bounds, v)
  | none =>
  match spanOf s (hereParty s h) ⟨0, none⟩ Need.read h.card.ra h.card.ral,
      spanOf s (hereParty s h) ⟨0, none⟩ Need.write h.card.w h.card.wl with
  | .error e, _ => .error e
  | .ok _, .error e => .error e
  | .ok g, .ok w => .ok (g, w)

/-- A member's input as its accesses read it: each byte, and whether its granule was poisoned. -/
def inputOf (l : List Reading) : Marked := l.flatMap fun x => x.1.map fun b => (b.1, x.2)

/-- The inputs of every member in the order of their indices, those of other packages as the event tells them: bytes, and
which 64-byte pieces of the input are poisoned. -/
def allInputs (size : Nat) (mine : List (Nat × Marked)) (others : List (Nat × List Byte × List Nat)) : Option (List Marked) :=
  (List.range size).mapM fun m =>
    match mine.find? (·.1 == m), others.find? (·.1 == m) with
    | some x, _ => some x.2
    | none, some y => some (y.2.1.zipIdx.map fun b => (b.1, y.2.2.contains (b.2 / 64)))
    | none, none => none

/-- What a member is given: each byte with its poison and whether it is written; of a number that fails, each element is old or
new (R363). LOG 25, DEDUCED. -/
def givenOutput (free : Nat) (h : Here) (out : Marked) (failed : Bool) : List (Byte × Bool × Bool) :=
  out.zipIdx.map fun b => (b.1.1, b.1.2, !failed || Config.failedElementNew (free + b.2 / collWidth h.card))

/-- The writes of a member's output, one to a granule. -/
def outputWrites (segs : List Seg) (out : List (Byte × Bool × Bool)) : List Write :=
  let bytes := out.zipIdx
  let puts (bad : Bool) : List Put :=
    segs.flatMap fun g => (bytes.filter fun b => decide (g.off ≤ b.2 ∧ b.2 < g.off + g.len) && b.1.2.1 == bad && b.1.2.2).map fun b =>
      (g.space, (⟨g.addr + (b.2 - g.off), 0xFF, b.1.1⟩ : Patch))
  groupWrites (puts false) [] false false ++ groupWrites (puts true) [] true false

/-- A fault of a member's access: its poster, or its chain's owner, has it pending (R363). -/
def hereFault (s : State) (h : Here) (e : TrapCode × Nat) : State :=
  modCtx (pendTrap s h.post.cell h.post.cell h.post.task (accessTrap 0 e)) h.asid fun x =>
    { x with posts := x.posts.map fun p => if p.number == h.post.number then { p with faulted := true } else p }

def setNumState (s : State) (n : BitVec 32) (st : NumState) (fail : Bool) : State :=
  modNum s n fun l => { l with state := st, failNotice := l.failNotice || fail }

/-- A member here with where its input and its output stand. -/
abbrev HereAt := Here × List Seg × List Seg

/-- What each member's accesses have read, from the readings of all of them in order. -/
def splitReads : List HereAt → List Reading → List (Nat × Marked)
  | [], _ => []
  | g :: r, l => (g.1.index, inputOf (l.take g.2.1.length)) :: splitReads r (l.drop g.2.1.length)

/-- What the members are given, one after the other, each with open choices of its own. -/
def givenOutputs (inputs : List Marked) (failed : Bool) : Nat → List HereAt → List (List (Byte × Bool × Bool))
  | _, [] => []
  | free, g :: r =>
    let out := collOutput g.1.card g.1.index inputs
    givenOutput free g.1 out failed :: givenOutputs inputs failed (free + out.length / collWidth g.1.card + 1) r

/-- The open choices that the members' outputs take. -/
def choicesTaken (l : List HereAt) : Nat := (l.map fun g => g.1.card.wl / collWidth g.1.card + 1).sum

/-- The execution of a number goes on: its inputs are read, then its outputs written; all that is left, or with `args.l` 1 the next
access (LOG 33, DESIGN CHOICE). What the members of other packages give, and whether an access there faulted, is fixed
when the last input has been read. -/
def executeNumber (s : State) (l : LocalNum) (good : List HereAt) (size : Nat) : State :=
  let p := l.part
  let at_ := good.flatMap (·.2.1)
  let left := at_.drop p.reads.length
  let pieces := s.args.l == 1
  let keep (z : State) (q : NumPart) : State := modNum z l.number fun n => { n with part := q }
  let writes (outs : List (List (Byte × Bool × Bool))) : List Write :=
    ((good.zip outs).flatMap fun x => outputWrites x.1.2.2 x.2).drop p.wrote
  let finish (z : State) (failed : Bool) (segs : List Seg) (ws : List Write) : State :=
    let z1 := good.foldl (fun y g => touchCell y g.1.post.cell) (engineWrites z ws)
    keep (setNumState (servePort z1 .collective segs) l.number .executing failed) NumPart.none
  match p.outs with
  | none =>
    (match pieces, left with
     | true, g :: _ =>
       if accessWaits s .collective [g] then s
       else keep (servePort s .collective [g]) { p with reads := p.reads ++ [homeRead s [g]] }
     | _, _ =>
       match allInputs size (splitReads good (p.reads ++ left.map fun g => homeRead s [g])) s.args.others with
       | none => s
       | some inputs =>
         let outs := givenOutputs inputs s.args.flag s.free good
         let s1 := { s with free := s.free + choicesTaken good }
         if pieces then keep s1 { p with failed := s.args.flag, outs := some outs }
         else
           let segs := left ++ good.flatMap (·.2.2)
           if accessWaits s .collective segs then s else finish s1 s.args.flag segs (writes outs))
  | some outs =>
    match pieces, writes outs with
    | true, w :: _ :: _ =>
      if accessWaits s .collective (writeSegs [w]) then s
      else keep (servePort (engineWrites s [w]) .collective (writeSegs [w])) { p with wrote := p.wrote + 1 }
    | _, ws => if accessWaits s .collective (writeSegs ws) then s else finish s p.failed (writeSegs ws) ws

/-- COLLECTIVE_EXECUTE: the next number X executes here. `args.others` holds the inputs of the members of other packages,
and `args.flag` says that an access of one of them faulted. -/
def execCollectiveExecute (s : State) : Host.Outcome State Fault Refusal :=
  match nextNum s.collective with
  | none => .next s
  | some l =>
    let hs := membersHere s l
    if l.state != .announced || !l.go || l.cancelNotice || l.failNotice
        || hs.length != l.members.length || hs.any (hereWaits s) then .next s
    else
      let size := match hs with
        | h :: _ => h.size
        | [] => 0
      let reads := hs.map fun h => (h, hereInput s h)
      let faults := reads.filterMap fun r => match r.2 with
        | .error e => some (r.1, e)
        | .ok _ => none
      let good : List HereAt := reads.filterMap fun r => match r.2 with
        | .ok x => some (r.1, x)
        | .error _ => none
      if !faults.isEmpty then
        .next (setNumState (faults.foldl (fun z f => hereFault z f.1 f.2) s) l.number .executing true)
      else .next (executeNumber s l good size)

/-- A post's number has finished: pushed, or its chain's job done or stopped (R291, R364-R366). -/
def finishPost (s : State) (asid : BitVec 8) (ok : Bool) (p : Post) : State :=
  match p.chain, ok with
  | none, true => if p.push then pushWhenFree s asid (parseCard p.card).pf none else s
  | some id, true => finishJob s id p.job asid (parseCard p.card)
  | none, false => if p.faulted then s else pendTrap s p.cell p.cell p.task (collFail p.number)
  | some id, false =>
    match tget s.chains id with
    | some ch =>
      if p.faulted then setChain s id { ch with stopped := true, inFlight := ch.inFlight.filter fun j => j.n != p.job }
      else stopChain s id ch p.job (collFail p.number)
    | none => s

/-- A finished number is forgotten once it lies ahead again of the last finished one `f`: numbers come round (R360). -/
def stillKnown (f : BitVec 32) (l : LocalNum) : Bool := !numDone l || l.number == f || !ahead f l.number

/-- So is the gap after `h`, once it lies neither ahead nor within a window behind. -/
def gapNear (f h : BitVec 32) : Bool := ahead f (h + 1) || ahead h f

/-- The number X is finished in a state: its posts end, and a failure is logged on each member. -/
def finishNumber (s : State) (l : LocalNum) (st : NumState) : State :=
  let ok := st != .failed
  let s1 := (partsOf s l).foldl (fun z a =>
    let z1 := if ok then z else logEvent z a 0 0xF005 l.number
    match tget z1.contexts a with
    | some x =>
      touchCtx (modCtx ((x.posts.filter (·.number == l.number)).foldl (fun y p => touchCell (finishPost y a ok p) p.cell) z1) a
        fun x => { x with posts := x.posts.filter (·.number != l.number) }) a
    | none => z1) s
  let s2 := setNumState s1 l.number st false
  { s2 with collective := { s2.collective with
      lastFinished := some l.number, sent := s2.collective.sent.filter (stillSent s2.collective)
      numbers := s2.collective.numbers.filter (stillKnown l.number), gaps := s2.collective.gaps.filter (gapNear l.number) } }

end Sys2Proof.Machine
end

