-- ==== Sys2Proof/Machine/Validate.lean ====
section
/-! DEFINITION. What the loader refuses: the image's sections (15_isolation.md R393-R396), the graph's declarations
(02_encoding.md R44, R45, R62-R65, 12_progress_fabric.md R316, R318) and every word of its blocks (03_opcode_map.md
R83, R84). Where several refusals apply, the order of these checks decides which is reported (LOG 8, DESIGN CHOICE). -/

namespace Sys2Proof.Machine

/-- A load error record with the section concerned (18 R447). -/
structure LoadErr where
  code : Nat
  sect : Nat
  cell : Nat
  chk : Nat
  word : Nat
  deriving DecidableEq, Repr

def leBadop : Nat := 1
def leZeroLoop : Nat := 2
def leNoWeir : Nat := 3
def leStateRegs : Nat := 4
def leGroups : Nat := 5
def leUnknown : Nat := 6
def leErratum : Nat := 7
def leSig : Nat := 8

/-- An error that concerns no cell. -/
def plainErr (code sect : Nat) : LoadErr := ⟨code, sect, 0xFFFF, 0, 0⟩

def recordOf (e : LoadErr) : BitVec 64 := BitVec.ofNat 64 (e.word * 2 ^ 32 + e.cell * 2 ^ 16 + e.chk * 2 ^ 8 + e.code)

/-- The first of a list of refusals whose condition is met. -/
def firstErr (l : List (Bool × LoadErr)) : Option LoadErr := (l.find? (·.1)).map (·.2)

/-! ### Sections (R393-R395) -/

structure Section where
  type : Nat
  flags : Nat
  len : Nat
  off : Nat
  deriving DecidableEq, Repr

def natAt (l : List Byte) (o n : Nat) : Nat := leNat ((l.drop o).take n)

/-- The section table of an image. -/
def sectionsOf (img : List Byte) : List Section :=
  (List.range (natAt img 6 2)).map fun k =>
    let o := 64 + 16 * k
    ⟨natAt img o 2, natAt img (o + 2) 2, natAt img (o + 4) 4, natAt img (o + 8) 8⟩

/-- The header and the section table are as R393 gives. -/
def headerOk (img : List Byte) : Bool :=
  let ss := sectionsOf img
  let count := natAt img 6 2
  let one (t : Nat) : Nat := (ss.filter (·.type == t)).length
  natAt img 0 4 == 0x53564931 && natAt img 4 2 == 1 && decide (1 ≤ count ∧ count ≤ 1024)
    && ((img.drop 8).take 56).all (· == 0) && decide (64 + 16 * count ≤ img.length)
    && ss.all (fun x => decide (x.flags < 2) && x.off % 64 == 0 && decide (x.off + x.len ≤ img.length))
    && decide (one 1 ≤ 1) && one 6 == 1 && (ss.getLast?.map (·.type)) == some 6

/-- A note record: type, mandatory flag, body. -/
def notesOf : Nat → List Byte → List (Nat × Bool × List Byte)
  | 0, _ => []
  | fuel + 1, l =>
    if l.length < 8 then []
    else
      let n := natAt l 4 4
      (natAt l 0 2, (natAt l 2 2).testBit 0, (l.drop 8).take n) :: notesOf fuel (l.drop (8 + (n + 7) / 8 * 8))

/-- The note records of an image, each with its section's index. -/
def imageNotes (img : List Byte) : List (Nat × Nat × Bool × List Byte) :=
  ((sectionsOf img).mapIdx fun k x => (k, x)).flatMap fun kx =>
    if kx.2.type != 5 then []
    else (notesOf kx.2.len ((img.drop kx.2.off).take kx.2.len)).map fun r => (kx.1, r)

/-- The erratum numbers of a reliance note. -/
def errataOf (body : List Byte) : List (BitVec 32) := (List.range (body.length / 4)).map fun k => BitVec.ofNat 32 (natAt body (4 * k) 4)

/-- A section or note of unknown type with its mandatory flag set, by its section's index (R393, R394). -/
def unknownIn (img : List Byte) : Option Nat :=
  match ((sectionsOf img).mapIdx fun k x => (k, x)).find? fun kx => (kx.2.type == 0 || decide (6 < kx.2.type)) && kx.2.flags == 1 with
  | some kx => some kx.1
  | none => ((imageNotes img).find? fun r => r.2.1 != 1 && r.2.2.1).map (·.1)

/-- The section of a note that relies on a corrected erratum. -/
def erratumIn (img : List Byte) (build : Nat) : Option Nat :=
  ((imageNotes img).find? fun r => r.2.1 == 1 && (errataOf r.2.2.2).any fun e => Config.erratumCorrected e build).map (·.1)

def sectionIndex (img : List Byte) (t : Nat) : Nat := ((sectionsOf img).findIdx? (·.type == t)).getD 0xFFFF

/-- Step 1 of R324 and the choice of R395: whether the native artefact runs, and the section it or the graph stands in. -/
def chooseSection (s : State) (img : List Byte) : Except LoadErr (Bool × Nat) :=
  if !headerOk img then .error (plainErr leBadop 0xFFFF)
  else if !(Config.imageByLoader img || s.pkg.keys.any (Config.imageSigned img)) then .error (plainErr leSig (sectionIndex img 6))
  else
    match unknownIn img with
    | some k => .error (plainErr leUnknown k)
    | none =>
      let graph := (sectionsOf img).any (·.type == 1)
      let native := (sectionsOf img).any (·.type == 2)
      let fits := native && Config.nativeMatches img s.pkg.build
      match erratumIn img s.pkg.build with
      | none =>
        if fits then .ok (true, sectionIndex img 2)
        else if graph then .ok (false, sectionIndex img 1)
        else .error (plainErr leBadop (if native then sectionIndex img 2 else 0xFFFF))
      | some k =>
        if graph then .ok (false, sectionIndex img 1)
        else if fits then .error (plainErr leErratum k)
        else .error (plainErr leBadop (if native then sectionIndex img 2 else 0xFFFF))

/-! ### Pages, stages and roles of a graph -/

/-- The pages in declaration order: the members of page roles. -/
def gPages (g : Graph) : List (Nat × Nat) :=
  (g.roles.mapIdx fun k r => (k, r)).flatMap fun kr => if kr.2.isCell then [] else (List.range kr.2.count).map fun m => (kr.1, m)

def gPageOf (g : Graph) (c : GCell) : Nat := (gPages g).findIdx (· == (c.role, c.member))

/-- The cells of a page, by number. -/
def gCellsOn (g : Graph) (p : Nat) : List (Nat × GCell) := (g.cells.mapIdx fun k c => (k, c)).filter fun kc => gPageOf g kc.2 == p

/-- A cell's tasks in declaration order. -/
def gTasksOn (g : Graph) (cell : Nat) : List GTask := g.tasks.filter (·.cell == cell)

/-- The stage of a page: that of the tasks on its cells. -/
def gStageOf (g : Graph) (p : Nat) : Option Nat :=
  (gCellsOn g p).findSome? fun kc => (gTasksOn g kc.1).findSome? (·.stage)

/-- How many replicas a page has (12 R318). -/
def gReplicas (g : Graph) (p : Nat) : Nat :=
  match (gStageOf g p).bind (g.stages[·]?) with
  | some st => st.max
  | none => 1

/-- The pages of a role: its members, or the pages of the cells bound to it. -/
def gRolePages (g : Graph) (k : Nat) : List Nat :=
  ((gPages g).mapIdx fun p rm => (p, rm)).filterMap (fun x => if x.2.1 == k then some x.1 else none)
    ++ g.cells.filterMap fun c => if c.bind.any (·.1 == k) then some (gPageOf g c) else none

/-- `RM1` + 1 of a role. -/
def gRoleReplicas (g : Graph) (k : Nat) : Nat := ((gRolePages g k).map (gReplicas g)).foldl max 1

def gRolesOf (g : Graph) (group : Nat) : List Nat :=
  ((g.roles.mapIdx fun k r => (k, r)).filter (·.2.group == group)).map (·.1)

/-- The groups that a page belongs to (R316). -/
def gGroupsOf (g : Graph) (p : Nat) : List Nat :=
  ((g.roles.mapIdx fun k r => (k, r)).filter fun kr => (gRolePages g kr.1).contains p).foldl (fun l kr => natInsert l kr.2.group) []

/-- The site kinds of a page (01 R21). -/
def siteKind (x y : Nat) : Option CellKind :=
  if [(3, 0), (7, 3), (4, 7), (0, 4)].contains (x, y) then none
  else if tileSites.contains (x, y) then some .t
  else if [(2, 2), (5, 2), (3, 3), (4, 3), (3, 4), (4, 4), (2, 5), (5, 5)].contains (x, y) then some .m
  else if x < 8 ∧ y < 8 then some .v
  else none

def allSites : List (Nat × Nat) := (List.range 8).flatMap fun y => (List.range 8).map fun x => (x, y)

/-- A cell's number among the cells of its page and kind that name no site. -/
def freeRank (g : Graph) (k : Nat) (c : GCell) : Nat :=
  ((gCellsOn g (gPageOf g c)).filter fun kc => decide (kc.1 < k) && kc.2.kind == c.kind && kc.2.site.isNone).length

/-- The site of a cell: its own, or the loader's choice, the lowest of its kind that is left (LOG 7, DESIGN CHOICE). -/
def gSite (g : Graph) (k : Nat) (c : GCell) : Option (Nat × Nat) :=
  match c.site with
  | some xy => some xy
  | none =>
    let named := (gCellsOn g (gPageOf g c)).filterMap (·.2.site)
    (allSites.filter fun xy => siteKind xy.1 xy.2 == some c.kind && !named.contains xy)[freeRank g k c]?

/-! ### Arcs of a graph -/

def gArcTo (g : Graph) (cell port : Nat) : Option GArc := g.arcs.find? fun a => a.cCell == cell && a.cPort == port
def gArcFrom (g : Graph) (cell port : Nat) : Option GArc := g.arcs.find? fun a => a.pCell == cell && a.pPort == port

def gKind (g : Graph) (cell : Nat) : Option CellKind := (g.cells[cell]?).map (·.kind)

/-- The cells that lie on no cycle of wire arcs taken away, `n` times: a cell that no wire arc of the rest enters (R45). -/
def wirePeel (g : Graph) : Nat → List Nat → List Nat
  | 0, l => l
  | n + 1, l => wirePeel g n (l.filter fun c => g.arcs.any fun a => a.slots == 0 && a.cCell == c && l.contains a.pCell)

/-- A directed cycle whose arcs are all wire arcs (R45). -/
def wireCycle (g : Graph) : Bool := !(wirePeel g g.cells.length (List.range g.cells.length)).isEmpty

/-- An arc whose ends have different level-2 scopes and that names no Weir (09 R243). -/
def lacksWeir (g : Graph) (a : GArc) : Bool :=
  match g.cells[a.pCell]?, g.cells[a.cCell]? with
  | some p, some c => a.weir.isNone && p.role != c.role
  | _, _ => false

/-- Attributes out of range (02 R44), a port that does not exist, and the tile ports of 07 R199. -/
def arcBad (g : Graph) (a : GArc) : Bool :=
  let pk := gKind g a.pCell
  let ck := gKind g a.cCell
  pk.isNone || ck.isNone || decide (8 ≤ a.pPort) || decide (8 ≤ a.cPort) || decide (8 < a.slots)
    || a.burst == 0 || decide (64 < a.burst) || a.weir.any (fun w => decide (g.weirs.length ≤ w))
    || (pk == some .t && (decide (4 ≤ a.pPort) || a.isPred)) || (ck == some .t && (a.isPred || pk != some .v))

/-- Two arcs at one port. -/
def sharedEnds (g : Graph) : Bool :=
  let ps := g.arcs.map fun a => (a.pCell, a.pPort)
  let cs := g.arcs.map fun a => (a.cCell, a.cPort)
  ps.any (fun x => 1 < ps.count x) || cs.any fun x => 1 < cs.count x

/-! ### Declarations (R62, R65, 12 R316, R318) -/

/-- A data region: format, address, alignment and bytes. -/
def dataOf (g : Graph) (k : Nat) : Option (Fmt × Option Nat × Nat × List Byte) :=
  match g.symbols[k]? with
  | some (.data f a al bytes) => some (f, a, al, bytes)
  | _ => none

def isBook (g : Graph) (k : Nat) : Bool :=
  match g.symbols[k]? with
  | some (.codebook _) => true
  | _ => false

def sregsOf (t : GTask) : Nat := (t.sregs + 1) / 2 * 2

/-- A chain's region (10 R292). -/
def chainBad (g : Graph) (k : Nat) : Bool :=
  !(dataOf g k).any fun d =>
    let n := d.2.2.2.length / 64 - 1
    d.1 == Fmt.raw && d.2.2.1 % 64 == 0 && d.2.2.2.length % 64 == 0 && (List.range 12).any fun e => n == 2 ^ (e + 1)

def taskBad (g : Graph) (t : GTask) : Bool :=
  (match gKind g t.cell with
   | some .t => true
   | none => true
   | some _ => false)
    || decide (2 ≤ t.prio) || !t.blocks.contains t.entry || t.ports.any (8 ≤ ·) || decide (32 < t.banks.length)
    || t.banks.any (fun b => gKind g b.1 != some .t || decide (16 ≤ b.2))
    || t.seals.any (fun c => c == 0 || decide (256 ≤ c)) || t.chains.any (chainBad g)
    || t.stage.any (fun k => decide (g.stages.length ≤ k))

/-- A cell's tasks are too many, share a port, or name more than four chains (R65, 10 R292). -/
def cellBad (g : Graph) (k : Nat) (c : GCell) : Bool :=
  let ts := gTasksOn g k
  let ports := ts.flatMap (·.ports)
  decide ((if c.kind == .m then 4 else 8) < ts.length) || ports.any (fun p => 1 < ports.count p)
    || decide (4 < (ts.map (·.chains.length)).sum) || (c.hasConsts && c.kind != .v)
    || decide ((gPages g).length ≤ gPageOf g c)
    || (match gSite g k c with
        | none => true
        | some xy => siteKind xy.1 xy.2 != some c.kind)
    || (gCellsOn g (gPageOf g c)).any (fun kc => kc.1 != k && kc.2.site.isSome && kc.2.site == c.site)
    || (match c.bind.bind fun b => (g.roles[b.1]?).map fun r => (b, r) with
        | some (b, r) => !r.isCell || decide (r.count ≤ b.2)
        | none => c.bind.isSome)

/-- The registers of one task, or of a cell's tasks together, are too many; an M-cell's task has none (R65, 06 R167). -/
def cellRegs (g : Graph) (k : Nat) (c : GCell) : Bool :=
  let ts := gTasksOn g k
  ts.any (fun t => decide (16 < t.sregs)) || decide (16 < (ts.map sregsOf).sum) || (c.kind == .m && ts.any (·.sregs != 0))

/-- R318: on a page of a stage every cell with tasks holds only tasks of that stage. -/
def stageMixed (g : Graph) (p : Nat) : Bool :=
  match gStageOf g p with
  | none => false
  | some k => (gCellsOn g p).any fun kc => (gTasksOn g kc.1).any fun t => t.stage != some k

/-- Two cells bound to one member of a cell role. -/
def boundTwice (g : Graph) : Bool := let l := g.cells.filterMap (·.bind); l.any fun b => 1 < l.count b

def groupsBad (x : Context) (g : Graph) : Bool :=
  decide (256 < g.groups.length) || g.groups.any (fun i => decide (256 ≤ i) || 1 < g.groups.count i || groupUsed x i)
    || g.roles.any (fun r => decide (g.groups.length ≤ r.group) || r.count == 0 || decide (4096 < r.count))

def stagesBad (g : Graph) : Bool :=
  g.stages.any fun st => decide (254 < st.id) || st.min == 0 || decide (st.max < st.min) || decide (64 < st.max)

/-! ### Symbols and range entries (R62, 15 R384, R390) -/

def pow2 (n : Nat) : Bool := (List.range 58).any fun e => n == 2 ^ e

/-- `.data` beneath a CB4S range's codebook takes no address of its own. -/
def symbolBad (g : Graph) : GSym → Bool
  | .data _ a al bytes =>
    !(pow2 al && decide (64 ≤ al)) || a.any (fun v => v % al != 0 || decide (2 ^ 57 < v + bytes.length))
  | .codebook l => l.length != 16
  | .range r =>
    let book := r.fmt == Fmt.cb4 || r.fmt == Fmt.cb4s
    (match r.data with
     | some k => (dataOf g k).isNone
     | none => r.base % 64 != 0 || r.lim % 64 != 0 || decide (r.lim ≤ r.base) || decide (2 ^ 57 < r.lim))
      || (match r.codebook with
          | none => book
          | some k => !book || !isBook g k)
      || (match r.scales with
          | none => burstScaled r.fmt
          | some k => !burstScaled r.fmt || !(dataOf g k).any fun d => d.1 == Fmt.uint8 && !(r.fmt == Fmt.cb4s && d.2.1.isSome))
      || r.fmt == 0x15 || decide (0x1C ≤ r.fmt.toNat)

/-- The scale arrays of a graph's CB4S ranges, each with the codebook that stands before it (R62). -/
def scaleBooks (g : Graph) : List (Nat × Nat) :=
  g.symbols.filterMap fun x => match x with
    | .range r => if r.fmt == Fmt.cb4s then r.scales.bind fun d => r.codebook.map fun b => (d, b) else none
    | _ => none

/-- Two codebooks before one scale array: no place holds both (LOG 8, DESIGN CHOICE). -/
def booksClash (g : Graph) : Bool := (scaleBooks g).any fun x => (scaleBooks g).any fun y => x.1 == y.1 && x.2 != y.2

/-- The first data region whose scales stand directly after a codebook. -/
def bookUse (g : Graph) (k : Nat) : Option Nat := ((scaleBooks g).find? (·.2 == k)).map (·.1)

/-- The loader's choice of an address, aligned (LOG 8, DESIGN CHOICE); `low` multiples of the alignment lie below it. -/
def chosenPlace (inst k al low : Nat) : Nat := (Config.symbolPlace inst k % 2 ^ 56 / al + low) * al

/-- A region under which a codebook stands is not placed at address 0. -/
def roomBelow (g : Graph) (k : Nat) : Nat := if (scaleBooks g).any (·.1 == k) then 1 else 0

/-- No multiple of its alignment but 0 lies in the address space for a region under which a codebook stands. -/
def noPlace (g : Graph) : Bool := (scaleBooks g).any fun x => (dataOf g x.1).any fun d => decide (2 ^ 57 ≤ d.2.2.1)

/-- The address of a data region or of a codebook. -/
def symbolAddr (g : Graph) (inst k : Nat) : Nat :=
  match g.symbols[k]? with
  | some (.data _ (some v) _ _) => v
  | some (.data _ none al _) => chosenPlace inst k al (roomBelow g k)
  | some (.codebook _) =>
    (match bookUse g k with
     | some d => chosenPlace inst d ((dataOf g d).elim 64 (·.2.2.1)) 1 - 32
     | none => chosenPlace inst k 64 0)
  | _ => 0

/-- `RGBASE`, `RGLIM` and `RGOFF` of a range. -/
def rangeSpan (g : Graph) (inst k : Nat) (r : GRange) : Nat × Nat × Nat :=
  match r.data with
  | some d =>
    let base := symbolAddr g inst d
    let len := (dataOf g d).elim 64 fun x => (x.2.2.2.length + 63) / 64 * 64
    (base / 64 * 64, base / 64 * 64 + max len 64, Config.rangeOffset inst k % 2 ^ 57 / 64 * 64)
  | none => (r.base, r.lim, r.off)

/-- A range entry as the table holds it (R384). -/
def rangeEntry (g : Graph) (inst k : Nat) (r : GRange) : RangeEntry :=
  let x := rangeSpan g inst k r
  let at_ :=
    if r.fmt == Fmt.cb4 then r.codebook.elim 0 fun b => symbolAddr g inst b / 32
    else r.scales.elim 0 fun d => (symbolAddr g inst d - (if r.fmt == Fmt.cb4s then 32 else 0)) / 32
  { base := x.1, lim := x.2.1, off := x.2.2
    ctl := BitVec.ofNat 52 at_ ++ r.fmt ++ 0#4 ++ BitVec.ofBool r.writable ++ BitVec.ofBool r.readable ++ 1#1 }

/-- The range entries of a graph, with their symbols' places. -/
def gRanges (g : Graph) (inst : Nat) : List RangeEntry :=
  (g.symbols.mapIdx fun k x => (k, x)).filterMap fun kx => match kx.2 with
    | .range r => some (rangeEntry g inst kx.1 r)
    | _ => none

def spanOut (e : RangeEntry) : Bool := decide (2 ^ 52 < (e.base + e.off) % 2 ^ 57 + (e.lim - e.base))

def spansMeet (a b : RangeEntry) : Bool := decide (a.base < b.lim) && decide (b.base < a.lim)

def anyMeet : List RangeEntry → Bool
  | [] => false
  | e :: r => r.any (spansMeet e) || anyMeet r

/-- Too few scale bytes for a range (R62). -/
def scalesShort (g : Graph) (inst : Nat) : Bool :=
  (g.symbols.mapIdx fun k x => (k, x)).any fun kx => match kx.2 with
    | .range r =>
      let x := rangeSpan g inst kx.1 r
      (r.scales.bind (dataOf g)).any fun d => decide (d.2.2.2.length < (x.2.1 - x.1) / 64)
    | _ => false

def rangesBad (x : Context) (g : Graph) (inst : Nat) : Bool :=
  let new := gRanges g inst
  decide (256 < x.ranges.length + new.length) || new.any spanOut || new.any (fun e => x.ranges.any (spansMeet e))
    || anyMeet new || scalesShort g inst || booksClash g || noPlace g || decide (4096 < g.symbols.length)

/-! ### Blocks (R46-R50) and words (R84) -/

def blankStore (c : GCell) : Cell :=
  { page := 0, inst := 0, decl := 0, sx := 0, sy := 0, kind := c.kind, store := c.words, badWords := []
    consts := c.consts, ptr0 := 0, ptr1 := 0, role := none, mat := MState.empty
    slots := Vector.replicate 4 StreamSlot.idle, replay := [], rr := [] }

def storeSize (k : CellKind) : Nat := if k == .m then 512 else 2048

/-- Index ranges of a guard (R48). -/
def guardBad (g : Graph) (k : Nat) (c : GCell) (t : GTask) (h : BitVec 128) : Bool :=
  let i := hGidx h
  match hGuard h with
  | 0 => i != 0
  | 1 => decide (16 ≤ i)
  | 2 => decide (t.banks.length ≤ i)
  | 3 => decide (((gTasksOn g k).map (·.chains.length)).sum ≤ i / 8) || c.kind == .m
  | 4 => decide (16 ≤ i) || c.kind == .m
  | _ => true

/-- The header check of a block at `a` of a task. -/
def headerBad (g : Graph) (k : Nat) (c : GCell) (t : GTask) (a : Nat) : Bool :=
  let h := headerAt (blankStore c) a
  let pairs (m : Nat) : Bool := (List.range 8).any fun j => maskBit m j && decide (sregsOf t < 2 * j + 2)
  hSig h != 0x5A || decide (storeSize c.kind < a + hNins h + 3)
    || (List.range 8).any (fun p => maskBit (hInmask h) p && !t.ports.contains p)
    || pairs (hSread h) || pairs (hSwrite h) || guardBad g k c t h
    || (List.range 4).any fun e =>
        (hExit h e).extractLsb' 11 4 != 0#4 || (exitValid (hExit h e) && !t.blocks.contains (exitAddr (hExit h e)))

/-- Another block of the cell starts inside this one. -/
def overlapped (g : Graph) (k : Nat) (c : GCell) (a : Nat) : Bool :=
  let n := blockLen (blankStore c) a + 2
  ((gTasksOn g k).flatMap (·.blocks)).any fun b => decide (a < b ∧ b < a + n)
    || decide (1 < ((gTasksOn g k).flatMap (·.blocks)).count a)

/-- What the checks of words know at load. -/
def loadEnv (s : State) (x : Context) (g : Graph) (pmint : Bool) (c : GCell) (t : GTask) : CheckEnv :=
  let roles (gid : Nat) : List Nat := match g.groups.findIdx? (· == gid) with
    | some i => gRolesOf g i
    | none => []
  { kind := c.kind, pmint := pmint, banks := t.banks.length, sregs := sregsOf t, sluices := g.sluices.length
    roleOk := fun gid r => decide (r < (roles gid).length) || (groupUsed x gid && decide (r < groupRoles x gid))
    spawnOk := fun gid r k =>
      match (roles gid)[r]? with
      | some q =>
        (g.roles[q]?).any (·.isCell)
          && (g.cells.mapIdx fun n d => (n, d)).all fun nd => !nd.2.bind.any (·.1 == q) || decide (k < (gTasksOn g nd.1).length)
      | none => spawnLegal s x gid r k }

def isRowOp (op : Nat) : Bool := op == 0x0E2 || op == 0x0E3

/-- What check 10 knows of a word's block: the graph, the cell and the task, the header, and the words before it. -/
structure PortEnv where
  g : Graph
  k : Nat
  c : GCell
  t : GTask
  h : BitVec 128
  ws : List IWord
  n : Nat

/-- The block holds at most one such word: where it holds more, each of them fails. LOG 19, DEDUCED. -/
def PortEnv.single (e : PortEnv) (p : Nat → Bool) : Bool := decide ((e.ws.filter fun w => p (opOf w)).length ≤ 1)
def PortEnv.holds (e : PortEnv) (p : Nat → Bool) : Bool := e.ws.any fun w => p (opOf w)

/-- An earlier task of the cell holds a matrix instruction (06 R168). -/
def PortEnv.secondMatrix (e : PortEnv) : Bool :=
  match (gTasksOn e.g e.k).find? fun t => t.blocks.any fun a => (blockWords (blankStore e.c) a).any fun w => isMatrixOp (opOf w) with
  | some t => t != e.t
  | none => false

/-- The output port is named in `OUTMASK` and its arc meets a condition. -/
def PortEnv.out (e : PortEnv) (p : Nat) (ok : GArc → Bool) : Bool :=
  maskBit (hOutmask e.h) p && (gArcFrom e.g e.k p).any ok

/-- The arc ends at a port of a tile. -/
def PortEnv.toTile (e : PortEnv) (a : GArc) : Bool := gKind e.g a.cCell == some .t
def PortEnv.toCommand (e : PortEnv) (a : GArc) : Bool := e.toTile a && decide (a.cPort < 4)
def PortEnv.toPush (e : PortEnv) (a : GArc) : Bool := e.toTile a && decide (4 ≤ a.cPort)

/-- Registers `b` to `b + n - 1` lie in a mask of pairs. -/
def regsIn (mask b n : Nat) : Bool := (List.range n).all fun i => maskBit mask ((b + i) / 2)

/-- No valid entry of `ACCREL`'s route word sends to a tile's command or push port (07 R199). -/
def PortEnv.routeOk (e : PortEnv) (i : Nat) : Bool :=
  let rw : BitVec 32 := if h : bits i 11 8 < 16 then e.c.consts[bits i 11 8] else 0
  (List.range 8).all fun x => !rw.getLsbD (24 + x) || !((gArcFrom e.g e.k (rw.extractLsb' (3 * x) 3).toNat).any e.toTile)

/-- The chains of a task by the cell's chain numbers (10 R292). -/
def PortEnv.ownChain (e : PortEnv) (j : Nat) : Bool :=
  let owners := (gTasksOn e.g e.k).flatMap fun t => List.replicate t.chains.length t
  owners[j]? == some e.t

/-- Check 10 of one word (02 R44, R50, and the descriptions). In a block that holds MSWAP, or MCBL.B, together with a row (06
R176, R178), the MSWAP or MCBL.B word is the one that fails (LOG 32, DESIGN CHOICE). A CHSEQ passes whatever chain it names, one that
its cell does not have too (LOG 35, DESIGN CHOICE). -/
def portsOk (e : PortEnv) (w : IWord) : Bool :=
  let f := fieldsOf w
  let i := immOf w
  let p := i % 8
  let inArc := gArcTo e.g e.k p
  let inMask := maskBit (hInmask e.h) p
  let rd := hSread e.h
  let wr := hSwrite e.h
  let tile := regsIn rd (tileBase f) (tileSize f) && regsIn wr (tileBase f) (tileSize f)
  (!isMatrixOp (opOf w) || !e.secondMatrix) &&
    (match opOf w with
     | 0x001 => inMask && inArc.isSome
     | 0x002 => regsIn rd (i % 16) 1
     | 0x006 => regsIn wr (i % 16) 1
     | 0x00D | 0x00E => regsIn rd (i % 16) 1 && regsIn wr (i % 16) 1
     | 0x005 => e.out p fun a => !e.toTile a
     | 0x007 => e.out p fun a => !e.toTile a && !a.isPred
     | 0x0A1 | 0x0A2 | 0x0A3 | 0x0B7 => regsIn rd (i % 16) 2
     | 0x0E1 => !e.holds isRowOp
     | 0x0E4 => f.mod != 1 || !e.holds isRowOp
     | 0x0E2 | 0x0E3 =>
       e.single isRowOp
         && (i.testBit 3 || (gArcFrom e.g e.k p).any fun a => !a.isPred && !e.toTile a)
         && (opOf w == 0x0E2 ||
             ((gArcTo e.g e.k (bits i 6 4)).any (fun a => !a.isPred) && e.t.ports.contains (bits i 6 4)
               && !((gTasksOn e.g e.k).flatMap (·.blocks)).any fun b =>
                   maskBit (hInmask (headerAt (blankStore e.c) b)) (bits i 6 4)))
     | 0x0E5 | 0x0E6 => tile && e.single fun o => o == 0x0E5 || o == 0x0E6 || o == 0x0E8
     | 0x0E8 => tile && e.routeOk i && e.single fun o => o == 0x0E5 || o == 0x0E6 || o == 0x0E8
     | 0x0EC => tile
     | 0x11A | 0x11B => e.ownChain (i % 4)
     | 0x140 | 0x141 => e.out p e.toCommand
     | 0x143 => e.out p e.toPush
     | 0x142 => e.t.ports.contains p && !inMask && inArc.any fun a => !a.isPred
     | 0x14D => (gArcFrom e.g e.k p).any e.toCommand
     | 0x173 => (List.range 8).all fun q => !i.testBit q || e.out q fun _ => true
     | 0x1A4 => inMask && inArc.any fun a => gKind e.g a.pCell == some .t && a.slots != 0
     | _ => true)

/-- The formats refused at service level 1 (18 R456). -/
def lowFormat (w : IWord) : Bool :=
  [0x0E0, 0x0E2, 0x0E3, 0x0E4].contains (opOf w)
    && [0x04, 0x05, 0x08, 0x09, 0x10, 0x11, 0x12, 0x13].contains (fieldsOf w).ft.toNat

/-- The first check that a word of a block fails, none where it is legal (R84). -/
def loadCheck (s : State) (e : CheckEnv) (p : PortEnv) (mos : List (Option Nat)) (w : IWord) : Option Nat :=
  match wordCheck e p.ws mos p.n w with
  | 0 => if !portsOk p w then some 10 else if s.pkg.level == 1 && lowFormat w then some 0 else none
  | k => some k

/-- The lowest illegal word of a block, or its header. -/
def blockErr (s : State) (x : Context) (g : Graph) (pmint : Bool) (sect k : Nat) (c : GCell) (t : GTask) (a : Nat) :
    Option LoadErr :=
  if headerBad g k c t a || overlapped g k c a then some ⟨leBadop, sect, k, 0, a⟩
  else
    let ws := blockWords (blankStore c) a
    let mos := valueMo ws ws.length
    (List.range ws.length).findSome? fun n =>
      match ws[n]? with
      | none => none
      | some w =>
        (loadCheck s (loadEnv s x g pmint c t) ⟨g, k, c, t, headerAt (blankStore c) a, ws, n⟩ mos w).map fun q =>
          ⟨leBadop, sect, k, q, a + 2 + n⟩

/-- The blocks of a cell in the order of their addresses, with their tasks. -/
def blocksByAddr (g : Graph) (k : Nat) : List (GTask × Nat) :=
  let l := (gTasksOn g k).flatMap fun t => t.blocks.map fun a => (t, a)
  (l.foldl (fun m x => natInsert m x.2) []).flatMap fun a => l.filter (·.2 == a)

/-- The lowest illegal word of a cell (R83). -/
def cellErr (s : State) (x : Context) (g : Graph) (pmint : Bool) (sect k : Nat) (c : GCell) : Option LoadErr :=
  (blocksByAddr g k).findSome? fun ta => blockErr s x g pmint sect k c ta.1 ta.2

/-- A slot that `SSET.KEYVAL` commands, with no arc at its output and none at its push port, can only be one of `JOIN` whose output
is not bound (07 R209). LOG 24, DEDUCED. -/
def joinBad (g : Graph) : Bool :=
  (g.cells.mapIdx fun k c => (k, c)).any fun kc =>
    (gTasksOn g kc.1).any fun t => t.blocks.any fun b => (blockWords (blankStore kc.2) b).any fun w =>
      opOf w == 0x140 && (fieldsOf w).ft == Fmt.keyval &&
        (gArcFrom g kc.1 (immOf w % 8)).any fun a =>
          gKind g a.cCell == some .t && decide (a.cPort < 4) && (gArcFrom g a.cCell a.cPort).isNone
            && (gArcTo g a.cCell (a.cPort + 4)).isNone

/-- Step 2 of R324: the declarations, then every word of every block in the cells' declaration order. -/
def graphErr (s : State) (x : Context) (g : Graph) (pmint : Bool) (overrides : List (Nat × BitVec 32)) (inst sect : Nat) :
    Option LoadErr :=
  let cells := g.cells.mapIdx fun k c => (k, c)
  let bad := plainErr leBadop sect
  match firstErr
    [ (overrides.any fun o => decide (g.params ≤ o.1), bad),
      (groupsBad x g || stagesBad g || g.weirs.any (8 ≤ ·), bad),
      (g.sluices.any fun q => decide (g.arcs.length ≤ q.1), bad),
      (g.arcs.any (arcBad g) || sharedEnds g, bad),
      (g.tasks.any (taskBad g) || cells.any (fun kc => cellBad g kc.1 kc.2) || boundTwice g, bad),
      ((List.range (gPages g).length).any (stageMixed g), bad),
      (g.symbols.any (symbolBad g) || rangesBad x g inst, bad),
      (joinBad g, bad),
      (wireCycle g, plainErr leZeroLoop sect),
      (g.arcs.any (lacksWeir g), plainErr leNoWeir sect),
      ((List.range (gPages g).length).any fun p => decide (4 < (gGroupsOf g p).length), plainErr leGroups sect) ] with
  | some e => some e
  | none =>
    match cells.find? fun kc => cellRegs g kc.1 kc.2 with
    | some kc => some ⟨leStateRegs, sect, kc.1, 0, 0⟩
    | none => cells.findSome? fun kc => cellErr s x g pmint sect kc.1 kc.2

end Sys2Proof.Machine
end

