-- ==== Sys2Proof/Machine/Launch.lean ====
section
/-! DEFINITION. The mailbox (18_surroundings.md R447) and its Launch command (R448, 12_progress_fabric.md R324): the
request, the placement of a graph's pages, and the state that a launch writes. -/

namespace Sys2Proof.Machine

/-! ### The mailbox -/

/-- How a command ends: done, refused with a status and nothing changed, ended with a status and results, or still running. -/
inductive MbRes where
  | done (s : State)
  | status (k : BitVec 8)
  | ended (s : State) (k : BitVec 8)
  | running (s : State)

def mbSet (s : State) (g : Mailbox → Mailbox) : State := { s with pkg := { s.pkg with mailbox := g s.pkg.mailbox } }

/-- Accepting a command is an acquire, at level 7, by its context: the line buffers of its pages are emptied (R446). -/
def acceptAcquire (s : State) : State :=
  { s with pages := tmap s.pages fun _ p => if p.asid == s.args.asid then { p with lines := [] } else p }

/-- A command written to `MBCMD`, which runs with the arguments standing in `MBARG0` and `MBARG1`: ignored while one runs, or
while the package is held (R457). Its body finds the arguments in `args.w0` and `args.w1`. -/
def mbRun (code : BitVec 8) (s : State) (body : State → MbRes) : Host.Outcome State Fault Refusal :=
  if s.pkg.mailbox.stat = 1 || s.pkg.bfail then .next s
  else
    let m := s.pkg.mailbox
    let s1 := { mbSet s fun x => { x with cmd := code ++ 0#48 ++ s.args.asid, stat := 1 } with
      args := { s.args with w0 := m.arg0, w1 := m.arg1 } }
    match body (acceptAcquire s1) with
    | .done s2 => .next (endMailbox s2 0x00)
    | .status k => .next (endMailbox s1 k)
    | .ended s2 k => .next (endMailbox s2 k)
    | .running s2 => .next s2

/-- A command that names a live context. -/
def mbCtx (code : BitVec 8) (s : State) (body : State → Context → MbRes) : Host.Outcome State Fault Refusal :=
  mbRun code s fun s1 =>
    match tget s1.contexts s1.args.asid with
    | some x => body s1 x
    | none => .status 0x02

/-! ### The launch request (R448) -/

structure LaunchReq where
  img : Nat
  len : Nat
  mark : Nat
  floor : Nat
  hold : Nat
  high : Nat
  low : Nat
  interval : Nat
  nParams : Nat
  nShared : Nat
  levels : List Nat
  overrides : List (Nat × BitVec 32)
  shared : List (Nat × BitVec 32 × Nat)
  deriving DecidableEq, Repr

/-- A field with its default in place of one value. -/
def orDefault (v code dflt : Nat) : Nat := if v = code then dflt else v

/-- The request at a physical address. -/
def requestAt (s : State) (pa : Nat) : LaunchReq :=
  let at_ (o n : Nat) : Nat := readNat s.phys (pa + o) n
  let np := at_ 0x1C 2
  let ns := at_ 0x1E 2
  { img := at_ 0x00 8, len := at_ 0x08 8, mark := orDefault (at_ 0x10 4) 0xFFFFFFFF 4096, floor := at_ 0x14 1
    hold := orDefault (at_ 0x15 1) 0 2, high := orDefault (at_ 0x16 1) 0 48, low := orDefault (at_ 0x17 1) 0xFF 16
    interval := orDefault (at_ 0x18 4) 0 1000, nParams := np, nShared := ns
    levels := (List.range 16).map fun f => at_ (0x20 + f) 1
    overrides := (List.range np).map fun k =>
      (at_ (0x40 + 8 * k + 4) 2, BitVec.ofNat 32 (at_ (0x40 + 8 * k) 4))
    shared := (List.range ns).map fun k =>
      let w := at_ (0x40 + 8 * np + 8 * k) 8
      (w % 2 ^ 16, BitVec.ofNat 32 (w / 2 ^ 16), w / 2 ^ 48 % 2 ^ 14) }

/-- Every field lies in its range (R448, 12 R321, 16 R413, R418). -/
def requestOk (r : LaunchReq) : Bool :=
  r.img % 64 == 0 && decide (r.mark ≤ 2 ^ 20) && decide (r.floor ≤ 2) && decide (1 ≤ r.hold ∧ r.hold ≤ 16)
    && decide (1 ≤ r.high ∧ r.high ≤ 64) && decide (r.low < r.high) && decide (r.low ≤ 63)
    && decide (250 ≤ r.interval ∧ r.interval ≤ 64000) && decide (r.nParams ≤ 256) && decide (r.nShared ≤ 64)
    && r.levels.all fun l => decide (l ≤ 7) || l == 0xFF

/-! ### Numbers that a launch chooses (LOG 7, DESIGN CHOICE) -/

/-- One above every number of a table. -/
def freeNumber {α : Type} (t : Table Nat α) : Nat := t.foldl (fun m kv => max m (kv.1 + 1)) 0

/-- The next instance number: not 0, and none that is held (R449). -/
def numberFrom (s : State) : Nat → BitVec 32 → BitVec 32
  | 0, n => n
  | fuel + 1, n =>
    let held := s.instances.any (fun ki => ki.1 == n && ki.2.ended.isNone) || s.pkg.endDue.any (·.inst == n)
    if n = 0 || held then numberFrom s fuel (n + 1) else n

/-- The lowest place of `n` free entries in a table of `cap`, the used ones given as (base, length). -/
def fitAt (used : List (Nat × Nat)) (n cap : Nat) : Option Nat :=
  let free (b : Nat) : Bool := decide (b + n ≤ cap) && used.all fun u => u.2 == 0 || decide (b + n ≤ u.1) || decide (u.1 + u.2 ≤ b)
  (0 :: used.map fun u => u.1 + u.2).foldl (fun m b =>
    if !free b then m
    else match m with
      | some x => some (min x b)
      | none => some b) none

/-- Places for several runs of entries, one after another. -/
def fitAll (used : List (Nat × Nat)) (cap : Nat) : List Nat → Option (List Nat)
  | [] => some []
  | n :: r =>
    match fitAt used n cap with
    | none => none
    | some b => (fitAll ((b, n) :: used) cap r).map (b :: ·)

def usedRoles (x : Context) : List (Nat × Nat) := x.groups.map fun e => (groupBase x e.1, groupRoles x e.1)

def usedMembers (x : Context) : List (Nat × Nat) :=
  (x.roles.filter fun e => e.2.getLsbD 63).map fun e => (roleBase e.2, roleCount e.2 * roleReplicas e.2)

/-- Where a graph's groups and roles stand: bases of the groups in the role table, of the roles in the binding table. -/
def tablePlaces (x : Context) (g : Graph) : Option (List Nat × List Nat) :=
  match fitAll (usedRoles x) 1024 ((List.range g.groups.length).map fun i => (gRolesOf g i).length) with
  | none => none
  | some gs =>
    (fitAll (usedMembers x) 16384 (g.roles.mapIdx fun k r => r.count * gRoleReplicas g k)).map fun rs => (gs, rs)

/-! ### The plan of a launch -/

/-- What a launch has decided: its number, the pages by (page, replica), those shared, and the cells by (cell, replica). -/
structure Plan where
  g : Graph
  inst : BitVec 32
  asid : BitVec 8
  shared : List (Nat × Nat)
  pages : Table (Nat × Nat) Nat
  cells : Table (Nat × Nat) Nat
  deriving DecidableEq, Repr

/-- The entry that binds member `m`, replica 0 of a role in the new graph's own numbering: its roles laid out from 0. -/
def newIndex (g : Graph) (k m : Nat) : Nat :=
  (((List.range k).map fun j => (match g.roles[j]? with
    | some r => r.count * gRoleReplicas g j
    | none => 0)).sum) + m * gRoleReplicas g k

/-- A shared-page entry: the graph's page and the page it names, where R325 allows it. -/
def sharePage (s : State) (x : Context) (asid : BitVec 8) (g : Graph) (e : Nat × BitVec 32 × Nat) : Option (Nat × Nat) :=
  match (gPages g).findIdx? (fun rm => newIndex g rm.1 rm.2 == e.1), tget x.members e.2.2 with
  | some p, some (pid, none) =>
    (match tget s.pages pid, tget s.instances e.2.1 with
     | some pg, some i =>
       if pg.asid == asid && i.asid == asid && i.ended.isNone && !i.ending && !pg.returned
           && (pg.inst == e.2.1 || pg.sharers.contains e.2.1) && gReplicas g p == 1
           && (gCellsOn g p).all (fun kc => kc.2.kind == .t && kc.2.site.isSome)
       then some (p, pid) else none
     | _, _ => none)
  | _, _ => none

/-- Every shared page, none where one of them is refused. -/
def sharePages (s : State) (x : Context) (asid : BitVec 8) (g : Graph) : List (Nat × BitVec 32 × Nat) → Option (List (Nat × Nat))
  | [] => some []
  | e :: r =>
    match sharePage s x asid g e, sharePages s x asid g r with
    | some y, some l => if l.any (·.1 == y.1) then none else some (y :: l)
    | _, _ => none

/-- Two pages of one role, or two tiles of one cell role, that sharing would make one (R316). -/
def sharedTwice (g : Graph) (shared : List (Nat × Nat)) : Bool :=
  let role (p : Nat) : Option Nat := ((gPages g)[p]?).map (·.1)
  shared.any fun a => shared.any fun b => a.1 != b.1 && a.2 == b.2 &&
    (role a.1 == role b.1 || (gCellsOn g a.1).any fun c => (gCellsOn g b.1).any fun d =>
      c.2.site == d.2.site && c.2.bind.isSome && c.2.bind.map (·.1) == d.2.bind.map (·.1))

/-- The groups that a page of a context belongs to (R316). -/
def groupsHolding (x : Context) (page : Nat) : List Nat :=
  (x.groups.filter fun e => groupUsed x e.1 && (List.range (groupRoles x e.1)).any fun r =>
    (roleMembers x (roleEntry x e.1 r)).any fun m => m.2.1 == page).map (·.1)

/-- A shared page would belong to more than four groups, those it has already and the new ones (R316). -/
def sharedCrowded (x : Context) (g : Graph) (shared : List (Nat × Nat)) : Bool :=
  shared.any fun a => decide (4 <
    (groupsHolding x a.2).length + (((shared.filter (·.2 == a.2)).flatMap fun b => gGroupsOf g b.1).dedup).length)

/-- The pages to be placed, by (page, replica) in declaration order. -/
def newPages (g : Graph) (shared : List (Nat × Nat)) : List (Nat × Nat) :=
  (List.range (gPages g).length).flatMap fun p =>
    if shared.any (·.1 == p) then [] else (List.range (gReplicas g p)).map fun q => (p, q)

/-- The cell of a page at a site, where there is one. -/
def cellAtSite (s : State) (page : Nat) (xy : Nat × Nat) : Option Nat :=
  (s.cells.find? fun kc => kc.2.page == page && kc.2.sx == xy.1 && kc.2.sy == xy.2).map (·.1)

/-- Cell numbers by (cell, replica): a tile of a shared page that the page already has keeps its number. -/
def cellNumbers (s : State) (g : Graph) (shared : List (Nat × Nat)) : Table (Nat × Nat) Nat :=
  let all := (g.cells.mapIdx fun k c => (k, c)).flatMap fun kc =>
    (List.range (gReplicas g (gPageOf g kc.2))).map fun q => (kc, q)
  (all.mapIdx fun n x => (n, x)).map fun nx =>
    let k := nx.2.1.1
    let c := nx.2.1.2
    let old := match shared.find? (·.1 == gPageOf g c), gSite g k c with
      | some sp, some xy => cellAtSite s sp.2 xy
      | _, _ => none
    ((k, nx.2.2), old.getD (freeNumber s.cells + nx.1))

def makePlan (s : State) (g : Graph) (inst : BitVec 32) (asid : BitVec 8) (shared : List (Nat × Nat)) : Plan :=
  { g := g, inst := inst, asid := asid, shared := shared
    pages := ((newPages g shared).mapIdx fun n pq => (pq, freeNumber s.pages + n)) ++ shared.map fun x => ((x.1, 0), x.2)
    cells := cellNumbers s g shared }

def Plan.pageId (p : Plan) (k q : Nat) : Nat := (tget p.pages (k, q)).getD 0
def Plan.cellId (p : Plan) (k q : Nat) : Nat := (tget p.cells (k, q)).getD 0

/-- The stage's own identifier of a page. -/
def Plan.stageId (p : Plan) (page : Nat) : Option Nat := ((gStageOf p.g page).bind (p.g.stages[·]?)).map (·.id)

/-! ### What a launch writes (R324 steps 3 to 7) -/

/-- Step 3: the pages in their frames, and the shared ones held for one more instance. -/
def putPages (s : State) (p : Plan) (frames : List FrameId) : State :=
  let s1 := (((newPages p.g p.shared).zip frames).foldl (fun z x =>
    let k := x.1.1
    setPage z (p.pageId k x.1.2) { plainPage p.inst p.asid with
      decl := k, replica := x.1.2, stage := p.stageId k, frame := some x.2, lastActive := s.pkg.aocnt }) s)
  p.shared.foldl (fun z x => modPage z x.2 fun pg => { pg with sharers := pg.sharers ++ [p.inst] }) s1

/-- The group and role of a cell's page. -/
def Plan.cellRole (p : Plan) (c : GCell) : Option (Nat × Nat) :=
  match (p.g.roles[c.role]?).bind fun r => (p.g.groups[r.group]?).map fun id => (id, r.group) with
  | some (id, gi) => some (id, (gRolesOf p.g gi).findIdx (· == c.role))
  | none => none

/-- Blocks and constants, as every replica of a cell has them. -/
def putCells (s : State) (p : Plan) : State :=
  p.cells.foldl (fun z x =>
    match p.g.cells[x.1.1]? with
    | none => z
    | some c =>
      if (tget s.cells x.2).isSome then z
      else
        let xy := (gSite p.g x.1.1 c).getD (0, 0)
        setCell z x.2 { plainCell (p.pageId (gPageOf p.g c) x.1.2) p.inst c.kind c.words with
          decl := x.1.1, sx := xy.1, sy := xy.2, consts := c.consts, role := p.cellRole c }) s

/-- Step 4: the group, role and binding tables (R313-R315). -/
def groupWord (base n : Nat) : BitVec 32 := 1#1 ++ 0#11 ++ BitVec.ofNat 10 n ++ BitVec.ofNat 10 base

def roleWord (isCell : Bool) (replicas count base : Nat) : BitVec 64 :=
  1#1 ++ BitVec.ofBool isCell ++ BitVec.ofNat 6 (replicas - 1) ++ BitVec.ofNat 12 (count - 1) ++ 0#30 ++ BitVec.ofNat 14 base

/-- The members of role `k`, whose entries begin at `base`. -/
def Plan.roleMembers (p : Plan) (k base : Nat) (r : GRole) : List (Nat × Nat × Option Nat) :=
  let n := gRoleReplicas p.g k
  if r.isCell then
    (p.g.cells.mapIdx fun j c => (j, c)).flatMap fun jc =>
      match jc.2.bind with
      | some (r', m) =>
        if r' != k then []
        else (List.range (gReplicas p.g (gPageOf p.g jc.2))).map fun q =>
          (base + m * n + q, p.pageId (gPageOf p.g jc.2) q, some (p.cellId jc.1 q))
      | none => []
  else
    ((gPages p.g).mapIdx fun j rm => (j, rm)).flatMap fun jrm =>
      if jrm.2.1 != k then []
      else (List.range (gReplicas p.g jrm.1)).map fun q => (base + jrm.2.2 * n + q, p.pageId jrm.1 q, none)

def putTables (s : State) (p : Plan) (places : List Nat × List Nat) : State :=
  let groups := (p.g.groups.mapIdx fun i id => (i, id)).map fun x =>
    (x.2, groupWord (places.1.getD x.1 0) (gRolesOf p.g x.1).length)
  let roles := (List.range p.g.groups.length).flatMap fun i =>
    (gRolesOf p.g i).mapIdx fun j k =>
      let r := p.g.roles.getD k ⟨0, false, 1⟩
      (places.1.getD i 0 + j, roleWord r.isCell (gRoleReplicas p.g k) r.count (places.2.getD k 0))
  let members := (p.g.roles.mapIdx fun k r => p.roleMembers k (places.2.getD k 0) r).flatten
  rebind (modCtx s p.asid fun x => { x with
    groups := groups.foldl (fun t e => tput t e.1 e.2) x.groups
    roles := roles.foldl (fun t e => tput t e.1 e.2) x.roles
    members := members.foldl (fun t e => tput t e.1 e.2) x.members }) p.asid

/-- The ends of an arc's copies (R319): one for each replica within a stage, else one for each pair of replicas. -/
def Plan.copies (p : Plan) (a : GArc) : List (Nat × Nat) :=
  let page (k : Nat) : Nat := ((p.g.cells[k]?).map (gPageOf p.g)).getD 0
  let rp := gReplicas p.g (page a.pCell)
  let rc := gReplicas p.g (page a.cCell)
  if gStageOf p.g (page a.pCell) == gStageOf p.g (page a.cCell) then (List.range rp).map fun q => (q, q)
  else (List.range rp).flatMap fun x => (List.range rc).map fun y => (x, y)

def freshPorts : PortState :=
  { pSeq := 0, pData := 0, headScale := 0x7F, pClosed := false, cE := 0, cData := 0, cClosed := false, gap := none
    dups := 0, awaiting := none }

/-- The declared arcs that leave a page or come to it from another one. -/
def gBoundary (g : Graph) (page : Nat) : List Nat :=
  let at_ (k : Nat) : Nat := ((g.cells[k]?).map (gPageOf g)).getD 0
  (List.range g.arcs.length).filter fun d => (g.arcs[d]?).any fun a =>
    at_ a.pCell != at_ a.cCell && (at_ a.pCell == page || at_ a.cCell == page)

/-- The edge port that the loader binds a boundary channel to on the page of one of its ends (01 R23, R32): the page's channels in
declaration order take its sixteen ports in turn (LOG 7, DESIGN CHOICE). -/
def Plan.edgePort (p : Plan) (d : Nat) (a : GArc) (cell : Nat) : Option Nat :=
  let at_ (k : Nat) : Nat := ((p.g.cells[k]?).map (gPageOf p.g)).getD 0
  if at_ a.pCell = at_ a.cCell then none
  else some ((gBoundary p.g (at_ cell)).findIdx (· == d) % 16)

/-- Step 5: the arcs, their Weirs and Sluices, their edge ports. -/
def putArcs (s : State) (p : Plan) : State :=
  let all := (p.g.arcs.mapIdx fun d a => (d, a)).flatMap fun da => (p.copies da.2).map fun q => (da, q)
  (all.mapIdx fun n x => (freeNumber s.arcs + n, x)).foldl (fun z x =>
    let d := x.2.1.1
    let a := x.2.1.2
    setArc z x.1
      { inst := p.inst, decl := d, pCell := p.cellId a.pCell x.2.2.1, pPort := a.pPort
        cCell := p.cellId a.cCell x.2.2.2, cPort := a.cPort, slots := a.slots, burst := a.burst, isPred := a.isPred
        weir := a.weir.bind (p.g.weirs[·]?)
        pEdge := p.edgePort d a a.pCell, cEdge := p.edgePort d a a.cCell, back := false, ports := freshPorts, reserved := 0, queue := []
        armed := p.g.sluices.any fun q => q.1 == d && q.2
        recorded := [], occSum := 0, fullTime := 0 }) s

/-- The tasks as they are bound and started (steps 6 and 7): Waiting at their entry blocks, those of parked replicas Parked. -/
def Plan.task (p : Plan) (t : GTask) (decl q : Nat) (chains : List Nat) : Task :=
  let c := (p.g.cells[t.cell]?).map blankStore
  let ends := t.blocks.map fun b => b + (c.elim 0 fun x => blockLen x b + 2)
  let parked := match t.stage.bind (p.g.stages[·]?) with
    | some st => decide (st.min ≤ q)
    | none => false
  { plainTask p.inst none with
    decl := decl, state := if parked then .parked else .waiting, prio := t.prio, entry := t.entry, block := t.entry
    blocks := t.blocks, codeLo := t.blocks.foldl min t.entry, codeHi := ends.foldl max 0, nsregs := sregsOf t
    seals := t.seals, chains := chains, ports := t.ports
    banks := t.banks.map fun b =>
      let page := ((p.g.cells[b.1]?).map (gPageOf p.g)).getD 0
      (p.cellId b.1 (if gReplicas p.g page = 1 then 0 else q), b.2) }

/-- The chain numbers of a task begin after those of the cell's earlier tasks (10 R292). -/
def chainsBefore (g : Graph) (decl : Nat) (t : GTask) : Nat :=
  (((g.tasks.take decl).filter (·.cell == t.cell)).map (·.chains.length)).sum

/-- One task of one replica, with its chains and its places in the banks' holder sequences (10 R286, R292). -/
def putTask (p : Plan) (s : State) (decl : Nat) (t : GTask) (q : Nat) : State :=
  let cell := p.cellId t.cell q
  let n := ((p.g.tasks.take decl).filter (·.cell == t.cell)).length
  let base := freeNumber s.chains
  let ids := (List.range t.chains.length).map (base + ·)
  let tk := p.task t decl q ids
  let s1 := setTask s (cell, n) tk
  let s2 := (t.chains.mapIdx fun j k => (j, k)).foldl (fun z jk =>
    let len := (dataOf p.g jk.2).elim 0 (·.2.2.2.length)
    setChain z (base + jk.1)
      { cell := cell, num := chainsBefore p.g decl t + jk.1, task := n, base := symbolAddr p.g p.inst.toNat jk.2
        cards := len / 64 - 1, w := 0, t := 0, q := 0, issued := 0, reserved := 0, inFlight := [], finished := []
        stopped := false }) s1
  tk.banks.foldl (fun z b =>
    match tget z.banks b with
    | some x => if x.holders.contains (cell, n) then z else setBank z b { x with holders := x.holders ++ [(cell, n)] }
    | none => setBank z b ⟨[(cell, n)], 0, some (cell, n)⟩) s2

def putTasks (s : State) (p : Plan) : State :=
  (p.g.tasks.mapIdx fun d t => (d, t)).foldl (fun z dt =>
    let page := ((p.g.cells[dt.2.cell]?).map (gPageOf p.g)).getD 0
    (List.range (gReplicas p.g page)).foldl (fun y q => putTask p y dt.1 dt.2 q) z) s

/-- The loader writes bytes at a virtual address of the context, where they are mapped: the tag bits of what they touch are
cleared, and the poison marks of whole granules (10 R267, R268). -/
def loadBytes (s : State) (p : Party) (v : Nat) (l : List Byte) : State :=
  match spanOf s p ⟨v, none⟩ ⟨false, false, false⟩ v l.length with
  | .error _ => s
  | .ok segs => engineWrites s ((groupWrites (putBytes segs l) [] false false).filter fun w => w.space = .phys)

/-- The pointer that the loader mints for a symbol (15 R390): its address and bounds word. -/
def mintFor (g : Graph) (inst k : Nat) : GSym → Nat × Option (BitVec 64)
  | .data _ _ _ bytes =>
    let v := symbolAddr g inst k
    (v, narrow 15 0 0 (2 ^ 57) v ((v + bytes.length + 63) / 64 * 64 - v))
  | .codebook _ => (symbolAddr g inst k, narrow 8 0 0 (2 ^ 57) (symbolAddr g inst k) 32)
  | .range r =>
    let x := rangeSpan g inst k r
    (x.1, narrow (r.readable.toNat * 8 + r.writable.toNat * 4) 0 0 (2 ^ 57) x.1 (x.2.1 - x.1))

/-- The symbol table of an instance, with the tag bit of every entry written (15 R390). -/
def symbolTable (g : Graph) (inst : Nat) : Mem :=
  (g.symbols.mapIdx fun k x => (k, x)).foldl (fun m kx =>
    match mintFor g inst kx.1 kx.2 with
    | (v, some w) => setTag (writeBytes m (16 * kx.1) (natLe 8 v ++ natLe 8 w.toNat)) (16 * kx.1) true
    | (_, none) => m) Mem.empty

/-- The bytes of a codebook. -/
def bookBytes (g : Graph) (k : Nat) : List Byte :=
  match g.symbols[k]? with
  | some (.codebook l) => l.flatMap fun e => natLe 2 e.toNat
  | _ => []

/-- Range entries, then the contents of data regions and codebooks in memory, a codebook directly before every scale array that
a CB4S range names with it (02 R62). -/
def putSymbols (s : State) (p : Plan) : State :=
  let n := p.inst.toNat
  let s1 := modCtx s p.asid fun x => { x with ranges := x.ranges ++ gRanges p.g n }
  let party : Party := { page := 0, asid := p.asid, inst := p.inst, die := 4, task := (0, 0), ponly := false }
  (p.g.symbols.mapIdx fun k x => (k, x)).foldl (fun z kx =>
    match kx.2 with
    | .data _ _ _ bytes =>
      let v := symbolAddr p.g n kx.1
      let z1 := ((scaleBooks p.g).filter (·.1 == kx.1)).foldl (fun y b => loadBytes y party (v - 32) (bookBytes p.g b.2)) z
      loadBytes z1 party v bytes
    | .codebook _ => loadBytes z party (symbolAddr p.g n kx.1) (bookBytes p.g kx.1)
    | .range _ => z) s1

/-- The headers of the tasks' chains are zero at launch (10 R293). -/
def putHeaders (s : State) (p : Plan) : State :=
  let party : Party := { page := 0, asid := p.asid, inst := p.inst, die := 4, task := (0, 0), ponly := false }
  (p.g.tasks.flatMap (·.chains)).foldl (fun z k => loadBytes z party (symbolAddr p.g p.inst.toNat k) (List.replicate 64 0)) s

/-! ### Source pages and back arcs (16 R418) -/

/-- The depth-first walk from a page: the pages met, and the arcs (arc, from, to) that lead back into the path. -/
def backWalk (edges : List (Nat × Nat × Nat)) (order : List Nat) : Nat → List Nat → List Nat × List Nat → Nat → List Nat × List Nat
  | 0, _, acc, _ => acc
  | fuel + 1, path, acc, u =>
    let out := order.flatMap fun v => edges.filter fun e => e.2.1 == u && e.2.2 == v
    out.foldl (fun z e =>
      if (u :: path).contains e.2.2 then (z.1, natInsert z.2 e.1)
      else if z.1.contains e.2.2 then z
      else backWalk edges order fuel (u :: path) (e.2.2 :: z.1, z.2) e.2.2) acc

/-- The source pages and the back arcs of an instance, its pages in declaration order. -/
def cutShape (s : State) (inst : BitVec 32) : List Nat × List Nat :=
  let order := (pagesOf s inst).map (·.1)
  let edges := (s.arcs.filter fun ka => ka.2.inst == inst && boundary s ka.2).map fun ka =>
    (ka.1, pageIdOf s ka.2.pCell, pageIdOf s ka.2.cCell)
  let free := order.filter fun v => !edges.any fun e => e.2.2 == v
  let sources := if free.isEmpty then order.take 1 else free
  let first := (edges.filter fun e => sources.contains e.2.2).map (·.1)
  let walked := sources.foldl (fun z u =>
    if z.1.contains u then z else backWalk edges order (order.length + 1) [] (u :: z.1, z.2) u) (([] : List Nat), ([] : List Nat))
  (sources, first ++ walked.2)

def putCutShape (s : State) (inst : BitVec 32) : State :=
  let x := cutShape s inst
  { s with
    pages := tmap s.pages fun k p => if p.inst == inst && x.1.contains k then { p with sourcePage := true } else p
    arcs := tmap s.arcs fun k a => if a.inst == inst && x.2.contains k then { a with back := true } else a }

/-! ### The instance and its context -/

def putInstance (s : State) (p : Plan) (r : LaunchReq) (loader : Bool) : State :=
  setInst s p.inst { plainInstance p.asid with
    loader := loader, markInterval := r.mark, sluices := p.g.sluices.map (·.1)
    stages := p.g.stages.map fun st =>
      { stage := st.id, minReplicas := st.min, maxReplicas := st.max, active := List.range st.min, draining := none
        underfed := 0, nextAt := s.pkg.aocnt + BitVec.ofNat 64 r.interval }
    symbols := symbolTable p.g p.inst.toNat, groupIds := p.g.groups, interval := r.interval, high := r.high, low := r.low
    hold := r.hold, bytesOf := p.g.cells.mapIdx fun k c => (k, (c.words, c.consts)) }

/-- The pages that a context holds. -/
def placedPages (s : State) (asid : BitVec 8) : Nat := (s.pages.filter fun kp => kp.2.asid == asid && !kp.2.returned).length

/-- Another instance of the context runs, which counts on the context's FIFOs as they stand. -/
def othersRun (s : State) (p : Plan) : Bool := s.instances.any fun ki => ki.1 != p.inst && ki.2.asid == p.asid && ki.2.ended.isNone

/-- Guard floor, the FIFOs, empty at launch (10 R289; LOG 20, DEDUCED), and the balance counter, which more than 64 pages stop for good (13 R343). -/
def putContext (s : State) (p : Plan) (r : LaunchReq) : State :=
  modCtx s p.asid fun x => { x with
    launched := true, guardFloor := r.floor, lastActive := s.pkg.aocnt
    balanceKept := (x.balanceKept || !x.launched) && decide (placedPages s p.asid ≤ 64)
    fifos := Vector.ofFn fun f : Fin 16 =>
      let l := r.levels.getD f.val 0xFF
      let q := if othersRun s p then x.fifos[f] else ⟨0, 7, 0, 0, 0, []⟩
      { q with level := if l ≤ 7 then l else 7 } }

/-- What is left of an ended instance that had the number before. -/
def purge (s : State) (inst : BitVec 32) : State :=
  let gone (k : Nat) : Bool := (tget s.pages k).any fun p => p.inst == inst && p.returned
  let cell (k : Nat) : Bool := gone (pageIdOf s k)
  { s with
    tasks := s.tasks.filter fun kt => !cell kt.1.1
    arcs := s.arcs.filter fun ka => ka.2.inst != inst
    banks := s.banks.filter fun kb => !cell kb.1.1
    chains := s.chains.filter fun kc => !cell kc.2.cell
    cells := s.cells.filter fun kc => !gone kc.2.page
    pages := s.pages.filter fun kp => !gone kp.1 }

/-- THE LAUNCH, once nothing refuses it. -/
def placeGraph (s : State) (p : Plan) (r : LaunchReq) (frames : List FrameId) (places : List Nat × List Nat) (loader : Bool) :
    State :=
  let s := putCells (putPages s p frames) p
  let s := putInstance s p r loader
  let s := putTables s p places
  let s := putHeaders (putSymbols (putArcs s p) p) p
  let s := putCutShape (putContext (putTasks s p) p r) p.inst
  { s with pkg := { s.pkg with nextInst := p.inst + 1 } }

/-- The low `n` bits of a result register written, the others left as they stand. -/
def setLow (n : Nat) (w : BitVec 64) (v : Nat) : BitVec 64 := (w >>> n <<< n) ||| BitVec.ofNat 64 (v % 2 ^ n)

/-- A launch that fails with a load error. -/
def loadFails (s : State) (e : LoadErr) : MbRes :=
  .ended (mbSet s fun m => { m with arg0 := recordOf e, arg1 := setLow 16 m.arg1 e.sect }) (if e.code = leSig then 0x04 else 0x05)

/-- Steps 2 to 7 of R324 for a graph that has been read. -/
def launchGraph (s : State) (x : Context) (r : LaunchReq) (g : Graph) (loader : Bool) (sect : Nat) : MbRes :=
  let asid := s.args.asid
  let inst := numberFrom s (s.instances.length + s.pkg.endDue.length + 2) s.pkg.nextInst
  match graphErr s x g loader r.overrides inst.toNat sect, sharePages s x asid g r.shared, tablePlaces x g with
  | some e, _, _ => loadFails s e
  | none, some shared, some places =>
    if sharedTwice g shared then loadFails s (plainErr leBadop sect)
    else if sharedCrowded x g shared then loadFails s (plainErr leGroups sect)
    else
    let need := (newPages g shared).length
    let have_ := (freeFrames s).length
    if have_ < need then .ended (mbSet s fun m => { m with arg0 := setLow 16 m.arg0 (need - have_) }) 0x06
    else
      let s1 := purge s inst
      .done (mbSet (placeGraph s1 (makePlan s1 g inst asid shared) r (freeFrames s) places loader) fun m =>
        { m with arg0 := setLow 32 m.arg0 inst.toNat, arg1 := 0 })
  | none, _, _ => loadFails s (plainErr leBadop sect)

/-- MB_LAUNCH. -/
def execMbLaunch (s : State) : Host.Outcome State Fault Refusal :=
  mbCtx 0x03 s fun s x =>
    let pa := s.args.w0.toNat
    if !physExists s pa || packageOf pa != ownPackage s then .status 0x03
    else
      let r := requestAt s pa
      if !requestOk r then loadFails s (plainErr leBadop 0xFFFF)
      else
        let img := readBytes s.phys r.img r.len
        match chooseSection s img with
        | .error e => loadFails s e
        | .ok (native, sect) =>
          match (Config.readGraph img native).bind fun g => evalGraph g r.overrides with
          | none => loadFails s (plainErr leBadop sect)
          | some g => launchGraph s x r g (Config.imageByLoader img) sect

end Sys2Proof.Machine
end

