-- ==== Sys2Proof/Machine/Ends.lean ====
section
/-! DEFINITION. Silence and `STUCK` (13_progress_watch.md R341-R349), the stage balancer (12_progress_fabric.md R319-R323),
the ends of pages, instances and contexts (R330, R331, 15_isolation.md R375, R377, R391), and the end ring
(18_surroundings.md R449). -/

namespace Sys2Proof.Machine

/-! ### Quiet (R341) -/

/-- Ticks since a time. -/
def ticksSince (s : State) (t : BitVec 64) : Nat := (s.pkg.aocnt - t).toNat

abbrev silentTicks : Nat := 4000

/-- A context is active while it has a collective posted or a sequencer request pending. -/
def contextBusy (s : State) (asid : BitVec 8) (x : Context) : Bool :=
  !x.posts.isEmpty || s.collective.requests.any fun q => q.asid == asid && q.pkg == ownPackage s

/-- So is a page of it. -/
def pageBusy (s : State) (page : Nat) (asid : BitVec 8) (x : Context) : Bool :=
  x.posts.any (fun p => pageIdOf s p.cell == page)
    || s.collective.requests.any fun q => q.asid == asid && q.pkg == ownPackage s && pageIdOf s q.cell == page

/-! ### The arcs that a `STUCK` record names (R344, R348, 16 R430) -/

/-- A consumer port as one number: its cell, then its port. -/
def portKey (a : Arc) : Nat := 8 * a.cCell + a.cPort

/-- Arc words, lowest consumer first: its `ESRC` in [31:16], its port in [2:0]. -/
def arcWords (s : State) (arcs : List (Nat × Arc)) : List (BitVec 32) :=
  ((arcs.foldl (fun l ka => natInsert l (portKey ka.2)) []).take 32).map fun k =>
    esrcOf s (k / 8) ++ 0#13 ++ BitVec.ofNat 3 (k % 8)

/-- Tokens that an arc's consumer holds, those in a Spillway queue included. -/
def tokensOn (s : State) (k : Nat) (a : Arc) : Nat := ((ownedQueue s k a).filter (·.held)).length

/-- THE `STUCK` TRAP of some pages of a context: their Waiting tasks are Trapped, the pages freeze, one record is written.
`first` is the page whose tasks the record names before others. LOG 24, DEDUCED. -/
def takeStuck (s : State) (asid : BitVec 8) (pages : List Nat) (first : Nat) (arcs : List (Nat × Arc)) : State :=
  let hit (k : Nat × Nat) (t : Task) : Bool := pages.contains (pageIdOf s k.1) && t.state == .waiting && !t.frozen
  let named := match s.tasks.find? (fun kt => hit kt.1 kt.2 && pageIdOf s kt.1.1 == first), s.tasks.find? (fun kt => hit kt.1 kt.2),
      s.cells.find? fun kc => pages.contains kc.2.page with
    | some kt, _, _ => kt.1
    | none, some kt, _ => kt.1
    | none, none, some kc => (kc.1, 0)
    | none, none, none => (0, 0)
  let blk := match tget s.tasks named with
    | some t => t.block
    | none => 0
  let words := arcWords s arcs
  let s1 := { s with tasks := tmap s.tasks fun k t => if hit k t then { t with state := .trapped, stuck := true } else t }
  queueTrap (requestFreeze s1 asid pages false) named.1 named.1 named.2 ⟨.stuck, 0, words.length, 0, 0⟩ 0xFF blk false words pages

/-- The pages of a context that are placed or swapped out, not returned. -/
def contextPages (s : State) (asid : BitVec 8) : List Nat :=
  (s.pages.filter fun kp => kp.2.asid == asid && !kp.2.returned).map (·.1)

def arcInContext (s : State) (asid : BitVec 8) (a : Arc) : Bool := asidOf s a.cCell == asid || asidOf s a.pCell == asid

/-- An arc that lies wholly inside parked replicas. -/
def insideParked (s : State) (a : Arc) : Bool :=
  (pageOf s a.pCell).any (replicaParkedAt s) && (pageOf s a.cCell).any (replicaParkedAt s)

/-- CONTEXT_SILENT (R344): context `args.asid`. -/
def execContextSilent (s : State) : Host.Outcome State Fault Refusal :=
  let asid := s.args.asid
  match tget s.contexts asid with
  | none => .next s
  | some x =>
    let arcs := s.arcs.filter fun ka => arcInContext s asid ka.2
    let parked := ((arcs.filter fun ka => insideParked s ka.2).map fun ka => tokensOn s ka.1 ka.2).sum
    if !x.balanceKept || !x.launched || decide (ticksSince s x.lastActive < silentTicks) || contextBusy s asid x
        || arcs.any (fun ka => ka.2.armed) || (contextPages s asid).any (fun k => !pageRuns s k)
        || decide (x.balance - (parked : Int) ≤ 0) then .next s
    else
      .next (takeStuck s asid (contextPages s asid) ((contextPages s asid).headD 0)
        (arcs.filter fun ka => decide (0 < tokensOn s ka.1 ka.2)))

/-! ### The local watch (R346-R348) -/

/-- A queue has no room for the token next offered (R345). -/
def queueFull (z : SpillQueue) (a : Arc) : Bool :=
  decide (512 < spillUsed z + (match offeredHead a with
    | some x => spillEntries x.item
    | none => 1))

/-- A producer task that waits at a block whose `OUTMASK` names the arc's port. -/
def producerWaits (s : State) (a : Arc) : Bool :=
  match tget s.cells a.pCell with
  | none => false
  | some c => (tasksOf s a.pCell).any fun kt =>
      kt.2.state == .waiting && !kt.2.frozen && maskBit (hOutmask (headerAt c kt.2.block)) a.pPort

/-- R346: an arc that is a stalled edge of the pages at its ends. -/
def stalledEdge (s : State) (k : Nat) (a : Arc) : Bool :=
  decide (1 ≤ a.slots) && decide (a.slots ≤ heldCount a)
    && (match spillOf s k a with
        | some (_, _, z) => queueFull z a
        | none => true)
    && producerWaits s a

/-- The arcs that start or end on a page. -/
def arcsAt (s : State) (page : Nat) : List (Nat × Arc) :=
  s.arcs.filter fun ka => pageIdOf s ka.2.pCell == page || pageIdOf s ka.2.cCell == page

/-- The watch of a page is suspended. -/
def watchSuspended (s : State) (page : Nat) : Bool :=
  let frozen (k : Nat) : Bool := (tget s.pages k).any fun p => p.frozen || p.freezing
  frozen page || (arcsAt s page).any fun ka =>
    ka.2.armed || frozen (pageIdOf s ka.2.pCell) || frozen (pageIdOf s ka.2.cCell)

/-- An extension of one of the page's arcs has passed no token yet. -/
def extensionIdle (s : State) (page : Nat) : Bool :=
  (arcsAt s page).any fun ka => match spillOf s ka.1 ka.2 with
    | some (_, _, z) => z.extension && !z.passed
    | none => false

/-- Fewer slots first, then the lower consumer port. -/
def leastEdge : List (Nat × Arc) → Option (Nat × Arc)
  | [] => none
  | x :: r =>
    match leastEdge r with
    | none => some x
    | some y =>
      if y.2.slots < x.2.slots || (y.2.slots == x.2.slots && decide (portKey y.2 < portKey x.2)) then some y else some x

/-- Event 0xF002: a free queue attached to the edge (R347). -/
def extendEdge (s : State) (asid : BitVec 8) (q : Nat) (k : Nat) (a : Arc) : State :=
  touchPage (touchCell (logEvent (modSpill s asid q fun _ => ⟨some k, true, false, []⟩) asid (esrcOf s a.cCell) 0xF002
    (BitVec.ofNat 32 q)) a.pCell) (pageIdOf s a.cCell)

/-- PAGE_SILENT (R347): page `args.i` of a context under the local watch. -/
def execPageSilent (s : State) : Host.Outcome State Fault Refusal :=
  let page := s.args.i
  match tget s.pages page with
  | none => .next s
  | some p =>
    match tget s.contexts p.asid with
    | none => .next s
    | some x =>
      let stalled := (arcsAt s page).filter fun ka => stalledEdge s ka.1 ka.2
      if x.balanceKept || !x.launched || decide (ticksSince s p.lastActive < silentTicks) || pageBusy s page p.asid x
          || watchSuspended s page || stalled.isEmpty then .next s
      else
        let near := (stalled.flatMap fun ka => [pageIdOf s ka.2.pCell, pageIdOf s ka.2.cCell]).foldl natInsert [page]
        let stuck := takeStuck s p.asid near page stalled
        if extensionIdle s page then .next stuck
        else
          match leastEdge (stalled.filter fun ka => (spillOf s ka.1 ka.2).isNone), freeQueue s p.asid with
          | some e, some q => .next (extendEdge s p.asid q e.1 e.2)
          | _, _ => .next stuck

/-! ### The stage balancer (R321-R323) -/

/-- A cell of a stage of an instance. -/
def inStage (s : State) (inst : BitVec 32) (stage cell : Nat) : Bool :=
  (pageOf s cell).any fun p => p.inst == inst && p.stage == some stage

def stageIncoming (s : State) (inst : BitVec 32) (stage : Nat) : List (Nat × Arc) :=
  s.arcs.filter fun ka => ka.2.inst == inst && inStage s inst stage ka.2.cCell && !inStage s inst stage ka.2.pCell

def stageOutgoing (s : State) (inst : BitVec 32) (stage : Nat) : List (Nat × Arc) :=
  s.arcs.filter fun ka => ka.2.inst == inst && inStage s inst stage ka.2.pCell && !inStage s inst stage ka.2.cCell

def modStage (s : State) (inst : BitVec 32) (stage : Nat) (g : StageState → StageState) : State :=
  modInst s inst fun i => { i with stages := i.stages.map fun st => if st.stage == stage then g st else st }

/-- Replicas that are active and do not drain. -/
def activeCount (st : StageState) : Nat := (st.active.filter fun r => st.draining != some r).length

/-- The replica that an activation takes: the parked one with the lowest number, or one whose drain it cancels. -/
def nextReplica (st : StageState) : Option Nat :=
  match (List.range st.maxReplicas).find? fun r => !st.active.contains r with
  | some r => some r
  | none => st.draining

/-- The active replica with the highest number. -/
def topReplica (st : StageState) : Nat := st.active.foldl max 0

/-- What the balancer finds of a stage in an interval of `t` ticks: overfed, underfed, back-pressure. LOG 24, DEDUCED. -/
def stageLoad (s : State) (inst : BitVec 32) (i : Instance) (stage t : Nat) : Bool × Bool × Bool :=
  let ins := stageIncoming s inst stage
  let held := (ins.map fun ka => ka.2.occSum).sum
  let slots := ((ins.filter fun ka => replicaActive s ka.2.cCell).map fun ka => ka.2.slots).sum
  (decide (0 < slots * t ∧ i.high * (slots * t) ≤ 64 * held), decide (64 * held ≤ i.low * (slots * t)),
    (stageOutgoing s inst stage).any fun ka => decide (t < 2 * ka.2.fullTime))

/-- The one action of an interval (R322). LOG 24, DEDUCED. -/
def balance (s : State) (inst : BitVec 32) (i : Instance) (st : StageState) (t : Nat) : State :=
  let (overfed, underfed, pressed) := stageLoad s inst i st.stage t
  let n := if underfed then st.underfed + 1 else 0
  let s := modStage s inst st.stage fun x => { x with underfed := n }
  if overfed && !pressed && decide (activeCount st < st.maxReplicas) then
    match nextReplica st with
    | some r => activateReplica s inst st.stage r
    | none => s
  else if decide (i.hold ≤ n) && decide (st.minReplicas < activeCount st) && st.draining.isNone then
    modStage s inst st.stage fun x => { x with draining := some (topReplica st) }
  else s

/-- The cluster of frames, by die and number, whose balancer serves a stage (R321): the one that holds the first page of replica 0. -/
def stageCluster (s : State) (inst : BitVec 32) (stage : Nat) : Option (Nat × Nat) :=
  let pages := (s.pages.filter fun kp => kp.2.inst == inst && kp.2.stage == some stage && kp.2.replica == 0).map (·.2)
  (pages.foldl (fun (m : Option Page) p => match m with
    | some q => if p.decl < q.decl then some p else some q
    | none => some p) none).bind fun p => p.frame.bind fun f =>
      ((dieFrames s f.die).findIdx? (· == f)).map fun n => (f.die, n / 16)

/-- BALANCER_INTERVAL: stage `args.i` of instance `args.n32`, once its interval is over. -/
def execBalancerInterval (s : State) : Host.Outcome State Fault Refusal :=
  let inst := s.args.n32
  match tget s.instances inst with
  | none => .next s
  | some i =>
    match i.stages.find? fun st => st.stage == s.args.i with
    | none => .next s
    | some st =>
      if i.ended.isSome || (stageCluster s inst st.stage).isNone || decide (s.pkg.aocnt.toNat < st.nextAt.toNat) then .next s
      else
        let t := (s.pkg.aocnt - (st.nextAt - BitVec.ofNat 64 i.interval)).toNat
        let ins := (stageIncoming s inst st.stage).map (·.1)
        let outs := (stageOutgoing s inst st.stage).map (·.1)
        let s1 := balance s inst i st t
        let s2 := modStage s1 inst st.stage fun x => { x with nextAt := s.pkg.aocnt + BitVec.ofNat 64 i.interval }
        .next { s2 with arcs := tmap s2.arcs fun k a =>
          { a with occSum := if ins.contains k then 0 else a.occSum, fullTime := if outs.contains k then 0 else a.fullTime } }

/-- A task Parked, to wait again at its block once its replica is activated: a Finished one at its entry block, one that `BRK` left
Trapped at the block that its exit chose; a Drained one stays so (R305). LOG 30, DEDUCED. -/
def parkTask (t : Task) : Task :=
  if t.state = .drained then t
  else { t with
    state := .parked, stuck := false, brkExit := none
    block := if t.state = .finished then t.entry else t.brkExit.getD t.block }

/-- REPLICA_PARKED (R323): replica `args.j` of stage `args.i`, drained. -/
def execReplicaParked (s : State) : Host.Outcome State Fault Refusal :=
  let inst := s.args.n32
  let stage := s.args.i
  let r := s.args.j
  let mine (cell : Nat) : Bool := (pageOf s cell).any fun p => p.inst == inst && p.stage == some stage && p.replica == r
  match tget s.instances inst with
  | none => .next s
  | some i =>
    if !i.stages.any (fun st => st.stage == stage && st.draining == some r)
        || (stageIncoming s inst stage).any (fun ka => mine ka.2.cCell && (!(ownedQueue s ka.1 ka.2).isEmpty || ka.2.reserved != 0))
        || s.tasks.any (fun kt => mine kt.1.1 && kt.2.firing.isSome) then .next s
    else
      let s1 := modStage s inst stage fun st => { st with active := st.active.filter (· != r), draining := none }
      .next (rebind (modReplica s1 inst stage r parkTask) i.asid)

/-! ### Pages return (R330, 15 R391) -/

/-- What the scrub of its frame leaves of a page's cells and of their tasks' registers (R391). -/
def scrubCells (s : State) (page : Nat) : State :=
  { s with
    cells := tmap s.cells fun _ c =>
      if c.page != page then c
      else { c with store := [], badWords := [], consts := Vector.replicate 16 0, mat := MState.empty
                    slots := Vector.replicate 4 StreamSlot.idle, replay := [] }
    tasks := tmap s.tasks fun k t =>
      if pageIdOf s k.1 != page then t
      else { t with sregs := Vector.replicate 16 none, mode := 0, flags := noFlags, acnt := 0, rdy := false, prl := false, relq := [], relSent := []
                    spoilt := [] } }

/-- A page goes back to the pool: its frame is scrubbed, its local window lost. -/
def returnPage (s : State) (page : Nat) : State :=
  match tget s.pages page with
  | none => s
  | some p =>
    let s0 := scrubCells s page
    let s1 := match p.frame with
      | some f => scrubFrame s0 p.asid f
      | none => s0
    rebind (setPage s1 page { p with frame := none, returned := true, window := Mem.empty, lines := [], sharers := [] }) p.asid

def cellQuiet (c : Cell) : Bool := c.slots.toList.all (fun x => x.state == .idle) && c.mat.rows.isEmpty

/-- Every condition of R330 on a page. LOG 24, DEDUCED. -/
def pageIdle (s : State) (page : Nat) (p : Page) : Bool :=
  let tasks := s.tasks.filter fun kt => pageIdOf s kt.1.1 == page
  let overs := (tget s.instances p.inst).all fun i => i.ended.isSome
  tasks.all (fun kt => kt.2.state == .drained && (unperformed s kt.1).isEmpty) && (!tasks.isEmpty || overs)
    && s.arcs.all (fun ka => pageIdOf s ka.2.cCell != page || heldCount ka.2 == 0)
    && s.cells.all (fun kc => kc.2.page != page || cellQuiet kc.2)
    && s.chains.all (fun kc => pageIdOf s kc.2.cell != page || kc.2.inFlight.isEmpty)
    && p.sharers.all fun n => (tget s.instances n).all fun i => i.ended.isSome

/-- PAGE_RETURN: page `args.i`. -/
def execPageReturn (s : State) : Host.Outcome State Fault Refusal :=
  match tget s.pages s.args.i with
  | none => .next s
  | some p => if !p.returned && pageIdle s s.args.i p then .next (returnPage s s.args.i) else .next s

/-! ### Instances end (R330, R331) -/

/-- A group's roles and members are freed (R316). -/
def freeGroup (x : Context) (g : Nat) : Context :=
  let roles := (List.range (groupRoles x g)).map fun k => groupBase x g + k
  let members := roles.flatMap fun k =>
    let r := (tget x.roles k).getD 0
    (List.range (roleCount r * roleReplicas r)).map fun j => roleBase r + j
  { x with groups := tdel x.groups g, roles := roles.foldl tdel x.roles, members := members.foldl tdel x.members
           bindings := members.foldl tdel x.bindings }

def freeGroups (s : State) (inst : BitVec 32) (i : Instance) : State :=
  modInst (modCtx s i.asid fun x => i.groupIds.foldl freeGroup x) inst fun j => { j with groupIds := [] }

/-- Every task of an instance is Finished or Drained with its operations performed, and its arcs, slots, rows and
chains are idle. -/
def instanceIdle (s : State) (inst : BitVec 32) (i : Instance) : Bool :=
  s.tasks.all (fun kt => kt.2.inst != inst
      || ((kt.2.state == .finished || kt.2.state == .drained) && !kt.2.frozen && (unperformed s kt.1).isEmpty))
    && s.arcs.all (fun ka => ka.2.inst != inst || (ownedQueue s ka.1 ka.2).isEmpty)
    && s.cells.all (fun kc => kc.2.inst != inst || cellQuiet kc.2)
    && s.chains.all fun kc => ((tget s.tasks (kc.2.cell, kc.2.task)).all fun t => t.inst != inst)
      || (kc.2.inFlight.isEmpty && (kc.2.issued == kc.2.t || kc.2.stopped || i.ending))

/-- INSTANCE_END: instance `args.n32`. -/
def execInstanceEnd (s : State) : Host.Outcome State Fault Refusal :=
  let n := s.args.n32
  match tget s.instances n with
  | none => .next s
  | some i =>
    if i.ended.isSome || !instanceIdle s n i then .next s
    else
      let how := if i.ending then 1 else 0
      let s1 := { s with
        tasks := tmap s.tasks fun _ t => if t.inst == n && t.state == .finished then { t with state := .drained } else t
        pages := tmap s.pages fun _ p => { p with sharers := p.sharers.filter (· != n) } }
      let s2 := modInst (freeGroups s1 n i) n fun j => { j with ended := some how, symbols := Mem.empty }
      let back := (s2.pages.filter fun kp => kp.2.inst == n && !kp.2.returned && pageIdle s2 kp.1 kp.2).map (·.1)
      let s3 := back.foldl returnPage s2
      .next { s3 with pkg := { s3.pkg with endDue := s3.pkg.endDue ++ [⟨s.pkg.aocnt, n, i.asid, BitVec.ofNat 8 how⟩] } }

/-- END_RECORD_WRITE (R449): the oldest report, when the end ring has room. -/
def execEndRecordWrite (s : State) : Host.Outcome State Fault Refusal :=
  match s.pkg.endDue with
  | [] => .next s
  | r :: rest =>
    if 256 ≤ (s.pkg.endwr - s.pkg.endrd).toNat then .next s
    else
      .next (raiseNotify { s with pkg := { s.pkg with
        endRing := tput s.pkg.endRing (s.pkg.endwr.toNat % 256) r, endwr := s.pkg.endwr + 1, endDue := rest } } 2)

/-- SYSTEM SOFTWARE ENDS AN INSTANCE (R331): every task Drained at once, as if each firing in flight had trapped, and
what its arcs, slots and rows hold is gone. LOG 24, DEDUCED. -/
def endInstance (s : State) (inst : BitVec 32) (i : Instance) : State :=
  let s1 := (s.tasks.filter fun kt => kt.2.inst == inst).foldl (fun z kt =>
    giveBanks (match kt.2.firing with
      | some fr => releaseAll z kt.1.1 fr
      | none => z) kt.1 kt.2.banks) s
  let mine := s1.arcs.filter fun ka => ka.2.inst == inst
  let held := (mine.map fun ka => tokensOn s1 ka.1 ka.2).sum
  let s2 := addBalance (emptyQueues s1 i.asid (mine.map (·.1))) i.asid (-(held : Int))
  let s3 := { s2 with
    tasks := tmap s2.tasks fun _ t =>
      if t.inst == inst then
        { t with state := .drained, firing := none, frozen := false, restart := false, draining := false, stuck := false
                 relq := [], relSent := [], traps := [], brkExit := none }
      else t
    arcs := tmap s2.arcs fun _ a =>
      if a.inst == inst then { a with queue := [], ports := { a.ports with pClosed := true, cClosed := true }, recorded := [] } else a
    cells := tmap s2.cells fun _ c =>
      if c.inst == inst then
        { c with slots := Vector.replicate 4 StreamSlot.idle, mat := { c.mat with rows := [] }, replay := [] } else c
    spawns := s2.spawns.filter fun r => (tget s2.tasks (r.cell, r.task)).all fun t => t.inst != inst }
  modInst (freeGroups s3 inst i) inst fun j =>
    { j with ending := true, cutNow := 0, cutOrdered := false, rollbackDue := [], collReplay := [] }

/-! ### Contexts (15 R375, R377) -/

/-- The bits of a context word that are not reserved. -/
abbrev contextMask : BitVec 64 := 0x000FFFFFFFFFF1FF

/-- MB_CREATE_CONTEXT: `args.w0` is the context word. LOG 27, DESIGN CHOICE. -/
def execMbCreateContext (s : State) : Host.Outcome State Fault Refusal :=
  mbRun 0x01 s fun s =>
    let asid := s.args.w0.setWidth 8
    if 256 ≤ s.contexts.length || (tget s.contexts asid).isSome then .status 0x02
    else
      .done (setCtx s asid { plainContext (s.args.w0 &&& contextMask) with
        launched := false, balanceKept := true, lastActive := s.pkg.aocnt })

/-- What a context leaves when it ends: its frames scrubbed, all that bears its identifier released. -/
def dropContext (s : State) (asid : BitVec 8) : State :=
  let s1 := (contextPages s asid).foldl returnPage s
  let cell (k : Nat) : Bool := asidOf s k == asid
  { s1 with
    contexts := tdel s1.contexts asid
    instances := s1.instances.filter fun ki => ki.2.asid != asid
    pages := s1.pages.filter fun kp => kp.2.asid != asid
    cells := s1.cells.filter fun kc => !cell kc.1
    tasks := s1.tasks.filter fun kt => !cell kt.1.1
    arcs := s1.arcs.filter fun ka => !cell ka.2.cCell && !cell ka.2.pCell
    banks := s1.banks.filter fun kb => !cell kb.1.1
    chains := s1.chains.filter fun kc => !cell kc.2.cell
    xlates := s1.xlates.filter fun x => x.asid != asid
    rangeHeld := s1.rangeHeld.filter fun x => x.asid != asid
    spawns := s1.spawns.filter fun x => x.asid != asid
    freezes := s1.freezes.filter fun x => x.asid != asid
    collective := { s1.collective with numbers := s1.collective.numbers.map fun l =>
      { l with members := l.members.filter (·.1 != asid), posted := l.posted.filter (· != asid) } } }

/-- The memberships of a context that ends are left, as if by `CLLEAVE` (13 R356), with no firing that waits for the answers: the
requests bear numbers past every instruction's. -/
def leaveGroups (s : State) (asid : BitVec 8) : State :=
  let groups := ((tget s.contexts asid).map fun x => x.joined.map (·.1)).getD []
  let reqs : List SeqReq := if s.collective.primary.isNone then []
    else groups.map fun g => ⟨ownPackage s, asid, 0, 0, 256 + g.toNat, g, .leave, false⟩
  { modCtx s asid fun x => { x with joined := [] } with
    collective := { s.collective with
      requests := s.collective.requests ++ reqs } }

/-- No frame is still being scrubbed of the context's pages. -/
def scrubbed (s : State) (asid : BitVec 8) : Bool := s.pkg.frames.all fun fx => !(fx.2.scrubbing && fx.2.lastCtx == some asid)

/-- MB_END_CONTEXT: refused while an instance of it has not ended; it runs until the numbers that the context posted have finished,
as they do for one that leaves (13 R357), and then until its frames are scrubbed (R377). LOG 25, DEDUCED. -/
def execMbEndContext (s : State) : Host.Outcome State Fault Refusal :=
  mbCtx 0x02 s fun s _ =>
    if s.instances.any (fun ki => ki.2.asid == s.args.asid && ki.2.ended.isNone) then .status 0x02
    else
      let a := s.args.asid
      let s1 := leaveGroups s a
      let s2 := if (tget s1.contexts a).any fun x => x.posts.isEmpty then (contextPages s1 a).foldl returnPage s1 else s1
      if scrubbed s2 a && (tget s2.contexts a).any (fun x => x.posts.isEmpty) then .done (dropContext s2 a)
      else .running (modCtx s2 a fun x => { x with ending := true })

/-- MB_END_INSTANCE: `args.w0` is a running instance of the context. -/
def execMbEndInstance (s : State) : Host.Outcome State Fault Refusal :=
  mbCtx 0x04 s fun s _ =>
    match tget s.instances (s.args.w0.setWidth 32) with
    | some i =>
      if i.asid == s.args.asid && i.ended.isNone && !i.ending then .done (endInstance s (s.args.w0.setWidth 32) i) else .status 0x02
    | none => .status 0x02

end Sys2Proof.Machine
end

