-- ==== Sys2Proof/Machine/Power.lean ====
section
/-! DEFINITION. The power cap and its schedule, die modes and region voltages (18_surroundings.md R452-R454). -/

namespace Sys2Proof.Machine

/-! ### The cap (R452, R453) -/

/-- The watts of the schedule entry with the greatest time that has come, from entry `k` on. -/
def dueEntry (p : Package) : Nat → Option (Nat × BitVec 12) → Option (Nat × BitVec 12)
  | 0, best => best
  | k + 1, best =>
    if h : k < 64 then
      let t := p.pschedTau[k].toNat
      let due := t != 0 && decide (t ≤ p.aocnt.toNat)
      let better := match best with
        | some b => decide (b.1 < t)
        | none => true
      dueEntry p k (if due && better then some (t, p.pschedW[k]) else best)
    else dueEntry p k best

/-- `CAPIN`: while `SCHED` is 1 the entry that is due, else `CAPW`. -/
def capInForce (p : Package) : BitVec 12 :=
  if p.sched then
    match dueEntry p 64 none with
    | some e => e.2
    | none => p.capw
  else p.capw

/-- `CAPIN` follows the schedule and the counter. -/
def capped (p : Package) : Package := { p with capin := capInForce p }

def setCap (s : State) : State := { s with pkg := capped s.pkg }

/-- A write of `CAPW` below 350 stores 350 and above 3,000 stores 3,000. -/
def clampCap (w : BitVec 12) : BitVec 12 := if w.toNat < 350 then 350 else if 3000 < w.toNat then 3000 else w

/-! ### Region voltages (R454, R456) -/

abbrev floorMv : Nat := 450

/-- A mode's ceiling in millivolts. -/
def modeCeiling (m : BitVec 2) : Nat :=
  match m with
  | 0b00 => 950
  | 0b01 => 750
  | _ => 450

/-- A frame whose page belongs to a parked replica. -/
def frameParked (s : State) (f : FrameId) : Bool := s.pages.any fun kp => kp.2.frame == some f && replicaParkedAt s kp.2

/-- The ceiling of a region: its die's, at service level 1 and under a parked replica the floor. -/
def regionCeiling (s : State) (f : FrameId) : Nat :=
  if s.pkg.level == 1 || frameParked s f then floorMv
  else if h : f.die < 4 then modeCeiling s.pkg.dies[f.die].mode else floorMv

/-- The voltage of a region: its ceiling, or what the cap demands (`millivolts`) where that is less. -/
def regionMv (s : State) (f : FrameId) (x : Frame) : Nat := min x.millivolts (regionCeiling s f)

def dieMode (s : State) (n : Nat) : BitVec 2 := if h : n < 4 then s.pkg.dies[n].mode else 3

/-- A region of a die in a mode that stands above the floor. -/
def lowerable (s : State) (m : BitVec 2) (f : FrameId) (x : Frame) : Bool :=
  dieMode s f.die == m && decide (floorMv < regionMv s f x)

/-- One step of 10 mV down for the regions of dies in a mode, never below the floor. LOG 28, DESIGN CHOICE. -/
def lowerRegions (s : State) (m : BitVec 2) : State :=
  let step (f : FrameId) (x : Frame) : Frame :=
    if lowerable s m f x then { x with millivolts := max floorMv (regionMv s f x - 10) } else x
  { s with pkg := { s.pkg with frames := tmap s.pkg.frames step } }

/-- Under the cap its demand falls by one step. LOG 28, DESIGN CHOICE. -/
def easeRegions (s : State) : State :=
  { s with pkg := { s.pkg with
      idleChoices := false, frames := tmap s.pkg.frames fun _ x => { x with millivolts := min 950 (x.millivolts + 10) } } }

/-- POWER_CAP_CONTROL (R452): `args.w0` is the power measured; above the cap, regions are lowered, full-mode dies first,
then balanced ones, and then block frames are left idle (`execArbiterChoice`). LOG 5, DESIGN CHOICE. -/
def execPowerCapControl (s : State) : Host.Outcome State Fault Refusal :=
  let s := { s with pkg := { s.pkg with pwrnow := s.args.w0.setWidth 12 } }
  if s.pkg.pwrnow.toNat ≤ s.pkg.capin.toNat then .next (easeRegions s)
  else if s.pkg.frames.any (fun fx => lowerable s 0b00 fx.1 fx.2) then .next (lowerRegions s 0b00)
  else if s.pkg.frames.any (fun fx => lowerable s 0b01 fx.1 fx.2) then .next (lowerRegions s 0b01)
  else .next { s with pkg := { s.pkg with idleChoices := true } }

/-- PWRCAP_WRITE: `CAPW` [11:0] and `SCHED` [31]. -/
def execPwrcapWrite (s : State) : Host.Outcome State Fault Refusal :=
  .next (setCap { s with pkg := { s.pkg with capw := clampCap (s.args.w0.setWidth 12), sched := s.args.w0.getLsbD 31 } })

/-- SCHEDULE_ENTRY_COMMIT: writing the second word of entry `args.i` commits the pair. -/
def execScheduleEntryCommit (s : State) : Host.Outcome State Fault Refusal :=
  if h : s.args.i < 64 then
    .next (setCap { s with pkg := { s.pkg with
      pschedTau := s.pkg.pschedTau.set s.args.i s.pkg.pschedNew[s.args.i]
      pschedW := s.pkg.pschedW.set s.args.i (s.args.w0.setWidth 12) } })
  else .next s

/-- SCHEDULE_ENTRY_DUE: the counter has reached the time of entry `args.i`. -/
def execScheduleEntryDue (s : State) : Host.Outcome State Fault Refusal :=
  if h : s.args.i < 64 then
    let t := s.pkg.pschedTau[s.args.i].toNat
    if s.pkg.sched && t != 0 && decide (t ≤ s.pkg.aocnt.toNat) then .next (setCap s) else .next s
  else .next s

/-! ### Die modes (R454) -/

def modDie (s : State) (n : Nat) (g : DieState → DieState) : State :=
  if h : n < 4 then { s with pkg := { s.pkg with dies := s.pkg.dies.set n (g s.pkg.dies[n]) } } else s

/-- A frame of the die is placed, holds a parked replica, or is being scrubbed. -/
def dieInUse (s : State) (n : Nat) : Bool :=
  s.pages.any (fun kp => !kp.2.returned && kp.2.frame.any (·.die == n)) || s.pkg.frames.any fun fx => fx.1.die == n && fx.2.scrubbing

/-- A write of `MODE`: ignored at an absent die; gating is refused, with `REF` set, while the die is in use. -/
def writeMode (s : State) (m : BitVec 2) : Host.Outcome State Fault Refusal :=
  let n := s.args.i
  if !dieFitted s n then .next s
  else if m == 3 && dieInUse s n then .next (modDie s n fun d => { d with ref := true })
  else .next (modDie s n fun d => { d with mode := m, busy := true, ref := false })

def execDiepwrFull (s : State) : Host.Outcome State Fault Refusal := writeMode s 0b00

def execDiepwrBalanced (s : State) : Host.Outcome State Fault Refusal := writeMode s 0b01

def execDiepwrNearThreshold (s : State) : Host.Outcome State Fault Refusal := writeMode s 0b10

def execDiepwrGate (s : State) : Host.Outcome State Fault Refusal := writeMode s 0b11

/-- DIEPWR_REF_CLEAR: a 1 written to `REF`. -/
def execDiepwrRefClear (s : State) : Host.Outcome State Fault Refusal :=
  if dieFitted s s.args.i then .next (modDie s s.args.i fun d => { d with ref := false }) else .next s

/-- DIEPWR_CHANGE_DONE: the change of mode in progress is over. -/
def execDiepwrChangeDone (s : State) : Host.Outcome State Fault Refusal :=
  let n := s.args.i
  if h : n < 4 then
    if s.pkg.dies[n].busy then
      .next (modDie s n fun d => { d with busy := false, gated := d.mode == 3 })
    else .next s
  else .next s

end Sys2Proof.Machine
end

