-- ==== Sys2Proof/Machine/Mailbox.lean ====
section
/-! DEFINITION. The other mailbox commands (18_surroundings.md R447): trap actions (16_recovery.md R432), invalidation
(15_isolation.md R389), Sluices (16 R439), freeze and resume (R424, R426), cuts, time, the sequencer
(13_progress_watch.md R367, R368), image keys and full service (18 R451, R456, R458). -/

namespace Sys2Proof.Machine

/-! ### Trap actions (16 R432) -/

/-- The record of a context's trap ring that a number names. -/
def recordNumbered (x : Context) (n : BitVec 32) : Option TrapRec :=
  (x.traps.slots.find? fun kr => kr.2.seqn == n).map (·.2)

/-- A later record of the same task, which the task is Trapped for now. -/
def recordStale (x : Context) (r : TrapRec) : Bool :=
  let same (y : TrapRec) : Bool := y.cell == r.cell && y.task == r.task && !y.auto
  x.trapsDue.any same || x.traps.slots.any fun ky =>
    same ky.2 && ky.2.seqn != r.seqn && decide ((ky.2.seqn - r.seqn).toNat < 2 ^ 31)

/-- What a record still holds Trapped: its task, or the regions that a `STUCK` froze. -/
def recordOpen (s : State) (r : TrapRec) : Bool :=
  if r.info.code = .stuck then s.tasks.any fun kt => kt.2.stuck && r.pages.contains (pageIdOf s kt.1.1)
  else (tget s.tasks (r.cell, r.task)).any fun t => t.state == .trapped

/-- The instance that a record concerns: its task's, else its cell's. -/
def recordInst (s : State) (r : TrapRec) : BitVec 32 :=
  match tget s.tasks (r.cell, r.task), tget s.cells r.cell with
  | some t, _ => t.inst
  | none, some c => c.inst
  | none, none => 0

/-- A trap action: refused where its record is not open or its code does not allow it. `code` is `MBARG1`[1:0]: with another one
standing there the command is another action. LOG 27, DESIGN CHOICE. -/
def trapAction (code : BitVec 2) (s : State) (allowed : TrapCode → Bool) (act : State → TrapRec → MbRes) :
    Host.Outcome State Fault Refusal :=
  if s.pkg.mailbox.arg1.extractLsb' 0 2 != code then .next s
  else
    mbCtx 0x05 s fun s x =>
      match recordNumbered x (s.args.w0.setWidth 32) with
      | some r => if r.auto || recordStale x r || !recordOpen s r || !allowed r.info.code then .status 0x02 else act s r
      | none => .status 0x02

/-- A task on a page that is frozen stays so. -/
def keepFrozen (s : State) (cell task : Nat) : State :=
  modTask s (cell, task) fun t => { t with frozen := t.state == .waiting && !pageRuns s (pageIdOf s cell) }

/-- The frozen regions of a `STUCK` resume, and the tasks that it Trapped wait again. -/
def retryStuck (s : State) (r : TrapRec) : State :=
  let s1 := { s with tasks := tmap s.tasks fun k t =>
    if t.stuck && r.pages.contains (pageIdOf s k.1) then { t with state := .waiting, stuck := false } else t }
  r.pages.foldl thawPage s1

/-- MB_TRAP_RETRY: for every code but `SEQGAP` and `BRK`; a `STUCK` whose freeze is not complete is refused. -/
def execMbTrapRetry (s : State) : Host.Outcome State Fault Refusal :=
  trapAction 0 s (fun c => c != .seqGap && c != .brk) fun s r =>
    if r.info.code = .stuck then
      if r.pages.all (fun k => (tget s.pages k).all (·.frozen)) then .done (retryStuck s r) else .status 0x02
    else .done (checkCounts (keepFrozen (retryTask s r.cell r.task) r.cell r.task) r.cell)

/-- MB_TRAP_CONTINUE: for `BRK` alone. -/
def execMbTrapContinue (s : State) : Host.Outcome State Fault Refusal :=
  trapAction 1 s (· == .brk) fun s r => .done (checkCounts (keepFrozen (continueTask s r.cell r.task) r.cell r.task) r.cell)

/-- MB_TRAP_ROLLBACK: the instance is rolled back (R422). -/
def execMbTrapRollback (s : State) : Host.Outcome State Fault Refusal :=
  trapAction 2 s (fun _ => true) fun s r =>
    .done (modInst s (recordInst s r) fun i => { i with rollbackDue := i.rollbackDue ++ [(r.cell, r.task, r.ins.toNat)] })

/-- MB_TRAP_END: the instance is ended (12 R331). -/
def execMbTrapEnd (s : State) : Host.Outcome State Fault Refusal :=
  trapAction 3 s (fun _ => true) fun s r =>
    match tget s.instances (recordInst s r) with
    | some i => .done (endInstance s (recordInst s r) i)
    | none => .status 0x02

/-! ### Invalidation (15 R389) -/

/-- MB_INVALIDATE_TRANSLATION: it runs until INVALIDATION_COMPLETE. -/
def execMbInvalidateTranslation (s : State) : Host.Outcome State Fault Refusal :=
  mbCtx 0x06 s fun s _ => .running { s with invalidation := some ⟨s.args.asid, s.args.w0.toNat, s.args.w1.toNat⟩ }

/-- INVALIDATION_COMPLETE: cached translations of the range are discarded, once the context's operations already issued
have performed. -/
def execInvalidationComplete (s : State) : Host.Outcome State Fault Refusal :=
  match s.invalidation with
  | none => .next s
  | some v =>
    let meets (base size : Nat) : Bool := decide (base < v.base + v.length) && decide (v.base < base + size)
    if s.tasks.any (fun kt => asidOf s kt.1.1 == v.asid && !(unperformed s kt.1).isEmpty) then .next s
    else
      .next (endMailbox { s with
        xlates := s.xlates.filter fun x => !(x.asid == v.asid && meets x.vbase x.size)
        rangeHeld := s.rangeHeld.filter fun x => !(x.asid == v.asid && meets x.entry.base (x.entry.lim - x.entry.base))
        invalidation := none } 0x00)

/-! ### Sluices and cuts -/

/-- A running instance of the context that a command names. -/
def runningInst (s : State) (n : BitVec 32) : Option Instance :=
  (tget s.instances n).bind fun i => if i.asid == s.args.asid && i.ended.isNone && !i.ending then some i else none

/-- A Sluice of the instance `MBARG0`, by its index `MBARG1`[7:0]; `MBARG1`[8] is 1 for open. -/
def mbSluice (arm : Bool) (s : State) : Host.Outcome State Fault Refusal :=
  if s.pkg.mailbox.arg1.getLsbD 8 == arm then .next s
  else
    mbCtx 0x07 s fun s _ =>
      let n := s.args.w0.setWidth 32
      let k := (s.args.w1.extractLsb' 0 8).toNat
      match runningInst s n with
      | some i => if k < i.sluices.length then .done (setSluice s n k arm) else .status 0x02
      | none => .status 0x02

/-- MB_SLUICE_ARM. -/
def execMbSluiceArm (s : State) : Host.Outcome State Fault Refusal := mbSluice true s

/-- MB_SLUICE_OPEN. -/
def execMbSluiceOpen (s : State) : Host.Outcome State Fault Refusal := mbSluice false s

/-- MB_CUT: instance `MBARG0` asks its coordinator for a cut (16 R418). -/
def execMbCut (s : State) : Host.Outcome State Fault Refusal :=
  mbCtx 0x0A s fun s _ =>
    match runningInst s (s.args.w0.setWidth 32) with
    | some _ => .done (askCut s (s.args.w0.setWidth 32))
    | none => .status 0x02

/-! ### Freeze and resume (16 R424, R426) -/

/-- The pages that a list at a physical address names: a count, then one binding-table index for each, words of 64 bits. -/
def pageList (s : State) (x : Context) (pa : Nat) : Option (List Nat) :=
  let count := readNat s.phys pa 8
  if !physExists s pa || packageOf pa != ownPackage s || 16384 < count then none
  else
    (List.range count).foldl (fun l k =>
      match l, tget x.members (readNat s.phys (pa + 8 * (k + 1)) 8) with
      | some l, some m => some (if l.contains m.1 then l else l ++ [m.1])
      | _, _ => none) (some [])

/-- MB_FREEZE: it runs until the freeze completes. -/
def execMbFreeze (s : State) : Host.Outcome State Fault Refusal :=
  mbCtx 0x08 s fun s x =>
    match pageList s x s.args.w0.toNat with
    | none => .status 0x03
    | some l =>
      if l.any (fun k => (tget s.pages k).all (·.returned)) then .status 0x02
      else .running (requestFreeze s s.args.asid l true)

/-- A frozen page resumes in a frame; the faults of the frame it leaves are recorded (R417). -/
def resumePage (s : State) (page : Nat) (f : FrameId) : State :=
  let lost := match (tget s.pages page).bind (·.frame) with
    | some old => (frameAt s old).faulty
    | none => false
  let s1 := movePage s page f
  let s2 := thawPage (modPage (if lost then rewriteCells s1 page else s1) page fun p => { p with faults := [] }) page
  ((tget s.pages page).map (·.faults)).getD [] |>.foldl recordFault s2

/-- MB_RESUME: each page in a free frame, in the order of `freeFrames` (LOG 7, DESIGN CHOICE). LOG 27, DESIGN CHOICE. -/
def execMbResume (s : State) : Host.Outcome State Fault Refusal :=
  mbCtx 0x09 s fun s x =>
    match pageList s x s.args.w0.toNat with
    | none => .status 0x03
    | some l =>
      if !l.all (fun k => (tget s.pages k).any fun p => p.frozen && !p.returned) then .status 0x02
      else if (freeFrames s).length < l.length then .status 0x06
      else .done ((l.zip (freeFrames s)).foldl (fun z x => resumePage z x.1 x.2) s)

/-! ### Time, the sequencer, keys, full service -/

/-- MB_SET_TIME (18 R451): refused while any context is live. LOG 27, DESIGN CHOICE. -/
def execMbSetTime (s : State) : Host.Outcome State Fault Refusal :=
  mbRun 0x0B s fun s =>
    if !s.contexts.isEmpty then .status 0x02 else .done (setCap { s with pkg := { s.pkg with aocnt := s.args.w0 } })

/-- The first designation (13 R368). -/
def firstDesignation (s : State) (p b : Nat) : State :=
  { s with collective := { s.collective with
      primary := some p, standby := some b, records := SeqRecords.empty, copy := SeqRecords.empty, lastHeard := s.pkg.aocnt
      lastFinished := none } }

/-- A further designation names the live primary, and may name a new standby, which takes a copy of its records: on the standby's
own package, where the primary is elsewhere, as the event tells them (`args.records`). -/
def newStandby (s : State) (b : Nat) : State :=
  if s.collective.standby = some b then s
  else
    { s with collective := { s.collective with
        standby := some b, lastHeard := s.pkg.aocnt
        copy := if onPrimary s then s.collective.records else if b = ownPackage s then s.args.records else s.collective.copy } }

/-- The sequencer command: `MBARG0`[15:0] primary, [31:16] standby, [32] takeover. LOG 27, DESIGN CHOICE. -/
def mbSequencer (force : Bool) (s : State) (act : State → Nat → Nat → MbRes) : Host.Outcome State Fault Refusal :=
  if s.pkg.mailbox.arg0.getLsbD 32 != force then .next s
  else
    mbRun 0x0C s fun s =>
      let p := (s.args.w0.extractLsb' 0 16).toNat
      let b := (s.args.w0.extractLsb' 16 16).toNat
      if p = b then .status 0x03
      else
        match s.collective.primary with
        | some q => if q = p then act s p b else .status 0x02
        | none => if force then .status 0x02 else act s p b

/-- MB_SEQUENCER_DESIGNATE. -/
def execMbSequencerDesignate (s : State) : Host.Outcome State Fault Refusal :=
  mbSequencer false s fun s p b =>
    if s.collective.primary.isNone then .done (firstDesignation s p b) else .done (newStandby s b)

/-- MB_SEQUENCER_TAKEOVER: the standby takes over at once; a package that is neither waits for the notice (13 R367). -/
def execMbSequencerTakeover (s : State) : Host.Outcome State Fault Refusal :=
  mbSequencer true s fun s _ b =>
    let s1 := newStandby s b
    .done (if onPrimary s1 || onStandby s1 then becomePrimary s1 else s1)

/-- A key record is signed by a pair of the store or by the owner key; the first one, which fuses the owner key, by itself. -/
def keySigned (s : State) (r : List (BitVec 64)) : Bool :=
  s.pkg.keys.any (Config.keyRecordSigned r) || s.pkg.ownerKey.any (Config.keyRecordSigned r)
    || (s.pkg.keys.isEmpty && s.pkg.ownerKey.isNone && Config.keyRecordSigned r r)

/-- The words of the record at a physical address. -/
def keyRecordAt (s : State) (pa : Nat) : List (BitVec 64) :=
  (List.range ((Config.keyRecordLen + 7) / 8)).map fun k => BitVec.ofNat 64 (readNat s.phys (pa + 8 * k) 8)

/-- MB_ADD_IMAGE_KEY (18 R458). -/
def execMbAddImageKey (s : State) : Host.Outcome State Fault Refusal :=
  mbRun 0x0D s fun s =>
    let pa := s.args.w0.toNat
    let r := keyRecordAt s pa
    if !physExists s pa || packageOf pa != ownPackage s then .status 0x03
    else if !keySigned s r then .status 0x04
    else if s.pkg.ownerKey.isNone && s.pkg.keys.isEmpty then .done { s with pkg := { s.pkg with ownerKey := some r } }
    else if 8 ≤ s.pkg.keys.length then .status 0x02
    else .done { s with pkg := { s.pkg with keys := s.pkg.keys ++ [r] } }

/-- MB_FULL_SERVICE (18 R456): refused until self-test has finished on every frame. -/
def execMbFullService (s : State) : Host.Outcome State Fault Refusal :=
  mbRun 0x0E s fun s =>
    if (allFrames s).all (fun f => (frameAt s f).tested) then .done { s with pkg := { s.pkg with level := 2 } } else .status 0x02

end Sys2Proof.Machine
end

