-- ==== Sys2Proof/Machine/Special.lean ====
section
/-! DEFINITION. The special functions (05_arith_vector.md R149), each the correctly rounded value of the exact
function.  A function value is computed in fixed point with 512 fraction bits, far below the distance that
any value of these formats keeps from a rounding boundary, and is never a dyadic number outside the exact
cases that the table lists; so its floor with a sticky bit rounds as the exact value does. -/

namespace Sys2Proof.Machine

/-- Fixed point: one is 2^512. -/
abbrev fxOne : Nat := 2 ^ 512

/-- The fixed-point number of `m`·2^`e`, floored. -/
def fxOf (m : Nat) (e : Int) : Nat :=
  if 0 ≤ e + 512 then m * 2 ^ (e + 512).toNat else m / 2 ^ (-(e + 512)).toNat

def fxMul (a b : Nat) : Nat := a * b / fxOne

/-- Σ xⁿ/n! from the term `t` = x^(n-1)/(n-1)! on. -/
def expTerms (x : Nat) : Nat → Nat → Nat → Nat
  | 0, _, _ => 0
  | k + 1, n, t => let t' := fxMul t x / n; t' + expTerms x k (n + 1) t'

/-- e^x for 0 ≤ x < 1. -/
def fxExp (x : Nat) : Nat := fxOne + expTerms x 110 1 fxOne

/-- Σ y^(2n+1)/(2n+1) from n on, `p` being y^(2n+1). -/
def atanhTerms (y2 : Nat) : Nat → Nat → Nat → Nat
  | 0, _, _ => 0
  | k + 1, n, p => p / (2 * n + 1) + atanhTerms y2 k (n + 1) (fxMul p y2)

/-- ln f for f in [1, 2): 2·atanh((f − 1)/(f + 1)). -/
def fxLn (f : Nat) : Nat :=
  let y := (f - fxOne) * fxOne / (f + fxOne)
  2 * atanhTerms (fxMul y y) 170 0 y

def fxLn2 : Nat :=
  let y := fxOne / 3
  2 * atanhTerms (fxMul y y) 170 0 y

/-! The circle constant to 768 bits, by Machin's formula. -/

/-- Σ (−1)^n / ((2n+1)·d^(2n+1)), in units of 2^-768; `p` is the power's reciprocal. -/
def atanInv (d2 : Nat) : Nat → Nat → Nat → Int
  | 0, _, _ => 0
  | k + 1, n, p =>
    ((if n % 2 = 0 then 1 else -1 : Int) * ((p / (2 * n + 1) : Nat) : Int)) + atanInv d2 k (n + 1) (p / d2)

/-- π/2 in units of 2^-768. -/
def fxHalfPi : Nat :=
  (2 * (4 * atanInv 25 170 0 (2 ^ 768 / 5) - atanInv 57121 50 0 (2 ^ 768 / 239))).toNat

/-- Σ (−1)^k x^n/n! by steps of two, from the term `t` of degree `n`. -/
def altTerms (x2 : Nat) : Nat → Nat → Nat → Int
  | 0, _, _ => 0
  | k + 1, n, t => (t : Int) - altTerms x2 k (n + 2) (fxMul t x2 / ((n + 1) * (n + 2)))

/-- sin r and cos r for 0 ≤ r ≤ 2. -/
def fxSin (r : Nat) : Nat := (altTerms (fxMul r r) 70 1 r).toNat
def fxCos (r : Nat) : Nat := (altTerms (fxMul r r) 70 0 fxOne).toNat

/-- The quadrant and the rest of a positive `m`·2^`e` modulo π/2. -/
def reduceAngle (m : Nat) (e : Int) : Nat × Nat :=
  let x := if 0 ≤ e + 768 then m * 2 ^ (e + 768).toNat else m / 2 ^ (-(e + 768)).toNat
  (x / fxHalfPi % 4, x % fxHalfPi / 2 ^ 256)

/-- Rounding of a fixed-point magnitude that the exact value exceeds by less than one unit. -/
def storeFx (c : FpCtx) (neg : Bool) (v : Nat) (shift : Int) : Nat × LaneFlags :=
  let r := roundNum c (if v = 0 then .fin neg 1 (-1024) else .fin neg v (shift - 512)) true
  (r.bits, r.flags)

/-- 2^a: the exact power for an integer a. -/
def fpExp2 (c : FpCtx) (x : Nat) : Nat × LaneFlags :=
  match source c x with
  | .nan i => store c (.nan i)
  | .inf s => store c (if s then .zero false else .inf false)
  | .fin s m e =>
    if m = 0 then store c (.fin false 1 0)
    else if 0 ≤ e || m % 2 ^ (-e).toNat = 0 then
      let n : Int := if 0 ≤ e then (if 256 < (m : Int) * 2 ^ (min e 20).toNat then 100000 else (m * 2 ^ e.toNat : Nat)) else (m / 2 ^ (-e).toNat : Nat)
      store c (.fin false 1 (if s then -n else n))
    else
      -- a = n + r with 0 < r < 1
      let whole : Int := (m / 2 ^ (-e).toNat : Nat)
      let frac := fxOf (m % 2 ^ (-e).toNat) e
      let n := if s then -whole - 1 else whole
      let r := if s then fxOne - frac else frac
      storeFx c false (fxExp (fxMul r fxLn2)) n

/-- log2 a. -/
def fpLog2 (c : FpCtx) (x : Nat) : Nat × LaneFlags :=
  match source c x with
  | .nan i => store c (.nan i)
  | .inf s => store c (if s then .nan true else .inf false)
  | .fin s m e =>
    if m = 0 then let r := store c (.inf true); (r.1, r.2 ||| LaneFlags.dz)
    else if s then store c (.nan true)
    else
      let k := Nat.log2 m
      let n : Int := e + k
      if m = 2 ^ k then store c (.fin (decide (n < 0)) n.natAbs 0)
      else
        -- log2 a = n + ln f / ln 2 with 1 < f < 2
        let l := fxLn (fxOf m (-k)) * fxOne / fxLn2
        let v : Int := n * fxOne + l
        if 0 ≤ v then storeFx c false v.natAbs 0 else storeFx c true (v.natAbs - 1) 0

/-- sin a or cos a. -/
def fpTrig (cosine : Bool) (c : FpCtx) (x : Nat) : Nat × LaneFlags :=
  match source c x with
  | .nan i => store c (.nan i)
  | .inf _ => store c (.nan true)
  | .fin s m e =>
    if m = 0 then store c (if cosine then .fin false 1 0 else .zero s)
    else
      let q := reduceAngle m e
      let quad := if cosine then (q.1 + 1) % 4 else q.1
      let v := if quad % 2 = 0 then fxSin q.2 else fxCos q.2
      storeFx c ((!cosine && s) != decide (2 ≤ quad)) (v - 1) 0

/-- e^-y for 0 ≤ y ≤ 256, in fixed point. -/
def fxExpNeg (y : Nat) : Nat :=
  let k := y / fxLn2
  fxOne * fxOne / fxExp (y % fxLn2) / 2 ^ k

/-- tanh a. -/
def fpTanh (c : FpCtx) (x : Nat) : Nat × LaneFlags :=
  match source c x with
  | .nan i => store c (.nan i)
  | .inf s => store c (.fin s 1 0)
  | .fin s m e =>
    if m = 0 then store c (.zero s)
    else
      let t := if 7 ≤ (Nat.log2 m : Int) + e then 1 else fxExpNeg (2 * fxOf m e)
      storeFx c s ((fxOne - t) * fxOne / (fxOne + t) - 1) 0

/-- 1/(1 + e^-a). -/
def fpSigm (c : FpCtx) (x : Nat) : Nat × LaneFlags :=
  match source c x with
  | .nan i => store c (.nan i)
  | .inf s => store c (if s then .zero false else .fin false 1 0)
  | .fin s m e =>
    if m = 0 then store c (.fin false 1 (-1))
    else
      let t := if 8 ≤ (Nat.log2 m : Int) + e then 0 else fxExpNeg (fxOf m e)
      let v := (if s then t * fxOne / (fxOne + t) else fxOne * fxOne / (fxOne + t))
      storeFx c false (v - 1) 0

/-- LOG 13, DEDUCED. -/
def special (f : Fields) (s : State) (u : Cur) (o : Opnds) (fn : FpCtx → Nat → Nat × LaneFlags) : Act :=
  fUnary f s o isFloat3 fun g => fn (rneCtx u g)

def execFexp2 (f : Fields) (s : State) := runIns 0x095 .any f s fun s u o => special f s u o fpExp2
def execFlog2 (f : Fields) (s : State) := runIns 0x096 .any f s fun s u o => special f s u o fpLog2
def execFsin (f : Fields) (s : State) := runIns 0x097 .any f s fun s u o => special f s u o (fpTrig false)
def execFcos (f : Fields) (s : State) := runIns 0x098 .any f s fun s u o => special f s u o (fpTrig true)
def execFtanh (f : Fields) (s : State) := runIns 0x099 .any f s fun s u o => special f s u o fpTanh
def execFsigm (f : Fields) (s : State) := runIns 0x09A .any f s fun s u o => special f s u o fpSigm

end Sys2Proof.Machine
end

