-- ==== Sys2Proof/Machine/Registers.lean ====
section
/-! DEFINITION. What a read of management space returns (18_surroundings.md R445-R457, 00_scope.md R2, R12): the registers put
together from their fields, the rings of records word by word. -/

namespace Sys2Proof.Machine

/-! ### Management blocks (00 R2, 01 R17, 18 R454) -/

/-- `DIEPWR`. -/
def diepwrWord (d : DieState) : BitVec 64 :=
  0#59 ++ BitVec.ofBool d.ref ++ d.mode ++ BitVec.ofBool d.gated ++ BitVec.ofBool d.busy

/-- A register of the management block of die `n`; those of an absent die read as R2 and R454 give. -/
def dieRegister (s : State) (n o : Nat) : BitVec 64 :=
  if h : n < 4 then
    let d := s.pkg.dies[n]
    if o = 0 then (if d.fitted then d.orient.setWidth 64 else BitVec.allOnes 64)
    else if o = 8 then (if d.fitted then diepwrWord d else 0xE)
    else 0
  else 0

/-! ### The I/O die's registers (R445) -/

/-- `PWRCAP`. -/
def pwrcapWord (p : Package) : BitVec 64 := 0#20 ++ p.capin ++ BitVec.ofBool p.sched ++ 0#19 ++ p.capw

/-- `BOOTSTAT`. -/
def bootstatWord (p : Package) : BitVec 64 := 0#48 ++ p.bstage ++ 0#7 ++ BitVec.ofBool p.bfail

/-- A word of a schedule entry: the counter value last written, and the watts committed (LOG 28, DESIGN CHOICE). -/
def schedWord (p : Package) (k : Nat) : BitVec 64 :=
  if h : k / 2 < 64 then (if k % 2 = 0 then p.pschedNew[k / 2] else p.pschedW[k / 2].setWidth 64) else 0

/-- A register of the I/O die; reserved offsets read zero. -/
def ioRegister (p : Package) (o : Nat) : BitVec 64 :=
  match o with
  | 0x00 => p.level.setWidth 64
  | 0x08 => p.aocnt
  | 0x10 => pwrcapWord p
  | 0x18 => p.pwrnow.setWidth 64
  | 0x20 => p.domid
  | 0x28 => bootstatWord p
  | 0x40 => p.mailbox.cmd
  | 0x48 => p.mailbox.arg0
  | 0x50 => p.mailbox.arg1
  | 0x58 => p.mailbox.stat.setWidth 64
  | 0x60 => p.notify.setWidth 64
  | 0x68 => p.endrd.setWidth 64
  | 0x70 => p.endwr.setWidth 64
  | _ => if 0x100 ≤ o ∧ o < 0x500 then schedWord p ((o - 0x100) / 8) else 0

/-! ### Rings (R445, R449, 13 R354, 16 R430) -/

/-- Word `w` of an end record. -/
def endWord (r : EndRec) (w : Nat) : BitVec 64 := if w = 0 then r.time else 0#16 ++ r.how ++ r.asid ++ r.inst

/-- Word `w` of an event record. -/
def eventWord (r : EvRec) (w : Nat) : BitVec 64 :=
  match w with
  | 0 => r.time
  | 1 => r.src ++ r.code ++ r.seqn
  | 2 => r.pay.setWidth 64
  | _ => 0

/-- Word `w` of a trap record. -/
def trapWord (r : TrapRec) (w : Nat) : BitVec 64 :=
  match w with
  | 0 => r.time
  | 1 => r.src ++ BitVec.ofNat 8 r.info.chk ++ BitVec.ofNat 8 (trapCode r.info.code) ++ r.seqn
  | 2 =>
    BitVec.ofNat 32 r.info.aux ++ r.blk ++ r.ins ++ BitVec.ofBool r.auto ++ BitVec.ofBool (!r.arcs.isEmpty) ++ 0#3
      ++ BitVec.ofNat 3 r.task
  | 3 => BitVec.ofNat 64 r.info.addr
  | 4 => r.cut ++ BitVec.ofNat 32 r.info.seq
  | _ => 0

/-- Two arc words from place `k` on. -/
def arcPair (r : TrapRec) (k : Nat) : BitVec 64 := r.arcs.getD (k + 1) 0 ++ r.arcs.getD k 0

/-- Word `w` of place `k` of a trap ring: of a record, or of the arc words of a record one or two places before. -/
def trapRingWord (g : Ring TrapRec) (k w : Nat) : BitVec 64 :=
  match tget g.slots k, tget g.slots ((k + 1023) % 1024), tget g.slots ((k + 1022) % 1024) with
  | some r, _, _ => trapWord r w
  | none, some r, _ => arcPair r (2 * w)
  | none, none, some r => arcPair r (16 + 2 * w)
  | none, none, none => 0

/-- A word of the management space of the context with an identifier; where no such context is, zero. -/
def contextWord (x : Context) (o : Nat) : BitVec 64 :=
  if o < 0x20000 then (match tget x.events.slots (o / 32) with
    | some r => eventWord r (o / 8 % 4)
    | none => 0)
  else if o < 0x30000 then trapRingWord x.traps ((o - 0x20000) / 64) (o / 8 % 8)
  else if o = 0x30000 then x.events.rd
  else if o = 0x30008 then x.traps.rd
  else if o = 0x30010 then x.events.wr
  else if o = 0x30018 then x.traps.wr
  else 0

/-! ### The whole space -/

/-- The 64 bits at an aligned offset of management space. -/
def managementWord (s : State) (o : Nat) : BitVec 64 :=
  if o < 0x40000 then dieRegister s (o / 0x10000) (o % 0x10000)
  else if 0x100000 ≤ o ∧ o < 0x110000 then ioRegister s.pkg (o - 0x100000)
  else if 0x200000 ≤ o ∧ o < 0x201000 then
    (match tget s.pkg.endRing ((o - 0x200000) / 16) with
     | some r => endWord r (o / 8 % 2)
     | none => 0)
  else if 0x10000000 ≤ o ∧ o < 0x10000000 + 256 * 0x40000 then
    (match tget s.contexts (BitVec.ofNat 8 ((o - 0x10000000) / 0x40000)) with
     | some x => contextWord x (o % 0x40000)
     | none => 0)
  else 0

/-- An offset that lies in a ring of records, which is no register. -/
def ringOffset (o : Nat) : Bool :=
  decide (0x200000 ≤ o ∧ o < 0x201000) || decide (0x10000000 ≤ o ∧ o < 0x10000000 + 256 * 0x40000 ∧ o % 0x40000 < 0x30000)

/-- What a read of `n` bytes at an offset returns: the whole register, aligned, or zero (R445); of a ring, any of its bytes
(LOG 28, DESIGN CHOICE). -/
def managementRead (s : State) (o n : Nat) : List Byte :=
  if n = 8 ∧ o % 8 = 0 then natLe 8 (managementWord s o).toNat
  else (List.range n).map fun k =>
    if ringOffset (o + k) then BitVec.ofNat 8 ((managementWord s ((o + k) / 8 * 8)).toNat / 256 ^ ((o + k) % 8)) else 0

end Sys2Proof.Machine
end

