-- ==== Sys2Proof/Machine/Surround.lean ====
section
/-! DEFINITION. The rest of what surrounds the device (18_surroundings.md R445-R449, R456-R458): management registers, the
host's accesses to memory, package reset, self-test, scrubs, secure boot and firmware updates. -/

namespace Sys2Proof.Machine

/-! ### Registers (R445, R449) -/

/-- NOTIFY_CLEAR: each 1 written clears its bit. -/
def execNotifyClear (s : State) : Host.Outcome State Fault Refusal :=
  .next { s with pkg := { s.pkg with notify := s.pkg.notify &&& ~~~(s.args.w0.setWidth 4) } }

/-- END_RING_READ_INDEX_WRITE: `ENDRD`. -/
def execEndRingReadIndexWrite (s : State) : Host.Outcome State Fault Refusal :=
  .next { s with pkg := { s.pkg with endrd := s.args.w0.setWidth 32 } }

/-- CONTEXT_RING_READ_INDEX_WRITE: the read index of a context's event log, or of its trap ring (`args.flag`). -/
def execContextRingReadIndexWrite (s : State) : Host.Outcome State Fault Refusal :=
  .next (modCtx s s.args.asid fun x =>
    if s.args.flag then { x with traps := { x.traps with rd := s.args.w0 } }
    else { x with events := { x.events with rd := s.args.w0 } })

/-- The bits of `DOMID` that are not reserved. -/
abbrev domidMask : BitVec 64 := 0xF0F

/-- Writing `MBCMD` starts the command of its `CODE` for the context of its `CASID` (R447); a code without a command is refused
(LOG 28, DESIGN CHOICE). -/
def startCommand (s : State) (v : BitVec 64) : Host.Outcome State Fault Refusal :=
  let s := { s with args := { s.args with asid := v.setWidth 8 } }
  let m := s.pkg.mailbox
  match (v.extractLsb' 56 8).toNat with
  | 0x01 => execMbCreateContext s
  | 0x02 => execMbEndContext s
  | 0x03 => execMbLaunch s
  | 0x04 => execMbEndInstance s
  | 0x05 =>
    (match m.arg1.extractLsb' 0 2 with
     | 0 => execMbTrapRetry s
     | 1 => execMbTrapContinue s
     | 2 => execMbTrapRollback s
     | _ => execMbTrapEnd s)
  | 0x06 => execMbInvalidateTranslation s
  | 0x07 => if m.arg1.getLsbD 8 then execMbSluiceOpen s else execMbSluiceArm s
  | 0x08 => execMbFreeze s
  | 0x09 => execMbResume s
  | 0x0A => execMbCut s
  | 0x0B => execMbSetTime s
  | 0x0C => if m.arg0.getLsbD 32 then execMbSequencerTakeover s else execMbSequencerDesignate s
  | 0x0D => execMbAddImageKey s
  | 0x0E => execMbFullService s
  | _ => mbRun (v.extractLsb' 56 8) s fun _ => .status 0x02

/-- REGISTER_WRITE: `args.j` bytes at offset `args.i` of management space. Whole, aligned writes of `DOMID` (while no
context is live), of `MBCMD`, `MBARG0`, `MBARG1` and of the first word of a schedule entry; the registers with a write event of
their own are left to it; any other writes nothing. LOG 28, DESIGN CHOICE. -/
def execRegisterWrite (s : State) : Host.Outcome State Fault Refusal :=
  let o := s.args.i
  let v := s.args.w0
  if s.args.j != 8 || o % 8 != 0 then .next s
  else if o = 0x100020 then
    if s.contexts.isEmpty then .next { s with pkg := { s.pkg with domid := v &&& domidMask } } else .next s
  else if o = 0x100040 then startCommand s v
  else if o = 0x100048 then .next { s with pkg := { s.pkg with mailbox := { s.pkg.mailbox with arg0 := v } } }
  else if o = 0x100050 then .next { s with pkg := { s.pkg with mailbox := { s.pkg.mailbox with arg1 := v } } }
  else if h : 0x100100 ≤ o ∧ o < 0x100500 then
    if o % 16 = 0 then .next { s with pkg := { s.pkg with pschedNew := s.pkg.pschedNew.set ((o - 0x100100) / 16) v (by omega) } }
    else .next s
  else .next s

/-! ### The host's accesses to memory (R446) -/

/-- The granules of `n` bytes from a physical address, as segments. -/
def hostSegs (pa n : Nat) : List Seg :=
  if n = 0 then []
  else (List.range ((pa + n - 1) / 64 + 1 - pa / 64)).map fun k =>
    let lo := max pa (64 * (pa / 64 + k))
    ⟨lo - pa, min (pa + n) (64 * (pa / 64 + k) + 64) - lo, .phys, lo⟩

/-- What a read of the host returned. -/
def hostReads (s : State) (l : List Byte) : State := { s with pkg := { s.pkg with hostRead := l } }

/-- HOST_MEMORY_ACCESS: a plain access of `args.j` bytes at physical address `args.i` of the package: at its home, in turn with
the others that arrive there (09 R237, R252). A write stores `args.data`; a read returns the bytes in `hostRead`, those of
management space as the registers give them. A package that is held answers for management space alone (R457). -/
def execHostMemoryAccess (s : State) : Host.Outcome State Fault Refusal :=
  let pa := s.args.i
  let n := if s.args.flag then min s.args.j s.args.data.length else s.args.j
  let own := packageOf pa == ownPackage s
  if own && decide (0x100000000000 ≤ pa % 2 ^ 48) then
    .next (if s.args.flag then s else hostReads s (managementRead s (pa % 2 ^ 48 - 0x100000000000) n))
  else if s.pkg.bfail || !own || !(List.range n).all (fun k => physExists s (pa + k) && packageOf (pa + k) == ownPackage s)
      || accessWaits s .host (hostSegs pa n) then .next s
  else
    let s1 := servePort s .host (hostSegs pa n)
    .next (if s.args.flag then
        applyAt s1 { space := .phys, patches := patchesOf pa (s.args.data.take n), tagUnits := [], poisoned := false, drops := false }
      else hostReads s1 (readBytes s.phys pa n))

/-! ### Reset, self-test and scrubs (R456, 15 R391) -/

/-- PACKAGE_RESET: the machine right after reset, but for what is fused, kept in the key store, or in memory. LOG 28, DESIGN CHOICE. -/
def execPackageReset (s : State) : Host.Outcome State Fault Refusal :=
  .next { State.reset with
    agenda := s.agenda, free := s.free, args := s.args, phys := s.phys
    pkg := { Package.reset with
      build := s.pkg.build, rollbackCount := s.pkg.rollbackCount, keys := s.pkg.keys, ownerKey := s.pkg.ownerKey
      linksDown := s.pkg.linksDown, rootHashes := s.pkg.rootHashes
      dies := Vector.ofFn fun n : Fin 4 =>
        { DieState.reset s.pkg.dies[n].orient with fitted := s.pkg.dies[n].fitted, modulesOut := s.pkg.dies[n].modulesOut } } }

/-- How many frames a die may expose (01 R17), and how many it does. -/
def exposable (s : State) (n : Nat) : Nat := if h : n < 4 then (s.pkg.dies[n].orient.extractLsb' 8 8).toNat else 0

def exposedOn (s : State) (n : Nat) : Nat := (s.pkg.frames.filter fun fx => fx.1.die == n && fx.2.exposed).length

/-- FRAME_SELF_TEST_DONE: frame (`args.i`, `args.j`, `args.k`); one that passed is exposed, up to the die's number. LOG 28, DESIGN CHOICE. -/
def execFrameSelfTestDone (s : State) : Host.Outcome State Fault Refusal :=
  let f : FrameId := ⟨s.args.i, s.args.j, s.args.k⟩
  let x := frameAt s f
  if !isFrame s f || x.tested then .next s
  else
    .next (setFrame s f { x with
      tested := true, passed := s.args.flag
      exposed := s.args.flag && decide (exposedOn s f.die < exposable s f.die) })

/-- A context that ends does so once the numbers that it posted have finished and its frames are scrubbed (13 R357, 15 R377). -/
def endScrubbed (s : State) (asid : BitVec 8) : State :=
  if (tget s.contexts asid).any (fun x => x.ending && x.posts.isEmpty) && scrubbed s asid then endMailbox (dropContext s asid) 0x00 else s

/-- A context that ends with none of its posted numbers left: its pages return and are scrubbed. -/
def endPages (s : State) (asid : BitVec 8) : State :=
  if (tget s.contexts asid).any fun x => x.ending && x.posts.isEmpty then
    endScrubbed ((contextPages s asid).foldl returnPage s) asid
  else s

def endPosted (s : State) : State := (s.contexts.map (·.1)).foldl endPages s

/-- COLLECTIVE_FINISH (R361): in number order, as CANCELLED, FAILED or COMPLETE; a context that ends goes on when its last
posted number has finished. -/
def execCollectiveFinish (s : State) : Host.Outcome State Fault Refusal :=
  match nextNum s.collective with
  | none => .next s
  | some l =>
    if l.failNotice then .next (endPosted (finishNumber s l .failed))
    else if l.state = .executing then .next (endPosted (finishNumber s l .complete))
    else if l.cancelNotice then .next (endPosted (finishNumber s l .cancelled))
    else .next s

/-- FRAME_SCRUB_COMPLETE: the frame may be placed again; one whose scrub met an uncorrectable error is marked faulty, which the context
that held it logs (16 R405, R406, R417). -/
def execFrameScrubComplete (s : State) : Host.Outcome State Fault Refusal :=
  let f : FrameId := ⟨s.args.i, s.args.j, s.args.k⟩
  let x := frameAt s f
  if !x.scrubbing then .next s
  else
    let y := { x with scrubbing := false, lastCtx := none, faulty := x.faulty || s.args.flag, exposed := x.exposed && !s.args.flag }
    let s1 := setFrame s f y
    .next (match x.lastCtx with
      | some a => endScrubbed (if s.args.flag then logEvent s1 a (esrcOfFrame f) 0xF009 (frameWord f) else s1) a
      | none => s1)

/-! ### Secure boot (R457) -/

/-- A stage or update, whose bytes are `args.data`, is sound: its ECDSA and its LMS signature verify against the fused root key
hashes, and its version is not below the fused count. -/
def firmwareOk (s : State) : Bool :=
  Config.ecdsaVerified s.args.data s.pkg.rootHashes && Config.lmsVerified s.args.data s.pkg.rootHashes
    && decide (s.pkg.rollbackCount ≤ s.args.i)

/-- BOOT_STAGE_VERIFY: stage `args.w0`, its bytes `args.data`, version `args.i`. -/
def execBootStageVerify (s : State) : Host.Outcome State Fault Refusal :=
  if s.pkg.bfail then .next s
  else if firmwareOk s then .next { s with pkg := { s.pkg with bstage := s.args.w0.setWidth 8 } }
  else .next { s with pkg := { s.pkg with bfail := true } }

/-- FIRMWARE_UPDATE: build `args.j` replaces the old firmware once it is verified. -/
def execFirmwareUpdate (s : State) : Host.Outcome State Fault Refusal :=
  if firmwareOk s then .next { s with pkg := { s.pkg with build := s.args.j } } else .next s

end Sys2Proof.Machine
end

