-- ==== Sys2Proof/Machine/Dispatch.lean ====
section
/-! DEFINITION. One arm for each constructor of Instr. -/

namespace Sys2Proof.Machine

def exec (i : Instr) (s : State) : Host.Outcome State Fault Refusal :=
  match i with
  | .rdp f => Sys2Proof.Machine.execRdp f s
  | .rds f => Sys2Proof.Machine.execRds f s
  | .rdk f => Sys2Proof.Machine.execRdk f s
  | .imm f => Sys2Proof.Machine.execImm f s
  | .wrp f => Sys2Proof.Machine.execWrp f s
  | .wrs f => Sys2Proof.Machine.execWrs f s
  | .sendt f => Sys2Proof.Machine.execSendt f s
  | .mov f => Sys2Proof.Machine.execMov f s
  | .exit f => Sys2Proof.Machine.execExit f s
  | .steer f => Sys2Proof.Machine.execSteer f s
  | .steerl f => Sys2Proof.Machine.execSteerl f s
  | .merge f => Sys2Proof.Machine.execMerge f s
  | .carry f => Sys2Proof.Machine.execCarry f s
  | .invar f => Sys2Proof.Machine.execInvar f s
  | .nullt f => Sys2Proof.Machine.execNullt f s
  | .settag f => Sys2Proof.Machine.execSettag f s
  | .sbget f => Sys2Proof.Machine.execSbget f s
  | .nop f => Sys2Proof.Machine.execNop f s
  | .add f => Sys2Proof.Machine.execAdd f s
  | .sub f => Sys2Proof.Machine.execSub f s
  | .mul f => Sys2Proof.Machine.execMul f s
  | .mulh f => Sys2Proof.Machine.execMulh f s
  | .div f => Sys2Proof.Machine.execDiv f s
  | .rem f => Sys2Proof.Machine.execRem f s
  | .neg f => Sys2Proof.Machine.execNeg f s
  | .abs f => Sys2Proof.Machine.execAbs f s
  | .min f => Sys2Proof.Machine.execMin f s
  | .max f => Sys2Proof.Machine.execMax f s
  | .and f => Sys2Proof.Machine.execAnd f s
  | .or f => Sys2Proof.Machine.execOr f s
  | .xor f => Sys2Proof.Machine.execXor f s
  | .not f => Sys2Proof.Machine.execNot f s
  | .andn f => Sys2Proof.Machine.execAndn f s
  | .shl f => Sys2Proof.Machine.execShl f s
  | .shr f => Sys2Proof.Machine.execShr f s
  | .sra f => Sys2Proof.Machine.execSra f s
  | .rol f => Sys2Proof.Machine.execRol f s
  | .ror f => Sys2Proof.Machine.execRor f s
  | .clz f => Sys2Proof.Machine.execClz f s
  | .popc f => Sys2Proof.Machine.execPopc f s
  | .brev f => Sys2Proof.Machine.execBrev f s
  | .cmpeq f => Sys2Proof.Machine.execCmpeq f s
  | .cmpne f => Sys2Proof.Machine.execCmpne f s
  | .cmplt f => Sys2Proof.Machine.execCmplt f s
  | .cmple f => Sys2Proof.Machine.execCmple f s
  | .cmpgt f => Sys2Proof.Machine.execCmpgt f s
  | .cmpge f => Sys2Proof.Machine.execCmpge f s
  | .sel f => Sys2Proof.Machine.execSel f s
  | .imad f => Sys2Proof.Machine.execImad f s
  | .sext f => Sys2Proof.Machine.execSext f s
  | .zext f => Sys2Proof.Machine.execZext f s
  | .bfx f => Sys2Proof.Machine.execBfx f s
  | .bfi f => Sys2Proof.Machine.execBfi f s
  | .lea f => Sys2Proof.Machine.execLea f s
  | .laneid f => Sys2Proof.Machine.execLaneid f s
  | .vmask f => Sys2Proof.Machine.execVmask f s
  | .pfxsum f => Sys2Proof.Machine.execPfxsum f s
  | .pfxpop f => Sys2Proof.Machine.execPfxpop f s
  | .shuf f => Sys2Proof.Machine.execShuf f s
  | .lrot f => Sys2Proof.Machine.execLrot f s
  | .bcast f => Sys2Proof.Machine.execBcast f s
  | .compact f => Sys2Proof.Machine.execCompact f s
  | .expand f => Sys2Proof.Machine.execExpand f s
  | .redadd f => Sys2Proof.Machine.execRedadd f s
  | .redmin f => Sys2Proof.Machine.execRedmin f s
  | .redmax f => Sys2Proof.Machine.execRedmax f s
  | .redand f => Sys2Proof.Machine.execRedand f s
  | .redor f => Sys2Proof.Machine.execRedor f s
  | .redxor f => Sys2Proof.Machine.execRedxor f s
  | .pand f => Sys2Proof.Machine.execPand f s
  | .por f => Sys2Proof.Machine.execPor f s
  | .pxor f => Sys2Proof.Machine.execPxor f s
  | .pnot f => Sys2Proof.Machine.execPnot f s
  | .pany f => Sys2Proof.Machine.execPany f s
  | .pall f => Sys2Proof.Machine.execPall f s
  | .absd f => Sys2Proof.Machine.execAbsd f s
  | .avg f => Sys2Proof.Machine.execAvg f s
  | .clamp f => Sys2Proof.Machine.execClamp f s
  | .dot4 f => Sys2Proof.Machine.execDot4 f s
  | .dot2 f => Sys2Proof.Machine.execDot2 f s
  | .fadd f => Sys2Proof.Machine.execFadd f s
  | .fsub f => Sys2Proof.Machine.execFsub f s
  | .fmul f => Sys2Proof.Machine.execFmul f s
  | .fma f => Sys2Proof.Machine.execFma f s
  | .fms f => Sys2Proof.Machine.execFms f s
  | .fnma f => Sys2Proof.Machine.execFnma f s
  | .fnms f => Sys2Proof.Machine.execFnms f s
  | .fdiv f => Sys2Proof.Machine.execFdiv f s
  | .fsqrt f => Sys2Proof.Machine.execFsqrt f s
  | .frcp f => Sys2Proof.Machine.execFrcp f s
  | .frsq f => Sys2Proof.Machine.execFrsq f s
  | .fmin f => Sys2Proof.Machine.execFmin f s
  | .fmax f => Sys2Proof.Machine.execFmax f s
  | .fabs f => Sys2Proof.Machine.execFabs f s
  | .fneg f => Sys2Proof.Machine.execFneg f s
  | .fcmpeq f => Sys2Proof.Machine.execFcmpeq f s
  | .fcmplt f => Sys2Proof.Machine.execFcmplt f s
  | .fcmple f => Sys2Proof.Machine.execFcmple f s
  | .fcmpun f => Sys2Proof.Machine.execFcmpun f s
  | .fclass f => Sys2Proof.Machine.execFclass f s
  | .fscale f => Sys2Proof.Machine.execFscale f s
  | .fexp2 f => Sys2Proof.Machine.execFexp2 f s
  | .flog2 f => Sys2Proof.Machine.execFlog2 f s
  | .fsin f => Sys2Proof.Machine.execFsin f s
  | .fcos f => Sys2Proof.Machine.execFcos f s
  | .ftanh f => Sys2Proof.Machine.execFtanh f s
  | .fsigm f => Sys2Proof.Machine.execFsigm f s
  | .fredadd f => Sys2Proof.Machine.execFredadd f s
  | .fredmax f => Sys2Proof.Machine.execFredmax f s
  | .fredmin f => Sys2Proof.Machine.execFredmin f s
  | .faddx f => Sys2Proof.Machine.execFaddx f s
  | .fsubx f => Sys2Proof.Machine.execFsubx f s
  | .fmulx f => Sys2Proof.Machine.execFmulx f s
  | .dwadd f => Sys2Proof.Machine.execDwadd f s
  | .dwsub f => Sys2Proof.Machine.execDwsub f s
  | .dwmul f => Sys2Proof.Machine.execDwmul f s
  | .dwfma f => Sys2Proof.Machine.execDwfma f s
  | .dwnorm f => Sys2Proof.Machine.execDwnorm f s
  | .dwred f => Sys2Proof.Machine.execDwred f s
  | .dwtof f => Sys2Proof.Machine.execDwtof f s
  | .fcvt f => Sys2Proof.Machine.execFcvt f s
  | .ftoi f => Sys2Proof.Machine.execFtoi f s
  | .itof f => Sys2Proof.Machine.execItof f s
  | .cbdec f => Sys2Proof.Machine.execCbdec f s
  | .cbenc f => Sys2Proof.Machine.execCbenc f s
  | .pack f => Sys2Proof.Machine.execPack f s
  | .unpack f => Sys2Proof.Machine.execUnpack f s
  | .bscl f => Sys2Proof.Machine.execBscl f s
  | .bscalc f => Sys2Proof.Machine.execBscalc f s
  | .setmode f => Sys2Proof.Machine.execSetmode f s
  | .getflags f => Sys2Proof.Machine.execGetflags f s
  | .clrflags f => Sys2Proof.Machine.execClrflags f s
  | .frnd f => Sys2Proof.Machine.execFrnd f s
  | .fcopysgn f => Sys2Proof.Machine.execFcopysgn f s
  | .fdot2 f => Sys2Proof.Machine.execFdot2 f s
  | .getmode f => Sys2Proof.Machine.execGetmode f s
  | .fcmpne f => Sys2Proof.Machine.execFcmpne f s
  | .mlds f => Sys2Proof.Machine.execMlds f s
  | .mswap f => Sys2Proof.Machine.execMswap f s
  | .mrow f => Sys2Proof.Machine.execMrow f s
  | .mrowc f => Sys2Proof.Machine.execMrowc f s
  | .mcbl f => Sys2Proof.Machine.execMcbl f s
  | .acc f => Sys2Proof.Machine.execAcc f s
  | .accn f => Sys2Proof.Machine.execAccn f s
  | .eor f => Sys2Proof.Machine.execEor f s
  | .accrel f => Sys2Proof.Machine.execAccrel f s
  | .route f => Sys2Proof.Machine.execRoute f s
  | .mstat f => Sys2Proof.Machine.execMstat f s
  | .mclr f => Sys2Proof.Machine.execMclr f s
  | .accrd f => Sys2Proof.Machine.execAccrd f s
  | .rtset f => Sys2Proof.Machine.execRtset f s
  | .ld f => Sys2Proof.Machine.execLd f s
  | .st f => Sys2Proof.Machine.execSt f s
  | .stm f => Sys2Proof.Machine.execStm f s
  | .lds f => Sys2Proof.Machine.execLds f s
  | .sts f => Sys2Proof.Machine.execSts f s
  | .ldg f => Sys2Proof.Machine.execLdg f s
  | .stsc f => Sys2Proof.Machine.execStsc f s
  | .pref f => Sys2Proof.Machine.execPref f s
  | .aadd f => Sys2Proof.Machine.execAadd f s
  | .amin f => Sys2Proof.Machine.execAmin f s
  | .amax f => Sys2Proof.Machine.execAmax f s
  | .aand f => Sys2Proof.Machine.execAand f s
  | .aor f => Sys2Proof.Machine.execAor f s
  | .axor f => Sys2Proof.Machine.execAxor f s
  | .axchg f => Sys2Proof.Machine.execAxchg f s
  | .acas f => Sys2Proof.Machine.execAcas f s
  | .atas f => Sys2Proof.Machine.execAtas f s
  | .afadd f => Sys2Proof.Machine.execAfadd f s
  | .ainc f => Sys2Proof.Machine.execAinc f s
  | .fence f => Sys2Proof.Machine.execFence f s
  | .acq f => Sys2Proof.Machine.execAcq f s
  | .rel f => Sys2Proof.Machine.execRel f s
  | .bktake f => Sys2Proof.Machine.execBktake f s
  | .bkgive f => Sys2Proof.Machine.execBkgive f s
  | .tfpush f => Sys2Proof.Machine.execTfpush f s
  | .tfpop f => Sys2Proof.Machine.execTfpop f s
  | .chapp f => Sys2Proof.Machine.execChapp f s
  | .chtail f => Sys2Proof.Machine.execChtail f s
  | .chseq f => Sys2Proof.Machine.execChseq f s
  | .adec f => Sys2Proof.Machine.execAdec f s
  | .ldnt f => Sys2Proof.Machine.execLdnt f s
  | .stnt f => Sys2Proof.Machine.execStnt f s
  | .ldb f => Sys2Proof.Machine.execLdb f s
  | .afmin f => Sys2Proof.Machine.execAfmin f s
  | .afmax f => Sys2Proof.Machine.execAfmax f s
  | .sset f => Sys2Proof.Machine.execSset f s
  | .sidx f => Sys2Proof.Machine.execSidx f s
  | .spop f => Sys2Proof.Machine.execSpop f s
  | .spush f => Sys2Proof.Machine.execSpush f s
  | .sint f => Sys2Proof.Machine.execSint f s
  | .suni f => Sys2Proof.Machine.execSuni f s
  | .ssub f => Sys2Proof.Machine.execSsub f s
  | .smadd f => Sys2Proof.Machine.execSmadd f s
  | .bmand f => Sys2Proof.Machine.execBmand f s
  | .bmpfx f => Sys2Proof.Machine.execBmpfx f s
  | .hprobe f => Sys2Proof.Machine.execHprobe f s
  | .hins f => Sys2Proof.Machine.execHins f s
  | .contract f => Sys2Proof.Machine.execContract f s
  | .sstat f => Sys2Proof.Machine.execSstat f s
  | .clnum f => Sys2Proof.Machine.execClnum f s
  | .clpost f => Sys2Proof.Machine.execClpost f s
  | .clcancel f => Sys2Proof.Machine.execClcancel f s
  | .clstat f => Sys2Proof.Machine.execClstat f s
  | .cljoin f => Sys2Proof.Machine.execCljoin f s
  | .clleave f => Sys2Proof.Machine.execClleave f s
  | .clquery f => Sys2Proof.Machine.execClquery f s
  | .grpid f => Sys2Proof.Machine.execGrpid f s
  | .role f => Sys2Proof.Machine.execRole f s
  | .spawn f => Sys2Proof.Machine.execSpawn f s
  | .tear f => Sys2Proof.Machine.execTear f s
  | .bal f => Sys2Proof.Machine.execBal f s
  | .time f => Sys2Proof.Machine.execTime f s
  | .firecnt f => Sys2Proof.Machine.execFirecnt f s
  | .evt f => Sys2Proof.Machine.execEvt f s
  | .svcl f => Sys2Proof.Machine.execSvcl f s
  | .yield f => Sys2Proof.Machine.execYield f s
  | .prio f => Sys2Proof.Machine.execPrio f s
  | .ctxid f => Sys2Proof.Machine.execCtxid f s
  | .psetb f => Sys2Proof.Machine.execPsetb f s
  | .psetp f => Sys2Proof.Machine.execPsetp f s
  | .padd f => Sys2Proof.Machine.execPadd f s
  | .pchk f => Sys2Proof.Machine.execPchk f s
  | .pget f => Sys2Proof.Machine.execPget f s
  | .pseal f => Sys2Proof.Machine.execPseal f s
  | .punseal f => Sys2Proof.Machine.execPunseal f s
  | .pmint f => Sys2Proof.Machine.execPmint f s
  | .mark f => Sys2Proof.Machine.execMark f s
  | .trap f => Sys2Proof.Machine.execTrap f s
  | .brk f => Sys2Proof.Machine.execBrk f s
  | .sluice f => Sys2Proof.Machine.execSluice f s
  | .replay f => Sys2Proof.Machine.execReplay f s
  | .guard f => Sys2Proof.Machine.execGuard f s
  | .cutstat f => Sys2Proof.Machine.execCutstat f s
  | .resumeq f => Sys2Proof.Machine.execResumeq f s
  | .arbiterChoice => Sys2Proof.Machine.execArbiterChoice s
  | .blockRetire => Sys2Proof.Machine.execBlockRetire s
  | .tokenAccept => Sys2Proof.Machine.execTokenAccept s
  | .spillwayPass => Sys2Proof.Machine.execSpillwayPass s
  | .replaySend => Sys2Proof.Machine.execReplaySend s
  | .rowChainTake => Sys2Proof.Machine.execRowChainTake s
  | .rowOutputSend => Sys2Proof.Machine.execRowOutputSend s
  | .releaseQueueSend => Sys2Proof.Machine.execReleaseQueueSend s
  | .streamCommandAccept => Sys2Proof.Machine.execStreamCommandAccept s
  | .streamReadTokenSend => Sys2Proof.Machine.execStreamReadTokenSend s
  | .indirectStreamGather => Sys2Proof.Machine.execIndirectStreamGather s
  | .streamPushTake => Sys2Proof.Machine.execStreamPushTake s
  | .coiterationStep => Sys2Proof.Machine.execCoiterationStep s
  | .streamSlotTeardown => Sys2Proof.Machine.execStreamSlotTeardown s
  | .homeAccessApply => Sys2Proof.Machine.execHomeAccessApply s
  | .atomicApply => Sys2Proof.Machine.execAtomicApply s
  | .releaseComplete => Sys2Proof.Machine.execReleaseComplete s
  | .remoteOutboundSend => Sys2Proof.Machine.execRemoteOutboundSend s
  | .translationWalk => Sys2Proof.Machine.execTranslationWalk s
  | .chainJobIssue => Sys2Proof.Machine.execChainJobIssue s
  | .engineJobComplete => Sys2Proof.Machine.execEngineJobComplete s
  | .fifoPendingPush => Sys2Proof.Machine.execFifoPendingPush s
  | .collectiveAnnounce => Sys2Proof.Machine.execCollectiveAnnounce s
  | .collectiveGo => Sys2Proof.Machine.execCollectiveGo s
  | .collectiveExecute => Sys2Proof.Machine.execCollectiveExecute s
  | .collectiveFinish => Sys2Proof.Machine.execCollectiveFinish s
  | .collectiveCancelNotice => Sys2Proof.Machine.execCollectiveCancelNotice s
  | .seqNumberRequest => Sys2Proof.Machine.execSeqNumberRequest s
  | .seqJoinRequest => Sys2Proof.Machine.execSeqJoinRequest s
  | .seqLeaveRequest => Sys2Proof.Machine.execSeqLeaveRequest s
  | .seqCancelRequest => Sys2Proof.Machine.execSeqCancelRequest s
  | .seqPostNotice => Sys2Proof.Machine.execSeqPostNotice s
  | .seqQueryRequest => Sys2Proof.Machine.execSeqQueryRequest s
  | .standbyTakeover => Sys2Proof.Machine.execStandbyTakeover s
  | .takeoverNotice => Sys2Proof.Machine.execTakeoverNotice s
  | .memberUnreachable => Sys2Proof.Machine.execMemberUnreachable s
  | .reachLinkFail => Sys2Proof.Machine.execReachLinkFail s
  | .flitCrcRetry => Sys2Proof.Machine.execFlitCrcRetry s
  | .ucieModuleExclude => Sys2Proof.Machine.execUcieModuleExclude s
  | .contextSilent => Sys2Proof.Machine.execContextSilent s
  | .pageSilent => Sys2Proof.Machine.execPageSilent s
  | .balancerInterval => Sys2Proof.Machine.execBalancerInterval s
  | .replicaParked => Sys2Proof.Machine.execReplicaParked s
  | .taskDrain => Sys2Proof.Machine.execTaskDrain s
  | .spawnArrive => Sys2Proof.Machine.execSpawnArrive s
  | .pageReturn => Sys2Proof.Machine.execPageReturn s
  | .instanceEnd => Sys2Proof.Machine.execInstanceEnd s
  | .endRecordWrite => Sys2Proof.Machine.execEndRecordWrite s
  | .uncorrectableError => Sys2Proof.Machine.execUncorrectableError s
  | .faultyPageRelocate => Sys2Proof.Machine.execFaultyPageRelocate s
  | .rollback => Sys2Proof.Machine.execRollback s
  | .cutOrder => Sys2Proof.Machine.execCutOrder s
  | .pageCutSave => Sys2Proof.Machine.execPageCutSave s
  | .cutComplete => Sys2Proof.Machine.execCutComplete s
  | .freezeComplete => Sys2Proof.Machine.execFreezeComplete s
  | .trapRecordWrite => Sys2Proof.Machine.execTrapRecordWrite s
  | .invalidationComplete => Sys2Proof.Machine.execInvalidationComplete s
  | .mbCreateContext => Sys2Proof.Machine.execMbCreateContext s
  | .mbEndContext => Sys2Proof.Machine.execMbEndContext s
  | .mbLaunch => Sys2Proof.Machine.execMbLaunch s
  | .mbEndInstance => Sys2Proof.Machine.execMbEndInstance s
  | .mbTrapRetry => Sys2Proof.Machine.execMbTrapRetry s
  | .mbTrapContinue => Sys2Proof.Machine.execMbTrapContinue s
  | .mbTrapRollback => Sys2Proof.Machine.execMbTrapRollback s
  | .mbTrapEnd => Sys2Proof.Machine.execMbTrapEnd s
  | .mbInvalidateTranslation => Sys2Proof.Machine.execMbInvalidateTranslation s
  | .mbSluiceArm => Sys2Proof.Machine.execMbSluiceArm s
  | .mbSluiceOpen => Sys2Proof.Machine.execMbSluiceOpen s
  | .mbFreeze => Sys2Proof.Machine.execMbFreeze s
  | .mbResume => Sys2Proof.Machine.execMbResume s
  | .mbCut => Sys2Proof.Machine.execMbCut s
  | .mbSetTime => Sys2Proof.Machine.execMbSetTime s
  | .mbSequencerDesignate => Sys2Proof.Machine.execMbSequencerDesignate s
  | .mbSequencerTakeover => Sys2Proof.Machine.execMbSequencerTakeover s
  | .mbAddImageKey => Sys2Proof.Machine.execMbAddImageKey s
  | .mbFullService => Sys2Proof.Machine.execMbFullService s
  | .notifyClear => Sys2Proof.Machine.execNotifyClear s
  | .endRingReadIndexWrite => Sys2Proof.Machine.execEndRingReadIndexWrite s
  | .contextRingReadIndexWrite => Sys2Proof.Machine.execContextRingReadIndexWrite s
  | .pwrcapWrite => Sys2Proof.Machine.execPwrcapWrite s
  | .scheduleEntryCommit => Sys2Proof.Machine.execScheduleEntryCommit s
  | .scheduleEntryDue => Sys2Proof.Machine.execScheduleEntryDue s
  | .powerCapControl => Sys2Proof.Machine.execPowerCapControl s
  | .diepwrFull => Sys2Proof.Machine.execDiepwrFull s
  | .diepwrBalanced => Sys2Proof.Machine.execDiepwrBalanced s
  | .diepwrNearThreshold => Sys2Proof.Machine.execDiepwrNearThreshold s
  | .diepwrGate => Sys2Proof.Machine.execDiepwrGate s
  | .diepwrRefClear => Sys2Proof.Machine.execDiepwrRefClear s
  | .diepwrChangeDone => Sys2Proof.Machine.execDiepwrChangeDone s
  | .registerWrite => Sys2Proof.Machine.execRegisterWrite s
  | .hostMemoryAccess => Sys2Proof.Machine.execHostMemoryAccess s
  | .packageReset => Sys2Proof.Machine.execPackageReset s
  | .frameSelfTestDone => Sys2Proof.Machine.execFrameSelfTestDone s
  | .bootStageVerify => Sys2Proof.Machine.execBootStageVerify s
  | .firmwareUpdate => Sys2Proof.Machine.execFirmwareUpdate s
  | .sequencerFailNoStandby => Sys2Proof.Machine.execSequencerFailNoStandby s
  | .frameScrubComplete => Sys2Proof.Machine.execFrameScrubComplete s

end Sys2Proof.Machine
end

