-- ==== Sys2Proof/Machine/Fetch.lean ====
section
/-! DEFINITION. Which turn comes next, the word that a firing executes, and the least machine in which one
given word is executed next. -/

namespace Sys2Proof.Machine

/-- The next turn: the agenda's head, or an open choice where the agenda is empty (LOG 1, DESIGN CHOICE). -/
def takeTurn (s : State) : Turn × State :=
  match s.agenda with
  | t :: r => (t, { s with agenda := r })
  | [] => (Config.nextTurn s.free, { s with free := s.free + 1 })

/-- The word of instruction `ins` of the firing in flight (02_encoding.md R47): none where no such firing is. -/
def fetchWord (s : State) (cell task ins : Nat) : Option IWord :=
  match tget s.cells cell, tget s.tasks (cell, task) with
  | some c, some t =>
    (match t.firing with
     | some fr => if ins < blockLen c fr.block then some (insWord c fr.block ins) else none
     | none => none)
  | _, _ => none

/-- The events of the part carry no instruction word. -/
def isEvent (i : Instr) : Bool := (opcodeOf i).isNone

def focusOn (s : State) (cell task ins : Nat) (g : GuardHit) : State :=
  { s with focus := some ⟨cell, task, ins, g⟩ }

def eventState (s : State) (a : Args) : State := { s with focus := none, args := a }

/-- Time passes: the always-on counter (18 R451) with the cap in force at its new value (R453), and for each arc its occupancy
and the time it is full (12 R322). -/
def elapse (s : State) (ticks : Nat) : State :=
  { s with
    pkg := capped { s.pkg with aocnt := s.pkg.aocnt + BitVec.ofNat 64 ticks }
    arcs := tmap s.arcs fun _ a =>
      { a with
        occSum := a.occSum + ticks * heldCount a
        fullTime := a.fullTime + (if max a.slots 1 ≤ a.queue.length then ticks else 0) } }

/-! ### The least machine that executes one word -/

/-- Header words of a one-instruction block with no ports, no registers and four exits without a successor. -/
def oneHeader : IWord × IWord := (0, 0)

/-- Whether only an M-cell may hold the word's opcode (03 R70). -/
def onlyM (w : IWord) : Bool :=
  match rowOf (opOf w) with
  | some r => r.cell == .m
  | none => false

/-- A machine in which a firing of task 0 of cell 0 is in flight at a block of this one word, to be executed
by the next turn. -/
def withWord (s : State) (w : IWord) : State :=
  let kind := if onlyM w then CellKind.m else CellKind.v
  { s with
    agenda := .fire 0 0 0 .ok :: s.agenda
    contexts := tput s.contexts 1 (plainContext 0)
    instances := tput s.instances 1 (plainInstance 1)
    pages := tput s.pages 0 (plainPage 1 1)
    cells := tput s.cells 0 (plainCell 0 1 kind [(0, oneHeader.1), (1, oneHeader.2), (2, w)])
    tasks := tput s.tasks (0, 0) (plainTask 1 (some (plainFiring 0))) }

end Sys2Proof.Machine
end

