-- ==== Sys2Proof/Machine/Step.lean ====
section
/-! DEFINITION. One step: the next turn is an instruction of a firing, an event of the part, or time passing. -/

namespace Sys2Proof.Machine

/-- An instruction executes; a word that is no legal instruction traps `ILLOP` (16_recovery.md R431). -/
def fireTurn (s : State) (cell task ins : Nat) (g : GuardHit) : Host.Outcome State Fault Refusal :=
  match fetchWord s cell task ins with
  | none => .next s
  | some w =>
    match decode w with
    | .ok i => exec i (focusOn s cell task ins g)
    | .bad _ => .next (takeTrap s cell task illop ins)

def runTurn (t : Turn) (s : State) : Host.Outcome State Fault Refusal :=
  match t with
  | .fire cell task ins g => fireTurn s cell task ins g
  | .event i a => if isEvent i then exec i (eventState s a) else .next s
  | .elapse n => .next (elapse s n)

def step (s : State) : Host.Outcome State Fault Refusal := runTurn (takeTurn s).1 (takeTurn s).2

/-- The state with one instruction word, numbered as the opcode table numbers it, placed so that the next
step fetches and executes it: the word stands alone in a block of a firing in flight (LOG 16, DESIGN CHOICE). -/
def State.withFetchWord (s : State) (nbits w : Nat) : State := withWord s (BitVec.ofNat 64 (w % 2 ^ nbits))

end Sys2Proof.Machine
end

