-- ==== Sys2Proof/Safety.lean ====
section
/-! DEFINITION. What counts as a sound state and a safe run, and the terms in which claims speak of an
instruction that may execute. -/

namespace Sys2Proof.Machine

/-- The memories of a page: its local window, and what its images hold of it. -/
def Page.mems (p : Page) : Mem × List Mem := (p.window, p.images.map (·.window))

def memsWf (m : Mem × List Mem) : Bool := memWf m.1 && m.2.all memWf

/-- Every memory of the machine is in canonical form: physical memory, each page's local window and its images of it, each
instance's symbol table. -/
def State.memOk (s : State) : Bool :=
  memWf s.phys && s.pages.all (fun p => memsWf p.2.mems) && s.instances.all (fun i => memWf i.2.symbols)

/-- A step that neither faults nor refuses. -/
def goesOn (s : State) : Prop := ∃ t, step s = .next t

/-- Instruction `u.ins` of the firing in focus is to act now (02 R54, R57): it has not executed, its task is not
frozen, every slot that a producer names has its delivery, lower memory-order indices are behind it, no slot holds
two values, and its required slots are named. -/
structure Awaits (code : Nat) (f : Fields) (s : State) (u : Cur) : Prop where
  focus : cur s = some u
  awake : u.t.frozen = false
  once : u.fr.done.contains u.ins = false
  filled : slotsUnfilled (readSlot u 0) (readSlot u 1) (readSlot u 3) (readSlot u 2) = false
  inOrder : ∀ r, rowOf code = some r → (r.mo && moBlocked u f) = false
  single : slotsClash (readSlot u 0) (readSlot u 1) (readSlot u 3) (readSlot u 2) = false
  named : ∀ r, rowOf code = some r → slotsMissing r f (readSlot u 0) (readSlot u 1) (readSlot u 3) = false

/-- It executes with operands `o`: no null in slots A, B, C by its rule (R54), its predicate, where `PR` names one, is
there, unpoisoned and lets it (R52; `scalar` is its scalar), and no Guard comparison of it fails (16 R415). -/
structure Executes (code : Nat) (rule : NullRule) (f : Fields) (s : State) (u : Cur) (scalar : Bool) (o : Opnds) : Prop
    extends Awaits code f s u where
  live : slotsNull rule (readSlot u 0) (readSlot u 1) (readSlot u 3) = false
  a : o.a = slotToken (readSlot u 0)
  b : o.b = slotToken (readSlot u 1)
  c : o.c = slotToken (readSlot u 3)
  chosen : (readPred f (readSlot u 2) = .always ∧ scalar = false ∧ o.p = none) ∨
    ∃ p, readPred f (readSlot u 2) = .is p ∧ p.poison = false ∧ prExecutes f p = true ∧ scalar = p.scalar ∧ o.p = some p
  calm : guarded u = false ∨ s.focus.map (·.guardHit) = some .ok ∨ s.focus.map (·.guardHit) = some .piece

/-- It is nullified (R52, R54): a null in a slot by its rule, a null predicate, or one that does not let it. -/
def Nullified (rule : NullRule) (f : Fields) (u : Cur) : Prop :=
  slotsNull rule (readSlot u 0) (readSlot u 1) (readSlot u 3) = true ∨
    readPred f (readSlot u 2) = .null ∨
    ∃ p, readPred f (readSlot u 2) = .is p ∧ p.poison = false ∧ prExecutes f p = false

/-- `s` with the instruction executed: marked done, its result delivered to its targets (poisoned where it depends on a mode word
that reads poisoned, 16 R404), its flags noted in the firing. -/
def executed (s : State) (u : Cur) (f : Fields) (scalar : Bool) (r : Res) (fl : FlagSet) : State :=
  modFiring s u.key fun fr => markDone fr u.ins (resultTo f scalar (spoilRes u r)) fl

/-- `s` with the instruction nullified: marked done, a null delivered to each target. -/
def nulled (s : State) (u : Cur) (f : Fields) : State :=
  modFiring s u.key fun fr => markDone fr u.ins (nullAll f) noFlags

/-- The task of the firing traps with `info` (16 R429). -/
def trapped (s : State) (u : Cur) (info : TrapInfo) : State := takeTrap s u.cell u.task info u.ins

/-- A byte of one of the machine's memories. -/
def byteOf (s : State) (sp : Space) (a : Nat) : Byte := readByte (memOf s sp) a

end Sys2Proof.Machine
end

