-- ==== Sys2Proof/Certificates/Slice0/Obligations.lean ====
section
/-! DEFINITION. The statements about the model, with the terms they are written in (Sys2Proof.Claims). -/

namespace Sys2Proof.Claims

open Sys2Proof.Machine

/-! ### Terms -/

/-- The number whose bit `k`, for each `k` below `w`, is `p k`. -/
def fromBits : Nat → (Nat → Bool) → Nat
  | 0, _ => 0
  | w + 1, p => fromBits w p + (p w).toNat * 2 ^ w

/-- The sideband of a result by 02 R38, with the scale given: kind 000, `TAG` of operand A, `BHEAD` and `SEQ` not set; and
zero in every invalid lane (02 R37). -/
structure FormedAs (a : Token) (tag : Fmt) (v : BitVec 16) (po : Bool) (sc : BitVec 8) (t : Token) : Prop where
  kind : t.kind = 0
  fmt : t.fmt = tag
  valid : t.valid = v
  poison : t.poison = po
  scale : t.scale = sc
  tag : t.tag = a.tag
  seq : t.seq = 0
  bhead : t.bhead = false
  zero : ∀ i, i < 16 → t.valid.getLsbD i = false → laneAt t i = 0

/-- As 02 R38 gives it: `SCALE` of A where the result's format is burst-scaled, else 0x7F. -/
abbrev Formed (a : Token) (tag : Fmt) (v : BitVec 16) (po : Bool) (t : Token) : Prop :=
  FormedAs a tag v po (if burstScaled tag then a.scale else 0x7F) t

/-- The elements of a result read in format `m`: `g lane sub` in each valid lane, its flags gathered by lane. -/
structure Elements (m : Fmt) (v : BitVec 16) (t : Token) (fl : FlagSet) (g : Nat → Nat → Nat × LaneFlags) : Prop where
  element : ∀ i j, i < 16 → v.getLsbD i = true → j < perLane m → elemAt m t i j = (g i j).1 % 2 ^ fmtWidth m
  flag : ∀ i, (h : i < 16) →
    fl[i] = if v.getLsbD i then (List.range (perLane m)).foldl (fun x j => x ||| (g i j).2) 0 else 0

/-- Lanes of a result, as 32-bit words, in each valid lane. -/
def Lanes (t : Token) (g : Nat → Lane) : Prop := ∀ i, i < 16 → t.valid.getLsbD i = true → laneAt t i = g i

/-- The instruction goes on: it answers a next state in which it has executed with one data result `t` and flags `fl`,
and nothing else has changed. -/
def Gives (i : Instr) (f : Fields) (s : State) (u : Cur) (scalar : Bool) (p : Token → FlagSet → Prop) : Prop :=
  ∃ t fl, exec i s = .next (executed s u f scalar (.one (.data t)) fl) ∧ p t fl

/-- The event takes place: it answers a next state with `p`. -/
def Happens (e : Instr) (s : State) (p : State → Prop) : Prop := ∃ z, exec e s = .next z ∧ p z

/-- As `Gives`, with two results, the first for `T0` and the second for `T1` (05 R118). -/
def GivesTwo (i : Instr) (f : Fields) (s : State) (u : Cur) (scalar : Bool) (p : Token → Token → FlagSet → Prop) : Prop :=
  ∃ t x fl, exec i s = .next (executed s u f scalar (.two (.data t) (.data x)) fl) ∧ p t x fl

/-- The instruction goes on without a result; `z` holds its effects, and it is marked executed there. -/
def Does (i : Instr) (f : Fields) (s : State) (u : Cur) (scalar : Bool) (z : State) : Prop :=
  exec i s = .next (executed z u f scalar .none noFlags)

/-- The effect is left to the firing's retirement (02 R55). -/
def Defers (i : Instr) (f : Fields) (s : State) (u : Cur) (scalar : Bool) (d : Deferred) : Prop :=
  Does i f s u scalar (modFiring s u.key fun fr => { fr with deferred := fr.deferred ++ [(u.ins, d)] })

/-- A failed check traps (16 R429); with none failing, `p` holds. -/
def Checked (i : Instr) (s : State) (u : Cur) (checks : List (Option TrapInfo)) (p : Prop) : Prop :=
  match checks.findSome? id with
  | some e => exec i s = .next (trapped s u e)
  | none => p

/-- `FMTMISMATCH` at a slot where a tag is not as wanted (05 R120). -/
def unless_ (ok : Bool) (slot : Nat) (t : Token) : Option TrapInfo := if ok then none else some (fmtTrap slot t.fmt)

/-- The field `MOD` 0b001 of the sat class asks for `Clamp`, any other value for `Wrap` (05 R133). -/
def intStored (f : Fields) (m : Fmt) (v : Int) : Nat × LaneFlags := if f.mod = 1 then clampInt m v else (wrapInt m v, 0)

/-- An operand named by a producer, or filled from `IMM` (05 R119). -/
def operandOr (f : Fields) (b : Option Token) : Option Token :=
  match b with
  | some t => some t
  | none => if f.ft = Fmt.fromOperand ∨ f.ft = Fmt.ptr then none else some (fillToken f.ft f.imm)

/-- 02 R68: the codes 0x1C to 0x1E are formats of no class. -/
def someFormat (m : Fmt) : Bool := m.toNat < 0x1C

/-- A further operand, where a producer names it, carries operand A's tag (05 R120). -/
def sameTag (m : Fmt) (slot : Nat) (a : Token) (b : Option Token) : Option TrapInfo := b.bind fun t => wantSame m slot a t

end Sys2Proof.Claims

open Sys2Proof Sys2Proof.Machine Sys2Proof.Claims


/-! ### Words, steps, reset and what every instruction keeps (02 R47-R57, 03 R81-R84, 12 R309, 16 R409, R429-R431) -/

namespace Sys2Proof.Claims

/-- The `WORD`s of the spec's own encoding table with the instructions they stand for. -/
def wordSamples : List (IWord × Instr) :=
  [ (0x4F00_880E_0400_0000, .faddx { pr := 0, ft := 1, mod := 0, t0 := 0x203, t1 := 0x204, imm := 0 }),
    (0x1005_9810_0000_0064, .add { pr := 0, ft := 0x0B, mod := 1, t0 := 0x204, t1 := 0, imm := 100 }),
    (0x8785_3818_0028_0007, .acas { pr := 0, ft := 0x0A, mod := 3, t0 := 0x206, t1 := 0, imm := 0x280007 }),
    (0x1C0C_0C14_0000_0000, .cmpne { pr := 0, ft := 0x18, mod := 0, t0 := 0x305, t1 := 0, imm := 0 }),
    (0xB900_0000_0003_0050, .spawn { pr := 0, ft := 0, mod := 0, t0 := 0, t1 := 0, imm := 0x030050 }) ]

/-- The null rule of an instruction: any null in A, B, C; for `MERGE` both A and B; for `INVAR` not A (05 R129, R130). -/
def nullRuleOf : Instr → NullRule
  | .merge _ => .merge
  | .invar _ => .invar
  | _ => .any

/-- The instructions that write memory as they execute: the atomics, `HINS` and `CONTRACT`. -/
def WritesAtOnce : Instr → Prop
  | .aadd _ | .amin _ | .amax _ | .aand _ | .aor _ | .axor _ | .axchg _ | .acas _ | .atas _ | .ainc _ | .adec _ | .afadd _
  | .afmin _ | .afmax _ | .hins _ | .contract _ => True
  | _ => False

/-- The state with the two computations of the instruction in focus alike (16 R415). -/
def matching (s : State) : State := { s with focus := s.focus.map fun x => { x with guardHit := .ok } }

/-- Instructions of every V-cell family whose result depends on their operands alone. -/
def LanewiseOp : Instr → Prop
  | .add _ | .sub _ | .mul _ | .min _ | .max _ | .and _ | .or _ | .xor _ | .fadd _ | .fsub _ | .fmul _ | .fma _ => True
  | _ => False

/-- What a task keeps until a firing of it retires. -/
structure SameTask (t t' : Task) : Prop where
  inst : t'.inst = t.inst
  block : t'.block = t.block
  entry : t'.entry = t.entry
  registers : t'.sregs = t.sregs
  mode : t'.mode = t.mode
  flags : t'.flags = t.flags
  accumulated : t'.acnt = t.acnt
  ready : t'.rdy = t.rdy
  relReady : t'.prl = t.prl
  queue : t'.relq = t.relq
  prio : t'.prio = t.prio

end Sys2Proof.Claims

/-- 02 R51, R52, 03 R72-R81: words written out in the spec decode to the instructions they stand for. -/
def Obligations.DecodeWords : Prop := ∀ x ∈ wordSamples, decode x.1 = .ok x.2

/-- 02 R51, 03 R81, R84: decoding and encoding agree, both ways, for every instruction word. -/
def Obligations.DecodeEncode : Prop :=
  (∀ i w, wellFormed i = true → encode i = some w → decode w = .ok i) ∧
  (∀ w i, decode w = .ok i → wellFormed i = true ∧ encode i = some w) ∧
  (∀ i f c, opcodeOf i = some (c, f) → ∃ w, encode i = some w ∧ opOf w = c ∧ fieldsOf w = f) ∧
  (∀ w, decode w = .bad .opcode ↔ ∀ i f, opcodeOf i ≠ some (opOf w, f))

/-- 02 R47, R55, 12 R309, 16 R431: a step takes the turn at the agenda's head: the instruction that the firing's word decodes to
is executed with the focus on it, a word that is no instruction traps `ILLOP`, an event of the part takes place, or time passes
(18 R451); where no turn is given, an open choice is made (LOG 1, DESIGN CHOICE). -/
def Obligations.StepTakesTheTurn : Prop :=
  (∀ s r n task ins g c t fr i, s.agenda = .fire n task ins g :: r → tget s.cells n = some c → tget s.tasks (n, task) = some t →
    t.firing = some fr → ins < blockLen c fr.block → decode (insWord c fr.block ins) = .ok i →
    step s = exec i { s with agenda := r, focus := some ⟨n, task, ins, g⟩ }) ∧
  (∀ s r n task ins g c t fr b, s.agenda = .fire n task ins g :: r → tget s.cells n = some c → tget s.tasks (n, task) = some t →
    t.firing = some fr → ins < blockLen c fr.block → decode (insWord c fr.block ins) = .bad b →
    step s = .next (takeTrap { s with agenda := r } n task illop ins)) ∧
  (∀ s r n task ins g, s.agenda = .fire n task ins g :: r →
    (∀ t fr, tget s.tasks (n, task) = some t → t.firing = some fr → ∀ c, tget s.cells n = some c → blockLen c fr.block ≤ ins) →
    step s = .next { s with agenda := r }) ∧
  (∀ s r i a, s.agenda = .event i a :: r → step s =
    if opcodeOf i = none then exec i { s with agenda := r, focus := none, args := a } else .next { s with agenda := r }) ∧
  (∀ s r n, s.agenda = .elapse n :: r → ∃ t, step s = .next t ∧ t.pkg.aocnt = s.pkg.aocnt + BitVec.ofNat 64 n ∧
    t.tasks = s.tasks ∧ t.cells = s.cells ∧ t.pages = s.pages ∧ t.contexts = s.contexts ∧ t.phys = s.phys ∧
    ∀ k, tget t.arcs k = (tget s.arcs k).map fun a => { a with
      occSum := a.occSum + n * heldCount a
      fullTime := a.fullTime + (if max a.slots 1 ≤ a.queue.length then n else 0) }) ∧
  (∀ s, s.agenda = [] → ∃ t, step s = step { s with agenda := [t], free := s.free + 1 })

/-- What reset leaves (01 R17, R18, 06 R166, 13 R368, 18 R445-R457): service level 1, the cap of 2,400 W, each die balanced, with its
rotation, and no contexts, tasks or records. The last clauses are the model's choice (LOG 4, LOG 5, LOG 6, DESIGN CHOICE): `PWRNOW` 0,
four dies fitted with 128 frames exposed, no image key, and what memory reads as. -/
def Obligations.ResetLeaves : Prop :=
  let s := State.reset
  s.memOk = true ∧ s.contexts = [] ∧ s.instances = [] ∧ s.pages = [] ∧ s.cells = [] ∧ s.tasks = [] ∧ s.arcs = [] ∧
  s.pkg.aocnt = 0 ∧ s.pkg.notify = 0 ∧ s.pkg.messages = 0 ∧ s.pkg.mailbox = ⟨0, 0, 0, 0⟩ ∧ s.pkg.bstage = 0 ∧
  s.pkg.bfail = false ∧ s.pkg.endwr = 0 ∧ s.pkg.endrd = 0 ∧ s.pkg.nextInst = 1 ∧ s.pkg.sched = false ∧
  (∀ d, (h : d < 4) → s.pkg.dies[d].mode = 1 ∧ s.pkg.dies[d].gated = false ∧ s.pkg.dies[d].busy = false) ∧
  (∀ d, (h : d < 4) → s.pkg.dies[d].orient.extractLsb' 0 8 = (#v[0x00, 0x45, 0xAA, 0xEF] : Vector (BitVec 8) 4)[d]) ∧
  s.pkg.level = 1 ∧ s.pkg.capw = 2400 ∧ s.pkg.capin = 2400 ∧
  s.collective.primary = none ∧ s.collective.lastFinished = none ∧
  (∀ p n k st, (plainCell p n k st).mat = MState.empty ∧ ∀ j, (h : j < 4) → (plainCell p n k st).slots[j].state = .idle) ∧
  -- the model's choice
  s.pkg.pwrnow = 0 ∧ s.pkg.keys = [] ∧ s.pkg.ownerKey = none ∧ s.pkg.rootHashes = [] ∧
  (∀ d, (h : d < 4) → s.pkg.dies[d].fitted = true ∧ s.pkg.dies[d].orient.extractLsb' 8 8 = 128) ∧
  ∀ sp a, byteOf s sp a = 0

/-- Every step keeps each memory of the machine in its canonical form: addresses strictly rising and no byte listed that an
unlisted address reads as (the model's own form, LOG 6, DESIGN CHOICE). -/
def Obligations.StepKeepsMemoryForm : Prop := ∀ s t, s.memOk = true → step s = .next t → t.memOk = true

/-- 02 R52, R54, R57, 16 R409, R414, R415: what an instruction does that is not to execute its operation as it stands: it waits while
a slot is unfilled, a lower memory-order index is outstanding or its page freezes, unless it is under way; traps `ILLOP` where two
values met in a slot; delivers nulls and does nothing else where it is nullified; stops the firing at a poisoned predicate; traps
on a predicate slot that holds no predicate. Under Guard mode a second mismatch leaves it unexecuted, its frame faulty, its page to
be frozen; a first one is logged and counted, and the repeated result, or trap, of the instructions named is that of an unguarded
firing. -/
def Obligations.NullsPoisonAndWaits : Prop :=
  ∀ i code f s u, opcodeOf i = some (code, f) → cur s = some u →
    ((mayGoOn s u = false ∨ u.ins ∈ u.fr.done ∨
        slotsUnfilled (readSlot u 0) (readSlot u 1) (readSlot u 3) (readSlot u 2) = true ∨
        (∃ r, rowOf code = some r ∧ r.mo = true ∧ moBlocked u f = true)) → exec i s = .next s) ∧
    -- two values in one slot
    (mayGoOn s u = true → u.ins ∉ u.fr.done → slotsUnfilled (readSlot u 0) (readSlot u 1) (readSlot u 3) (readSlot u 2) = false →
      (∀ r, rowOf code = some r → (r.mo && moBlocked u f) = false) →
      slotsClash (readSlot u 0) (readSlot u 1) (readSlot u 3) (readSlot u 2) = true → exec i s = .next (trapped s u illop)) ∧
    -- Guard mismatches
    (∀ scalar o, Executes code (nullRuleOf i) f (matching s) u scalar o → guarded u = true →
      (s.focus.map (·.guardHit) = some .twice →
        exec i s = .next (frameFaulty s u.c.page ⟨trapOf .guardFail, u.cell, u.task, u.ins⟩) ∧
        ∀ p fid, tget s.pages u.c.page = some p → p.frame = some fid → Happens i s fun z =>
          (frameAt z fid).faulty = true ∧ (frameAt z fid).exposed = false ∧ (∃ q ∈ z.freezes, u.c.page ∈ q.pages) ∧
          ∀ t, tget z.tasks u.key = some t → t.firing = some u.fr) ∧
      (s.focus.map (·.guardHit) = some .once → LanewiseOp i →
        (∃ r fl, exec i (matching s) = .next (executed (matching s) u f scalar r fl) ∧
          exec i s = .next (executed (guardTransient s u) u f scalar r fl)) ∨
        (∃ e, exec i (matching s) = .next (trapped (matching s) u e) ∧ exec i s = .next (trapped (guardTransient s u) u e)))) ∧
    (Awaits code f s u →
      (Nullified (nullRuleOf i) f u → exec i s = .next (nulled s u f)) ∧
      (slotsNull (nullRuleOf i) (readSlot u 0) (readSlot u 1) (readSlot u 3) = false →
        (∀ p, readPred f (readSlot u 2) = .is p → p.poison = true → exec i s = .next (controlUse s u)) ∧
        (∀ tag, readPred f (readSlot u 2) = .bad tag → exec i s = .next (trapped s u (fmtTrap 2 tag)))))

/-- 02 R55, 16 R429: until its firing retires an instruction changes no scalar register, mode, flag, accumulator count or release
queue of any task, no cell but for the turn of a merging port that `SPOP` takes from (12 R319), no bank's turn and no bank's holder,
but that `BKTAKE` takes the token that it names for its task (10 R288); and it changes no byte of memory unless it is an atomic,
`HINS` or `CONTRACT`. -/
def Obligations.FiringsChangeNothingBeforeRetirement : Prop :=
  ∀ i s t, opcodeOf i ≠ none → exec i s = .next t →
    ((∀ f, i ≠ .spop f) → t.cells = s.cells) ∧ t.agenda = s.agenda ∧
    (∀ k, (tget t.cells k).map ({ · with rr := [] }) = (tget s.cells k).map ({ · with rr := [] })) ∧
    (∀ b, tget t.banks b = tget s.banks b ∨ ∃ f u x, i = .bktake f ∧ cur s = some u ∧
      u.t.banks[(f.imm.extractLsb' 0 5).toNat]? = some b ∧ tget s.banks b = some x ∧
      tget t.banks b = some ⟨x.holders, x.turn, some u.key⟩) ∧
    (∀ k x, tget s.tasks k = some x → ∃ y, tget t.tasks k = some y ∧ SameTask x y) ∧
    (∀ k, tget s.tasks k = none → tget t.tasks k = none) ∧
    (¬WritesAtOnce i → ∀ sp a, byteOf t sp a = byteOf s sp a)

/-- 16 R429, R430, 12 R309: taking a trap. The firing ends without retiring, its reservations are released, its task is Trapped, of
its memory operations that have not performed only those of a lower memory-order index stay to be performed, and a record is queued
for the context's ring; no other task, no cell, no page and no memory changes. -/
def Obligations.TrapTaking : Prop :=
  ∀ s cell task info ins t, tget s.tasks (cell, task) = some t →
    let z := takeTrap s cell task info ins
    let e := illopAt info t.block ins
    tget z.tasks (cell, task) = some { t with
      state := .trapped, firing := none, pending := keptPending (tget s.cells cell) t ins, firings := t.firings + 1 } ∧
    (∀ d, d ∈ keptPending (tget s.cells cell) t ins ↔ d ∈ t.pending ∧ (d.firing ≠ t.firings ∨
      ∃ c fr n, tget s.cells cell = some c ∧ t.firing = some fr ∧ ins < 128 ∧ moOf (insWord c fr.block ins) = some n ∧ d.mo < n)) ∧
    (∀ k, k ≠ (cell, task) → tget z.tasks k = tget s.tasks k) ∧
    z.cells = s.cells ∧ z.pages = s.pages ∧ z.phys = s.phys ∧ z.instances = s.instances ∧ z.pkg = s.pkg ∧
    (∀ fr, t.firing = some fr →
      (∀ k, tget z.arcs k = (tget s.arcs k).map fun a => { a with reserved := a.reserved - fr.resArcs.count k }) ∧
      (∀ k, tget z.chains k = (tget s.chains k).map fun a => { a with reserved := a.reserved - fr.resCards.count k })) ∧
    (t.firing = none → z.arcs = s.arcs ∧ z.chains = s.chains) ∧
    ∀ x, tget s.contexts (asidOf s cell) = some x → ∃ y r, tget z.contexts (asidOf s cell) = some y ∧
      y.trapsDue = x.trapsDue ++ [r] ∧ r.time = s.pkg.aocnt ∧ r.info = e ∧ r.src = esrcOf s cell ∧ r.cell = cell ∧ r.task = task ∧
      r.ins = BitVec.ofNat 8 ins ∧ r.blk = BitVec.ofNat 16 (t.block % 2048) ∧ r.auto = false ∧ r.arcs = [] ∧
      (∀ q, (h : q < 16) →
        y.fifos[q].resPush = x.fifos[q].resPush - ((t.firing.map (·.resPush)).getD []).count q ∧
        y.fifos[q].resPop = x.fifos[q].resPop - ((t.firing.map (·.resPop)).getD []).count q ∧
        y.fifos[q].count = x.fifos[q].count)
/-! ### Integer instructions (05 R133-R144) -/

namespace Sys2Proof.Claims

/-- 05 R134: the exact value *v* of an instruction of two operands, and whether it is stored through `intStored`. -/
def intPair : Instr → Option (Bool × (Nat → Int → Int → Int))
  | .add _ => some (true, fun _ x y => x + y)
  | .sub _ => some (true, fun _ x y => x - y)
  | .mul _ => some (true, fun _ x y => x * y)
  | .mulh _ => some (false, fun w x y => (x * y).fdiv (2 ^ w))
  | .min _ => some (false, fun _ x y => min x y)
  | .max _ => some (false, fun _ x y => max x y)
  | .absd _ => some (false, fun _ x y => |x - y|)
  | .avg _ => some (false, fun _ x y => (x + y + 1).fdiv 2)
  | _ => none

/-- 05 R135: quotient and remainder. -/
def intDivide : Instr → Option (Fmt → Nat → Nat → Nat × LaneFlags)
  | .div _ => some fun m x y =>
    if intOf m y = 0 then (2 ^ fmtWidth m - 1, LaneFlags.dz) else (wrapInt m ((intOf m x).tdiv (intOf m y)), 0)
  | .rem _ => some fun m x y =>
    if intOf m y = 0 then (x, LaneFlags.dz)
    else (wrapInt m (intOf m x - intOf m y * (intOf m x).tdiv (intOf m y)), 0)
  | _ => none

/-- 05 R136: shifts and rotations, bit by bit; the count is the low log2 w bits of y. -/
def shifted : Instr → Option (Nat → Nat → Nat → Nat → Bool)
  | .shl _ => some fun _ x c k => decide (c ≤ k) && x.testBit (k - c)
  | .shr _ => some fun w x c k => decide (k + c < w) && x.testBit (k + c)
  | .sra _ => some fun w x c k => if k + c < w then x.testBit (k + c) else x.testBit (w - 1)
  | .rol _ => some fun w x c k => x.testBit ((k + w - c) % w)
  | .ror _ => some fun w x c k => x.testBit ((k + c) % w)
  | _ => none

/-- 05 R134, R136, R137: instructions of one operand. -/
def intOne (f : Fields) : Instr → Option (Fmt → Nat → Nat × LaneFlags)
  | .neg _ => some fun m x => intStored f m (-(intOf m x))
  | .abs _ => some fun m x => intStored f m |intOf m x|
  | .clz _ => some fun m x => (wrapInt m ((fmtWidth m - Nat.size x : Nat) : Int), 0)
  | .popc _ => some fun m x => (wrapInt m (((List.range (fmtWidth m)).filter fun k => x.testBit k).length : Int), 0)
  | .brev _ => some fun m x => (fromBits (fmtWidth m) fun k => x.testBit (fmtWidth m - 1 - k), 0)
  | .sext _ => some fun m x =>
    (fromBits (fmtWidth m) fun k => x.testBit (min k (f.imm.extractLsb' 0 6).toNat), 0)
  | .zext _ => some fun m x =>
    (fromBits (fmtWidth m) fun k => decide (k ≤ (f.imm.extractLsb' 0 6).toNat) && x.testBit k, 0)
  | .bfx _ => some fun m x =>
    let lo := (f.imm.extractLsb' 0 6).toNat
    let len := (f.imm.extractLsb' 6 7).toNat + 1
    (fromBits (fmtWidth m) fun k => if k < len then x.testBit (lo + k) else intSigned m && x.testBit (lo + len - 1), 0)
  | _ => none

/-- 05 R134: three operands. -/
def intThree (f : Fields) : Instr → Option (Fmt → Int → Int → Int → Nat × LaneFlags)
  | .imad _ => some fun m x y z => intStored f m (x * y + z)
  | .clamp _ => some fun m x y z => (wrapInt m (min (max x y) z), 0)
  | _ => none

/-- 05 R134: the logic rows, on all 32 bits of each lane. -/
def logicPair : Instr → Option (Lane → Lane → Lane)
  | .and _ => some (· &&& ·)
  | .or _ => some (· ||| ·)
  | .xor _ => some (· ^^^ ·)
  | .andn _ => some fun x y => x &&& ~~~y
  | _ => none

/-- 05 R138. -/
def comparison : Instr → Option (Int → Int → Prop)
  | .cmpeq _ => some (· = ·)
  | .cmpne _ => some (· ≠ ·)
  | .cmplt _ => some (· < ·)
  | .cmple _ => some (· ≤ ·)
  | .cmpgt _ => some (· > ·)
  | .cmpge _ => some (· ≥ ·)
  | _ => none

/-- A lane of a PRED result (05 R138, R144): bit 0, bit 1, and zeros above. -/
def predLane (b0 b1 : Prop) (x : Lane) : Prop :=
  (x.getLsbD 0 = true ↔ b0) ∧ (x.getLsbD 1 = true ↔ b1) ∧ ∀ k, 2 ≤ k → x.getLsbD k = false

/-- An instruction of two integer operands, B named or filled, whose elements `g` gives. -/
def IntBinary (i : Instr) (code : Nat) (f : Fields) (g : Fmt → Nat → Nat → Nat × LaneFlags) : Prop :=
  ∀ s u scalar o a b, Executes code .any f s u scalar o → o.a = some a → operandOr f o.b = some b →
    Checked i s u [wantA f a isIntFmt, sameTag (effFmt f a) 1 a o.b]
      (Gives i f s u scalar fun t fl =>
        let m := effFmt f a
        let v := pairValid m (a.valid &&& b.valid)
        Formed a (resTag f a) v (a.poison || b.poison) t ∧
          Elements m v t fl fun i j => g m (elemAt m a i j) (elemAt m b i j))

end Sys2Proof.Claims

/-- 05 R133, R134, R135: ADD, SUB, MUL, MULH, MIN, MAX, ABSD and AVG store the exact value of each element by `Wrap`, and the
sat class by `Clamp` under `.SAT`; DIV truncates toward zero, REM is x − y × DIV(x, y), and a zero divisor gives all ones, or x, with
`DZ`; a tag that a check refuses traps `FMTMISMATCH`. -/
def Obligations.IntegerPairsStoreExactValue : Prop :=
  (∀ i code f sat v, opcodeOf i = some (code, f) → wellFormed i = true → intPair i = some (sat, v) →
    IntBinary i code f fun m x y =>
      let e := v (fmtWidth m) (intOf m x) (intOf m y)
      if sat then intStored f m e else (wrapInt m e, 0)) ∧
  ∀ i code f g, opcodeOf i = some (code, f) → wellFormed i = true → intDivide i = some g → IntBinary i code f g

/-- 05 R136, R137: SHL, SHRL, SHRA, ROTL and ROTR move bits by the amount modulo the width; BFI puts the low `len` bits of y into
x at `lo`. -/
def Obligations.ShiftsAndBitFieldInsert : Prop :=
  (∀ i code f p, opcodeOf i = some (code, f) → wellFormed i = true → shifted i = some p →
    IntBinary i code f fun m x y =>
      (fromBits (fmtWidth m) (p (fmtWidth m) x (y % 2 ^ Nat.log2 (fmtWidth m))), 0)) ∧
  (∀ f s u scalar o a b, wellFormed (.bfi f) = true → Executes 0x042 .any f s u scalar o → o.a = some a → o.b = some b →
    Checked (.bfi f) s u [wantA f a isIntFmt, wantSame (effFmt f a) 1 a b]
      (Gives (.bfi f) f s u scalar fun t fl =>
        let m := effFmt f a
        let v := pairValid m (a.valid &&& b.valid)
        let lo := (f.imm.extractLsb' 0 6).toNat
        let len := (f.imm.extractLsb' 6 7).toNat + 1
        Formed a (resTag f a) v (a.poison || b.poison) t ∧
          Elements m v t fl fun i j =>
            (fromBits (fmtWidth m) fun k =>
              if lo ≤ k ∧ k < lo + len then (elemAt m b i j).testBit (k - lo) else (elemAt m a i j).testBit k, 0)))

/-- 05 R134, R136, R137: NEG, ABS, CLZ, POPC, BREV, SEXT, ZEXT and BFX; IMAD and CLAMP. -/
def Obligations.IntegerOneAndThreeOperands : Prop :=
  (∀ i code f g, opcodeOf i = some (code, f) → wellFormed i = true → intOne f i = some g →
    ∀ s u scalar o a, Executes code .any f s u scalar o → o.a = some a →
      Checked i s u [wantA f a isIntFmt]
        (Gives i f s u scalar fun t fl =>
          let m := effFmt f a
          let v := pairValid m a.valid
          Formed a (resTag f a) v a.poison t ∧ Elements m v t fl fun i j => g m (elemAt m a i j))) ∧
  (∀ i code f g, opcodeOf i = some (code, f) → wellFormed i = true → intThree f i = some g →
    ∀ s u scalar o a b c, Executes code .any f s u scalar o → o.a = some a → o.b = some b → operandOr f o.c = some c →
      Checked i s u [wantA f a isIntFmt, wantSame (effFmt f a) 1 a b, sameTag (effFmt f a) 3 a o.c]
        (Gives i f s u scalar fun t fl =>
          let m := effFmt f a
          let v := pairValid m (a.valid &&& b.valid &&& c.valid)
          Formed a (resTag f a) v (a.poison || b.poison || c.poison) t ∧
            Elements m v t fl fun i j =>
              g m (intOf m (elemAt m a i j)) (intOf m (elemAt m b i j)) (intOf m (elemAt m c i j))))

/-- 05 R134: AND, OR, XOR, ANDN and NOT act on all 32 bits of each lane, whatever the tag, but for the spare bits of a
six-bit format, which every producer writes zero (04 R96). -/
def Obligations.LogicOnWholeLanes : Prop :=
  (∀ i code f g, opcodeOf i = some (code, f) → wellFormed i = true → logicPair i = some g →
    ∀ s u scalar o a b, Executes code .any f s u scalar o → o.a = some a → operandOr f o.b = some b →
      Checked i s u [wantA f a someFormat, sameTag (effFmt f a) 1 a o.b]
        (Gives i f s u scalar fun t fl =>
          Formed a (resTag f a) (pairValid (resTag f a) (a.valid &&& b.valid)) (a.poison || b.poison) t ∧ fl = noFlags ∧
            Lanes t fun k => g (laneAt a k) (laneAt b k) &&& spareMask (resTag f a))) ∧
  ∀ f s u scalar o a, wellFormed (.not f) = true → Executes 0x02D .any f s u scalar o → o.a = some a →
    Checked (.not f) s u [wantA f a someFormat]
      (Gives (.not f) f s u scalar fun t fl =>
        Formed a (resTag f a) (pairValid (resTag f a) a.valid) a.poison t ∧ fl = noFlags ∧
          Lanes t fun k => ~~~laneAt a k &&& spareMask (resTag f a))

/-- 05 R138: the integer compares give a PRED token; bit 0 of a valid lane where the comparison holds for every
sub-element of the lane, bit 1 where it holds for every sub-element of every valid lane. -/
def Obligations.IntegerComparesGivePredicates : Prop :=
  ∀ i code f c, opcodeOf i = some (code, f) → wellFormed i = true → comparison i = some c →
    ∀ s u scalar o a b, Executes code .any f s u scalar o → o.a = some a → operandOr f o.b = some b →
      Checked i s u [wantA f a isIntFmt, sameTag (effFmt f a) 1 a o.b]
        (Gives i f s u scalar fun t fl =>
          let m := effFmt f a
          let v := pairValid m (a.valid &&& b.valid)
          let lane (k : Nat) : Prop := ∀ j, j < perLane m → c (intOf m (elemAt m a k j)) (intOf m (elemAt m b k j))
          Formed a Fmt.pred v (a.poison || b.poison) t ∧ fl = noFlags ∧
            ∀ k, k < 16 → v.getLsbD k = true →
              predLane (lane k) (∀ n, n < 16 → v.getLsbD n = true → lane n) (laneAt t k))

/-- 05 R139: SEL takes each lane from A where bit 0 of C's lane is 1 and from B elsewhere; the lane is valid where C's
and the chosen operand's are, by the pair rule of 02 R36. For PTR, a pair whose two lanes would come from two operands is
invalid: that is the model's choice (LOG 12, DEDUCED). -/
def Obligations.SelectByPredicateLane : Prop :=
  ∀ f s u scalar o a b c, wellFormed (.sel f) = true → Executes 0x03D .any f s u scalar o →
    o.a = some a → o.b = some b → o.c = some c →
    Checked (.sel f) s u [unless_ (a.kind == 0 && if f.ft == Fmt.fromOperand then someFormat a.fmt else a.fmt == f.ft) 0 a,
        unless_ (b.kind == 0 && b.fmt == a.fmt) 1 b, wantTag 3 c Fmt.pred]
      (Gives (.sel f) f s u scalar fun t fl =>
        let pick (k : Nat) : Token := if (laneAt c k).getLsbD 0 then a else b
        let split (k : Nat) : Bool :=
          a.fmt == Fmt.ptr && (laneAt c (2 * (k / 2))).getLsbD 0 != (laneAt c (2 * (k / 2) + 1)).getLsbD 0
        Formed a a.fmt
          (pairValid a.fmt (BitVec.ofFnLE fun k : Fin 16 =>
            validAt c k.val && !split k.val && validAt (pick k.val) k.val))
          (a.poison || b.poison || c.poison) t ∧ fl = noFlags ∧
        (Lanes t fun k => laneAt (pick k) k &&& spareMask a.fmt) ∧
        ∀ j, j < 8 → a.fmt = Fmt.ptr → t.valid.getLsbD (2 * j) = true → boundAt t j = boundAt (pick (2 * j)) j)

namespace Sys2Proof.Claims

/-- 15 R379: base and top of a pointer with address `a` and bounds word `b`. -/
def pointerBase (b : BitVec 64) (a : Nat) : Int :=
  let g := 2 ^ (b.extractLsb' 42 6).toNat
  ((a / g * g : Nat) : Int) - (b.extractLsb' 21 21).toNat * g
def pointerTop (b : BitVec 64) (a : Nat) : Int :=
  let g := 2 ^ (b.extractLsb' 42 6).toNat
  ((a / g * g : Nat) : Int) + (b.extractLsb' 0 21).toNat * g

/-- A result of pointers: pair `j` is valid and holds `g j` where that is some, else invalid and zero (15 R380, R397). -/
def Pointers (a : Token) (po : Bool) (g : Nat → Option (Nat × BitVec 64)) (t : Token) : Prop :=
  FormedAs a Fmt.ptr t.valid po 0x7F t ∧ ∀ j, j < 8 →
    match g j with
    | some (x, w) => t.valid.getLsbD (2 * j) = true ∧ t.valid.getLsbD (2 * j + 1) = true ∧ pairAt t j = x ∧ boundAt t j = w
    | none => t.valid.getLsbD (2 * j) = false ∧ t.valid.getLsbD (2 * j + 1) = false ∧ boundAt t j = 0

/-- The lowest valid pair of `a` with a property traps (15 R397). -/
def lowestPair (c : TrapCode) (a : Token) (bad : Nat → Bool) : Option TrapInfo :=
  ((List.range 8).find? fun j => a.valid.getLsbD (2 * j) && bad j).map fun j => ⟨c, 0, j, 0, 0⟩

def isPtr (a : Token) : Option TrapInfo := unless_ (a.kind = 0 ∧ a.fmt = Fmt.ptr) 0 a

/-- 15 R399: the pointer with bounds word `w` and address `a` moved by `n`: its address, and its bounds word about that; none where
the granule it lands in lies outside its bounds. -/
def movedPointer (w : BitVec 64) (a : Nat) (n : Int) : Option (Nat × BitVec 64) :=
  let g := 2 ^ (w.extractLsb' 42 6).toNat
  let x := (((a : Int) + n) % 2 ^ 57).toNat
  let ga : Int := (x / g * g : Nat)
  if pointerBase w a ≤ ga ∧ ga ≤ pointerTop w a then
    some (x, w.extractLsb' 60 4 ++ 0#4 ++ w.extractLsb' 42 14 ++
      BitVec.ofNat 21 ((ga - pointerBase w a).toNat / g) ++ BitVec.ofNat 21 ((pointerTop w a - ga).toNat / g))
  else none

end Sys2Proof.Claims

/-- 05 R140, R141: DOT4, DOT2, and LEA on INT64 addresses and, as PADD does, on pointers. -/
def Obligations.DotProductsAndAddresses : Prop :=
  (∀ i code f wide, (i = .dot4 f ∧ code = 0x05C ∧ wide = false ∨ i = .dot2 f ∧ code = 0x05D ∧ wide = true) →
    wellFormed i = true → ∀ s u scalar o a b c, Executes code .any f s u scalar o →
      o.a = some a → o.b = some b → operandOr f o.c = some c →
      Checked i s u [unless_ (dotFmt wide a).isSome 0 a, unless_ (dotFmt wide b).isSome 1 b, wantTag 3 c Fmt.int32]
        (Gives i f s u scalar fun t fl =>
          let v := a.valid &&& b.valid &&& c.valid
          let fa := (dotFmt wide a).getD Fmt.int8
          let fb := (dotFmt wide b).getD Fmt.int8
          Formed a Fmt.int32 v (a.poison || b.poison || c.poison) t ∧
            Elements Fmt.int32 v t fl fun k _ => intStored f Fmt.int32
              (intOf Fmt.int32 (laneAt c k).toNat +
                ((List.range (if wide then 2 else 4)).map fun j => intOf fa (elemAt fa a k j) * intOf fb (elemAt fb b k j)).sum))) ∧
  ∀ f s u scalar o a b, wellFormed (.lea f) = true → Executes 0x043 .any f s u scalar o → o.a = some a → o.b = some b →
    let off (j : Nat) : Int := signedOf 64 (pairAt b j) * 4 ^ f.mod.toNat
    (f.ft = Fmt.int64 → Checked (.lea f) s u [wantTag 0 a Fmt.int64, wantTag 1 b Fmt.int64]
      (Gives (.lea f) f s u scalar fun t fl =>
        let v := pairValid Fmt.int64 (a.valid &&& b.valid)
        Formed a Fmt.int64 v (a.poison || b.poison) t ∧ fl = noFlags ∧
          ∀ j, j < 8 → v.getLsbD (2 * j) = true → pairAt t j = wrapInt Fmt.int64 (signedOf 64 (pairAt a j) + off j))) ∧
    (f.ft = Fmt.ptr → Checked (.lea f) s u [isPtr a, wantTag 1 b Fmt.int64,
        lowestPair .perm a fun j => (boundAt a j).extractLsb' 48 8 != 0]
      (Gives (.lea f) f s u scalar fun t fl => fl = noFlags ∧
        Pointers a (a.poison || b.poison) (fun j =>
          if a.valid.getLsbD (2 * j) ∧ b.valid.getLsbD (2 * j) ∧ b.valid.getLsbD (2 * j + 1) then
            movedPointer (boundAt a j) (pairAt a j) (off j) else none) t))

/-! ### Lane, reduction and predicate instructions (05 R142-R144) -/

namespace Sys2Proof.Claims

/-- Bit 0 of a predicate operand's valid lane. -/
def bit0 (t : Token) (k : Nat) : Bool := validAt t k && (laneAt t k).getLsbD 0

/-- 05 R142: the lane of A that each lane of the result copies; none where the result's lane is invalid. -/
def laneSource (f : Fields) : Instr → Option (Token → Token → Nat → Option Nat)
  | .shuf _ => some fun _ b k => if validAt b k then some ((laneAt b k).extractLsb' 0 4).toNat else none
  | .compact _ => some fun a b k => ((List.range 16).filter fun n => validAt a n && bit0 b n)[k]?
  | .expand _ => some fun _ b k => if bit0 b k then some ((List.range k).filter (bit0 b)).length else none
  | .lrot _ => some fun _ _ k => some (((k : Int) - (f.imm.extractLsb' 0 4).toNat) % 16).toNat
  | .bcast _ => some fun _ _ _ => some (f.imm.extractLsb' 0 4).toNat
  | _ => none

/-- The tag check of operand B of a lane instruction: none where it has no B. -/
def laneCheck (b : Option Token) : Instr → Option TrapInfo
  | .shuf _ => b.bind fun t => wantIn 1 t fun g => g == Fmt.int32 || g == Fmt.uint32
  | .compact _ => b.bind fun t => wantTag 1 t Fmt.pred
  | .expand _ => b.bind fun t => wantTag 1 t Fmt.pred
  | _ => none

/-- The elements of the valid lanes in the order of 04 R95, each with its place in that order. -/
def elementsOf (m : Fmt) (t : Token) (v : BitVec 16) : List (Nat × Nat) :=
  ((List.range (if isPair m then 8 else 16)).filter fun k => v.getLsbD (if isPair m then 2 * k else k)).flatMap fun k =>
    (List.range (perLane m)).map fun j => (k * perLane m + j, elemAt m t (if isPair m then 2 * k else k) j)

/-- 05 R143: what a reduction combines with. -/
def reduction : Instr → Option (Fmt → List Nat → Nat)
  | .redadd _ => some fun m l => wrapInt m (l.map (intOf m)).sum
  | .redmin _ => some fun m l => wrapInt m (((l.map (intOf m)).min?).getD 0)
  | .redmax _ => some fun m l => wrapInt m (((l.map (intOf m)).max?).getD 0)
  | .redand _ => some fun m l => l.foldl (· &&& ·) (2 ^ fmtWidth m - 1)
  | .redor _ => some fun _ l => l.foldl (· ||| ·) 0
  | .redxor _ => some fun _ l => l.foldl (· ^^^ ·) 0
  | _ => none

/-- 05 R144: the logic of two predicates. -/
def predPair : Instr → Option (Bool → Bool → Bool)
  | .pand _ => some (· && ·)
  | .por _ => some (· || ·)
  | .pxor _ => some (fun x y => x != y)
  | _ => none

end Sys2Proof.Claims

/-- 05 R142: SHUF, COMPACT, EXPAND, LROT and BCAST copy whole lanes, valid where the lane copied is; LANEID gives each
lane its number, and VMASK clears the lanes whose predicate bit is 0. -/
def Obligations.LanesMoveWhole : Prop :=
  (∀ i code f src, opcodeOf i = some (code, f) → wellFormed i = true → laneSource f i = some src →
    ∀ s u scalar o a, Executes code .any f s u scalar o → o.a = some a →
      ((∃ g, i = .lrot g ∨ i = .bcast g) ∨ ∃ b, o.b = some b) →
      Checked i s u [wantA f a someFormat, laneCheck o.b i]
        (Gives i f s u scalar fun t fl =>
          let b := o.b.getD a
          let po := match i with | .lrot _ => a.poison | .bcast _ => a.poison | _ => a.poison || b.poison
          Formed a (resTag f a) (pairValid (resTag f a) (BitVec.ofFnLE fun k : Fin 16 => (src a b k.val).elim false (validAt a ·))) po t ∧
            fl = noFlags ∧ Lanes t fun k => (src a b k).elim 0 fun n => laneAt a n &&& spareMask (resTag f a))) ∧
  (∀ f s u scalar o, wellFormed (.laneid f) = true → Executes 0x044 .any f s u scalar o →
    Gives (.laneid f) f s u scalar fun t fl =>
      Formed blankToken Fmt.int32 0xFFFF false t ∧ fl = noFlags ∧ Lanes t fun k => BitVec.ofNat 32 k) ∧
  ∀ f s u scalar o a b, wellFormed (.vmask f) = true → Executes 0x045 .any f s u scalar o → o.a = some a → o.b = some b →
    Checked (.vmask f) s u [unless_ (a.kind == 0 && if f.ft == Fmt.fromOperand then someFormat a.fmt else a.fmt == f.ft) 0 a, wantTag 1 b Fmt.pred]
      (Gives (.vmask f) f s u scalar fun t fl =>
        Formed a a.fmt (pairValid a.fmt (a.valid &&& BitVec.ofFnLE fun k : Fin 16 => bit0 b k.val)) (a.poison || b.poison) t ∧
          fl = noFlags ∧ (Lanes t fun k => laneAt a k &&& spareMask a.fmt) ∧
          ∀ j, j < 8 → a.fmt = Fmt.ptr → t.valid.getLsbD (2 * j) = true → boundAt t j = boundAt a j)

/-- 05 R142: PFXSUM's element n is the wrapped sum of A's elements up to n, itself left out under `.EXC`, invalid
elements adding 0; PFXPOP counts the set bits of A's lanes in the same way, whatever their tag. -/
def Obligations.PrefixSums : Prop :=
  (∀ f s u scalar o a, wellFormed (.pfxsum f) = true → Executes 0x046 .any f s u scalar o → o.a = some a →
    Checked (.pfxsum f) s u [wantA f a isIntFmt]
      (Gives (.pfxsum f) f s u scalar fun t fl =>
        let m := effFmt f a
        let v := pairValid m a.valid
        Formed a (resTag f a) v a.poison t ∧ fl = noFlags ∧
          ∀ x ∈ elementsOf m t v, x.2 =
            wrapInt m (((elementsOf m a v).filter fun y => decide (y.1 < x.1) || (f.mod == 0 && y.1 == x.1)).map fun y =>
              intOf m y.2).sum)) ∧
  ∀ f s u scalar o a, wellFormed (.pfxpop f) = true → Executes 0x047 .any f s u scalar o → o.a = some a →
    Checked (.pfxpop f) s u [unless_ (a.kind == 0) 0 a]
      (Gives (.pfxpop f) f s u scalar fun t fl =>
        Formed a f.ft 0xFFFF a.poison t ∧ fl = noFlags ∧
          ∀ k, k < 16 → (laneAt t k).toNat =
            ((((List.range 16).filter fun n => validAt a n && (decide (n < k) || (f.mod == 0 && n == k)))).map fun n =>
              ((List.range 32).filter fun q => (laneAt a n).getLsbD q).length).sum)

/-- 05 R143: a reduction puts the combination of every element of every valid lane into element 0 of lane 0, every
other element zero; VALID is 0x0001, 0x0003 for the two-lane format, or 0 where A has no valid lane. -/
def Obligations.ReductionsCombineValidElements : Prop :=
  ∀ i code f g, opcodeOf i = some (code, f) → wellFormed i = true → reduction i = some g →
    ∀ s u scalar o a, Executes code .any f s u scalar o → o.a = some a →
      Checked i s u [wantA f a isIntFmt]
        (Gives i f s u scalar fun t fl =>
          let m := effFmt f a
          let l := (elementsOf m a (pairValid m a.valid)).map (·.2)
          Formed a (resTag f a) (if l = [] then 0 else if isPair m then 3 else 1) a.poison t ∧ fl = noFlags ∧
            (l ≠ [] → ∀ k j, k < 16 → j < perLane m → elemAt m t k j = if k < (if isPair m then 2 else 1) ∧ j = 0 then g m l else 0))

/-- 05 R144: PAND, POR, PXOR and PNOT act on bits 0 and 1 of each lane; PANY and PALL keep bit 0 and set bit 1 of every
valid lane to the OR, or the AND, of bit 0 over the valid lanes; bits [31:2] are zero. -/
def Obligations.PredicateLogic : Prop :=
  (∀ i code f g, opcodeOf i = some (code, f) → wellFormed i = true → predPair i = some g →
    ∀ s u scalar o a b, Executes code .any f s u scalar o → o.a = some a → o.b = some b →
      Checked i s u [wantTag 0 a Fmt.pred, wantTag 1 b Fmt.pred]
        (Gives i f s u scalar fun t fl =>
          Formed a Fmt.pred (a.valid &&& b.valid) (a.poison || b.poison) t ∧ fl = noFlags ∧
            ∀ k, k < 16 → t.valid.getLsbD k = true → ∀ n, n < 32 →
              (laneAt t k).getLsbD n = (decide (n < 2) && g ((laneAt a k).getLsbD n) ((laneAt b k).getLsbD n)))) ∧
  (∀ f s u scalar o a, wellFormed (.pnot f) = true → Executes 0x056 .any f s u scalar o → o.a = some a →
    Checked (.pnot f) s u [wantTag 0 a Fmt.pred]
      (Gives (.pnot f) f s u scalar fun t fl =>
        Formed a Fmt.pred a.valid a.poison t ∧ fl = noFlags ∧
          ∀ k, k < 16 → t.valid.getLsbD k = true → ∀ n, n < 32 →
            (laneAt t k).getLsbD n = (decide (n < 2) && !(laneAt a k).getLsbD n))) ∧
  ∀ i f code, (i = .pany f ∧ code = 0x057 ∨ i = .pall f ∧ code = 0x058) → wellFormed i = true →
    ∀ s u scalar o a, Executes code .any f s u scalar o → o.a = some a →
      Checked i s u [wantTag 0 a Fmt.pred]
        (Gives i f s u scalar fun t fl =>
          let some_ : Prop := ∃ k, k < 16 ∧ validAt a k = true ∧ (laneAt a k).getLsbD 0 = true
          let every : Prop := ∀ k, k < 16 → validAt a k = true → (laneAt a k).getLsbD 0 = true
          Formed a Fmt.pred a.valid a.poison t ∧ fl = noFlags ∧
            ∀ k, k < 16 → validAt a k = true →
              predLane ((laneAt a k).getLsbD 0 = true) (if code = 0x057 then some_ else every) (laneAt t k))

/-! ### Floating-point instructions (04 R106-R112, 05 R145-R158) -/

namespace Sys2Proof.Claims

/-- How an instruction of the round and round-sat classes rounds (03 R69, 04 R107): the mode that `MOD` names, or the
task's. -/
def roundMode (f : Fields) (u : Cur) : Rm :=
  if f.mod = 1 ∨ f.mod = 6 then .rne else if f.mod = 2 then .rtz else if f.mod = 3 then .rup
  else if f.mod = 4 then .rdn else rmOf (u.t.mode.extractLsb' 0 2).toNat

/-- The rounding context of an element format: under `MOD`, and under round to nearest even. -/
def byMod (f : Fields) (u : Cur) (g : FpFmt) : FpCtx := ⟨g, roundMode f u, f.mod = 5 ∨ f.mod = 6, u.t.mode.getLsbD 2⟩
def nearest (u : Cur) (g : FpFmt) : FpCtx := ⟨g, .rne, false, u.t.mode.getLsbD 2⟩

/-- The element encoding that a floating-point instruction computes in (04 R106). -/
def encodingOf (f : Fields) (a : Token) : FpFmt := (fpFmt (floatFmt f a)).getD .fp32

/-- The value that an element stands for: a subnormal reads as a zero of its sign under `FTZ` (04 R111). -/
def valueOf (c : FpCtx) (x : Nat) : Machine.Num := flushNum c.ftz c.g (decodeNum c.g x)

/-- 05 R146, R147: instructions of two operands, by the context they round in. The exact value is formed first and stored
once. -/
def floatPair (f : Fields) (u : Cur) (g : FpFmt) : Instr → Option (Nat → Nat → Nat × LaneFlags)
  | .fadd _ => let c := byMod f u g; some fun x y => store c (addNum c.mode (valueOf c x) (valueOf c y))
  | .fsub _ => let c := byMod f u g; some fun x y => store c (addNum c.mode (valueOf c x) (valueOf c y).neg)
  | .fmul _ => let c := byMod f u g; some fun x y => store c (mulNum (valueOf c x) (valueOf c y))
  | .fdiv _ => let c := byMod f u g; some fun x y => fpDiv c x y
  | .fmin _ => some fun x y => fpMin false (nearest u g) x y
  | .fmax _ => some fun x y => fpMin true (nearest u g) x y
  | .fcopysgn _ => some fun x y =>
    if (decodeNum g y).isNan then (g.nan, 0) else fpSign (nearest u g) x fun _ => y.testBit (g.width - 1)
  | _ => none

/-- 05 R146: *a* × *b* + *c* and its signs, rounded once. -/
def floatThree (f : Fields) (u : Cur) (g : FpFmt) : Instr → Option (Nat → Nat → Nat → Nat × LaneFlags)
  | .fma _ => let c := byMod f u g
    some fun x y z => store c (addNum c.mode (mulNum (valueOf c x) (valueOf c y)) (valueOf c z))
  | .fms _ => let c := byMod f u g
    some fun x y z => store c (addNum c.mode (mulNum (valueOf c x) (valueOf c y)) (valueOf c z).neg)
  | .fnma _ => let c := byMod f u g
    some fun x y z => store c (addNum c.mode (mulNum (valueOf c x) (valueOf c y)).neg (valueOf c z))
  | .fnms _ => let c := byMod f u g
    some fun x y z => store c (addNum c.mode (mulNum (valueOf c x) (valueOf c y)).neg (valueOf c z).neg)
  | _ => none

/-- 05 R146, R147, R149: one operand. -/
def floatOne (f : Fields) (u : Cur) (g : FpFmt) : Instr → Option (Nat → Nat × LaneFlags)
  | .fsqrt _ => some (fpSqrt (byMod f u g))
  | .frcp _ => some (fpRcp (byMod f u g))
  | .frsq _ => some (fpRsq (byMod f u g))
  | .frnd _ => some (fpRnd (byMod f u g))
  | .fabs _ => some fun x => fpSign (nearest u g) x fun _ => false
  | .fneg _ => some fun x => fpSign (nearest u g) x (!·)
  | .fexp2 _ => some (fpExp2 (nearest u g))
  | .flog2 _ => some (fpLog2 (nearest u g))
  | .fsin _ => some (fpTrig false (nearest u g))
  | .fcos _ => some (fpTrig true (nearest u g))
  | .ftanh _ => some (fpTanh (nearest u g))
  | .fsigm _ => some (fpSigm (nearest u g))
  | _ => none

/-- The formats under `FT` 0x1F (04 R106). -/
def floatClass (i : Instr) : Fmt → Bool :=
  match i with
  | .fadd _ | .fsub _ | .fmul _ | .fma _ | .fms _ | .fnma _ | .fnms _ | .fmin _ | .fmax _ | .fabs _ | .fneg _ | .fcopysgn _
  | .fcmpeq _ | .fcmpne _ | .fcmplt _ | .fcmple _ | .fcmpun _ | .fclass _ => isFloat5
  | _ => isFloat3

/-- 05 R148: what a compare asks of two values, whether it is one of `LT` and `LE`. -/
def floatCompare : Instr → Option (Bool × (Machine.Num → Machine.Num → Prop))
  | .fcmpeq _ => some (false, fun x y => x.isNan = false ∧ y.isNan = false ∧ ltNum x y = false ∧ ltNum y x = false)
  | .fcmpne _ => some (false, fun x y => ¬(x.isNan = false ∧ y.isNan = false ∧ ltNum x y = false ∧ ltNum y x = false))
  | .fcmplt _ => some (true, fun x y => ltNum x y = true)
  | .fcmple _ => some (true, fun x y => x.isNan = false ∧ y.isNan = false ∧ ltNum y x = false)
  | .fcmpun _ => some (false, fun x y => x.isNan = true ∨ y.isNan = true)
  | _ => none

/-- The real number that a finite value is. -/
def real : Machine.Num → ℚ
  | .fin s m e => (if s then -1 else 1) * (m : ℚ) * 2 ^ e
  | _ => 0

/-- 04 R108: the value *v* to which an exact *x* rounds in a format. -/
def roundedTo (g : FpFmt) (mode : Rm) (x : ℚ) : ℚ :=
  let e := max (Int.log 2 |x|) (1 - g.bias)
  let q : ℚ := 2 ^ (e - g.mbits)
  let k := ⌊x / q⌋
  let lo := k * q
  if x = lo then x
  else
    match mode with
    | .rne => if x - lo < q / 2 then lo else if q / 2 < x - lo then lo + q else if k % 2 = 0 then lo else lo + q
    | .rtz => if 0 < x then lo else lo + q
    | .rup => lo + q
    | .rdn => lo

/-- The element formats of 04 R90. -/
def isFormat (g : FpFmt) : Prop := ∃ m, fpFmt m = some g

/-- A fixed binary tree over leaves that may be absent: `n` levels, each combining neighbours (05 R150, R158). -/
def treeRoot {α : Type} (comb : α → α → α) : Nat → (Nat → Option α) → Option α
  | 0, l => l 0
  | n + 1, l => treeRoot comb n fun k =>
    match l (2 * k), l (2 * k + 1) with
    | some x, some y => some (comb x y)
    | some x, none => some x
    | none, y => y

/-- `RoundTo` of a non-zero exact *v* with its flags (04 R108, R110), a result below the smallest normal flushed under `FTZ`
(R111). -/
def RoundsTo (c : FpCtx) (v : ℚ) (r : Nat × LaneFlags) : Prop :=
  let w := roundedTo c.g c.mode v
  let neg := decide (v < 0)
  let beyond := overflowBits c.g c.mode c.sat neg
  if real (decodeNum c.g c.g.maxFin) < |w| then r = (beyond.1, LaneFlags.ovf ||| LaneFlags.inx ||| beyond.2)
  else if c.ftz = true ∧ 16 ≤ c.g.width ∧ w ≠ 0 ∧ |w| < 2 ^ (1 - c.g.bias) then
    r = (signBit c.g neg, LaneFlags.unf ||| LaneFlags.inx)
  else r.1 < 2 ^ c.g.width ∧ real (decodeNum c.g r.1) = w ∧ (w = 0 → r.1 = signBit c.g neg) ∧
    r.2 = (if w ≠ v then LaneFlags.inx else 0) ||| (if w ≠ v ∧ |w| < 2 ^ (1 - c.g.bias) then LaneFlags.unf else 0)

/-- ∞ of a sign, in a format that has it; and the flag of a NaN that raises `INV` (04 R92). -/
def infBits (g : FpFmt) (neg : Bool) : Nat := signBit g neg + g.maxFin + 1
def nanFlag (inv : Bool) : LaneFlags := if inv then LaneFlags.inv else 0

/-- 05 R145, R146: *a* / *b*, correctly rounded. -/
def QuotientOf (c : FpCtx) (a b : Machine.Num) (r : Nat × LaneFlags) : Prop :=
  match a, b with
  | .nan i, .nan j => r = (c.g.nan, nanFlag (i || j))
  | .nan i, _ => r = (c.g.nan, nanFlag i)
  | _, .nan j => r = (c.g.nan, nanFlag j)
  | .inf _, .inf _ => r = (c.g.nan, LaneFlags.inv)
  | .inf s, .fin t _ _ => r = (infBits c.g (s != t), 0)
  | .fin s _ _, .inf t => r = (signBit c.g (s != t), 0)
  | .fin s m _, .fin t n _ =>
    if m = 0 ∧ n = 0 then r = (c.g.nan, LaneFlags.inv)
    else if n = 0 then r = (infBits c.g (s != t), LaneFlags.dz)
    else if m = 0 then r = (signBit c.g (s != t), 0)
    else RoundsTo c (real a / real b) r

/-- The format has what the values stand for: no infinity where it has none. -/
def Holds (g : FpFmt) (l : List Machine.Num) : Prop :=
  isFormat g ∧ g.style ≠ .finiteOnly ∧ ((∃ a ∈ l, a.isInf = true) → g.style = .ieee)

/-- 05 R145: *a* + *b*, rounded once. -/
def SumOf (c : FpCtx) (a b : Machine.Num) (r : Nat × LaneFlags) : Prop :=
  match a, b with
  | .nan i, .nan j => r = (c.g.nan, nanFlag (i || j))
  | .nan i, _ => r = (c.g.nan, nanFlag i)
  | _, .nan j => r = (c.g.nan, nanFlag j)
  | .inf s, .inf t => r = if s = t then (infBits c.g s, 0) else (c.g.nan, LaneFlags.inv)
  | .inf s, .fin .. => r = (infBits c.g s, 0)
  | .fin .., .inf t => r = (infBits c.g t, 0)
  | .fin s m e, .fin t n d =>
    let v := real (.fin s m e) + real (.fin t n d)
    if v = 0 then r = (signBit c.g (if m = 0 ∧ n = 0 ∧ s = t then s else decide (c.mode = .rdn)), 0) else RoundsTo c v r

/-- R145: *a* × *b*, rounded once. -/
def ProductOf (c : FpCtx) (a b : Machine.Num) (r : Nat × LaneFlags) : Prop :=
  match a, b with
  | .nan i, .nan j => r = (c.g.nan, nanFlag (i || j))
  | .nan i, _ => r = (c.g.nan, nanFlag i)
  | _, .nan j => r = (c.g.nan, nanFlag j)
  | .inf s, .inf t => r = (infBits c.g (s != t), 0)
  | .inf s, .fin t n _ => r = if n = 0 then (c.g.nan, LaneFlags.inv) else (infBits c.g (s != t), 0)
  | .fin s m _, .inf t => r = if m = 0 then (c.g.nan, LaneFlags.inv) else (infBits c.g (s != t), 0)
  | .fin s m e, .fin t n d =>
    let v := real (.fin s m e) * real (.fin t n d)
    if v = 0 then r = (signBit c.g (s != t), 0) else RoundsTo c v r

/-- R145: *a* × *b* + *d*, rounded once: 0 × ∞ is invalid whatever the addend. -/
def FusedOf (c : FpCtx) (a b d : Machine.Num) (r : Nat × LaneFlags) : Prop :=
  let flag (x : Machine.Num) : Bool := match x with | .nan i => i | _ => false
  let sign (x : Machine.Num) : Bool := match x with | .inf s => s | .fin s _ _ => s | .nan _ => false
  let neg := sign a != sign b
  if a.isNan = true ∨ b.isNan = true then r = (c.g.nan, nanFlag (flag a || flag b || flag d))
  else if (a.isInf = true ∧ b.isZero = true) ∨ (a.isZero = true ∧ b.isInf = true) then r = (c.g.nan, LaneFlags.inv)
  else if d.isNan = true then r = (c.g.nan, nanFlag (flag d))
  else if a.isInf = true ∨ b.isInf = true then
    r = if d.isInf = true ∧ sign d ≠ neg then (c.g.nan, LaneFlags.inv) else (infBits c.g neg, 0)
  else if d.isInf = true then r = (infBits c.g (sign d), 0)
  else
    let v := real a * real b + real d
    if v = 0 then
      r = (signBit c.g (if real d = 0 ∧ sign d = neg then neg else decide (c.mode = .rdn)), 0)
    else RoundsTo c v r

/-- 05 R146: the integer to which *x* rounds. -/
def roundedInt (mode : Rm) (x : ℚ) : ℚ :=
  let k := ⌊x⌋
  if x = k then x
  else
    match mode with
    | .rne => if x - k < 1 / 2 then k else if 1 / 2 < x - k then k + 1 else if k % 2 = 0 then k else k + 1
    | .rtz => if 0 < x then k else k + 1
    | .rup => k + 1
    | .rdn => k

/-- R146: `FRND`; a zero that results has the sign of *a* (04 R108). -/
def IntegerOf (c : FpCtx) (a : Machine.Num) (r : Nat × LaneFlags) : Prop :=
  match a with
  | .nan i => r = (c.g.nan, nanFlag i)
  | .inf s => r = (infBits c.g s, 0)
  | .fin s m e =>
    let x := real (.fin s m e)
    let w := roundedInt c.mode x
    r.1 < 2 ^ c.g.width ∧ real (decodeNum c.g r.1) = w ∧ (w = 0 → r.1 = signBit c.g s) ∧
      r.2 = if w ≠ x then LaneFlags.inx else 0

/-- R146: a positive *v*, a root or the reciprocal of one, correctly rounded: it neither overflows nor falls below the smallest
normal, and never lies midway between two values of the format. -/
def RootRounds (c : FpCtx) (v : ℝ) (r : Nat × LaneFlags) : Prop :=
  let q : ℝ := 2 ^ (Int.log 2 v - c.g.mbits)
  let lo : ℝ := ⌊v / q⌋ * q
  let w : ℝ := (real (decodeNum c.g r.1) : ℚ)
  r.1 < 2 ^ c.g.width ∧ (w = v → r.2 = 0) ∧ (w ≠ v → r.2 = LaneFlags.inx) ∧ (v = lo → w = v) ∧
    (v ≠ lo →
      match c.mode with
      | .rne => (w = lo ∨ w = lo + q) ∧ |w - v| ≤ q / 2
      | .rup => w = lo + q
      | _ => w = lo)

/-- R146: √*a*, or 1/√*a*. -/
def RootOf (inverse : Bool) (c : FpCtx) (a : Machine.Num) (r : Nat × LaneFlags) : Prop :=
  match a with
  | .nan i => r = (c.g.nan, nanFlag i)
  | .inf true => r = (c.g.nan, LaneFlags.inv)
  | .inf false => r = (if inverse then 0 else infBits c.g false, 0)
  | .fin s m e =>
    if m = 0 then r = if inverse then (infBits c.g s, LaneFlags.dz) else (signBit c.g s, 0)
    else if s then r = (c.g.nan, LaneFlags.inv)
    else
      let root := Real.sqrt (real (.fin s m e) : ℚ)
      RootRounds c (if inverse then 1 / root else root) r

/-- 05 R147: the order of `FMIN` and `FMAX`, −0 below +0. -/
def Below : Machine.Num → Machine.Num → Prop
  | .inf s, .inf t => s = true ∧ t = false
  | .inf s, .fin .. => s = true
  | .fin .., .inf t => t = false
  | .fin s m e, .fin t n d =>
    real (.fin s m e) < real (.fin t n d) ∨ (m = 0 ∧ n = 0 ∧ s = true ∧ t = false)
  | _, _ => False

/-- An element's bits as an instruction reads them: a subnormal is a zero of its sign under `FTZ` (04 R111). -/
def bitsOf (c : FpCtx) (x : Nat) : Nat :=
  match valueOf c x with
  | .fin s 0 _ => signBit c.g s
  | _ => x

/-- 05 R147: the lesser, or the greater, of two elements; the other one where one is NaN. -/
def Chosen (greater : Bool) (c : FpCtx) (x y : Nat) (r : Nat × LaneFlags) : Prop :=
  let a := valueOf c x
  let b := valueOf c y
  r.2 = nanFlag ((match a with | .nan i => i | _ => false) || (match b with | .nan i => i | _ => false)) ∧
  (a.isNan = true → b.isNan = true → r.1 = c.g.nan) ∧
  (a.isNan = true → b.isNan = false → r.1 = bitsOf c y) ∧
  (a.isNan = false → b.isNan = true → r.1 = bitsOf c x) ∧
  (a.isNan = false → b.isNan = false →
    ((if greater then Below a b else Below b a) → r.1 = bitsOf c y) ∧
    (¬(if greater then Below a b else Below b a) → r.1 = bitsOf c x))

/-- 05 R151: the rounded sum `hi` of two values, its exact error `lo`, and the flags. -/
def SumPair (g : FpFmt) (sat : Bool) (x y : Machine.Num) (hi lo : Nat) (fl : LaneFlags) : Prop :=
  match x, y with
  | .nan i, .nan j => hi = g.nan ∧ lo = g.nan ∧ fl = nanFlag (i || j)
  | .nan i, _ => hi = g.nan ∧ lo = g.nan ∧ fl = nanFlag i
  | _, .nan j => hi = g.nan ∧ lo = g.nan ∧ fl = nanFlag j
  | .inf s, .inf t =>
    if s = t then hi = infBits g s ∧ lo = 0 ∧ fl = 0 else hi = g.nan ∧ lo = g.nan ∧ fl = LaneFlags.inv
  | .inf s, .fin .. => hi = infBits g s ∧ lo = 0 ∧ fl = 0
  | .fin .., .inf t => hi = infBits g t ∧ lo = 0 ∧ fl = 0
  | .fin s _ _, .fin t _ _ =>
    let v := real x + real y
    if v = 0 then hi = signBit g (s && t) ∧ lo = 0 ∧ fl = 0
    else RoundsTo ⟨g, .rne, sat, false⟩ v (hi, fl) ∧
      if real (decodeNum g g.maxFin) < |roundedTo g .rne v| then lo = 0
      else lo < 2 ^ g.width ∧ real (decodeNum g lo) = v - real (decodeNum g hi) ∧ (v = real (decodeNum g hi) → lo = 0)

/-- 05 R152: the rounded product, its error, exact or rounded with `EINX`, and the flags. -/
def ProductPair (g : FpFmt) (sat : Bool) (x y : Machine.Num) (hi lo : Nat) (fl : LaneFlags) : Prop :=
  match x, y with
  | .nan i, .nan j => hi = g.nan ∧ lo = g.nan ∧ fl = nanFlag (i || j)
  | .nan i, _ => hi = g.nan ∧ lo = g.nan ∧ fl = nanFlag i
  | _, .nan j => hi = g.nan ∧ lo = g.nan ∧ fl = nanFlag j
  | .inf s, .inf t => hi = infBits g (s != t) ∧ lo = 0 ∧ fl = 0
  | .inf s, .fin t n _ =>
    if n = 0 then hi = g.nan ∧ lo = g.nan ∧ fl = LaneFlags.inv else hi = infBits g (s != t) ∧ lo = 0 ∧ fl = 0
  | .fin s m _, .inf t =>
    if m = 0 then hi = g.nan ∧ lo = g.nan ∧ fl = LaneFlags.inv else hi = infBits g (s != t) ∧ lo = 0 ∧ fl = 0
  | .fin s _ _, .fin t _ _ =>
    let v := real x * real y
    if v = 0 then hi = signBit g (s != t) ∧ lo = 0 ∧ fl = 0
    else ∃ f0, RoundsTo ⟨g, .rne, sat, false⟩ v (hi, f0) ∧
      if real (decodeNum g g.maxFin) < |roundedTo g .rne v| then lo = 0 ∧ fl = f0
      else
        let d := v - real (decodeNum g hi)
        let w := roundedTo g .rne d
        lo < 2 ^ g.width ∧ real (decodeNum g lo) = w ∧ (w = 0 → lo = signBit g (decide (d < 0))) ∧
          fl = f0 ||| (if w ≠ d then LaneFlags.einx else 0)

/-- 05 R154: RN is `RoundTo`(·, FP32, RNE) without saturation; a step's bits and flags. -/
abbrev Step := Nat × LaneFlags
def rn (x : Machine.Num) : Step := store ⟨.fp32, .rne, false, false⟩ x
def valOf (r : Step) : Machine.Num := decodeNum .fp32 r.1
def plus (a b : Machine.Num) : Machine.Num := addNum .rne a b

/-- `TwoSum`: the sum's step and its exact error, a zero error being +0. -/
def twoSumOf (a b : Machine.Num) : Step × Machine.Num :=
  let s := rn (plus a b)
  let e := plus (plus a b) (valOf s).neg
  (s, if e.isZero then .fin false 0 0 else e)

/-- `TwoProd`: the product's step, its error, and whether FP32 could not hold that error. -/
def twoProdOf (a b : Machine.Num) : Step × Machine.Num × Bool :=
  let p := rn (mulNum a b)
  let d := plus (mulNum a b) (valOf p).neg
  if d.isZero then (p, .fin false 0 0, false) else (p, valOf (rn d), (rn d).2 &&& LaneFlags.inx != 0)

/-- `FastTwoSum`: *s*, *z* and *e*. -/
def fastTwoSumOf (a b : Machine.Num) : Step × Step × Step :=
  let s := rn (plus a b)
  let z := rn (plus (valOf s) a.neg)
  (s, z, rn (plus b (valOf z).neg))

/-- What the steps of one double-word instruction give: the steps in their written order, *h* and *l* as they are returned,
and whether a `TwoProd` rounded its error. -/
structure Steps where
  taken : List Step
  h : Nat
  l : Nat
  einx : Bool

/-- 05 R154: `DWAdd`. -/
def dwAddSteps (xh xl yh yl : Machine.Num) : Steps :=
  let p := twoSumOf xh yh
  let q := twoSumOf xl yl
  let e := rn (plus p.2 (valOf q.1))
  let r := fastTwoSumOf (valOf p.1) (valOf e)
  let g := rn (plus (valOf r.2.2) q.2)
  let z := fastTwoSumOf (valOf r.1) (valOf g)
  ⟨[p.1, q.1, e, r.1, r.2.1, r.2.2, g, z.1, z.2.1, z.2.2], z.1.1, z.2.2.1, false⟩

/-- 05 R154: `DWMul`. -/
def dwMulSteps (xh xl yh yl : Machine.Num) : Steps :=
  let p := twoProdOf xh yh
  let t := rn (mulNum xl yh)
  let u := rn (plus (mulNum xh yl) (valOf t))
  let e := rn (plus p.2.1 (valOf u))
  let z := fastTwoSumOf (valOf p.1) (valOf e)
  ⟨[p.1, t, u, e, z.1, z.2.1, z.2.2], z.1.1, z.2.2.1, p.2.2⟩

/-- 05 R155: `DWAdd`(*x*, `TwoProd`(*a*, *b*)). -/
def dwFmaSteps (xh xl a b : Machine.Num) : Steps :=
  let p := twoProdOf a b
  let r := dwAddSteps xh xl (valOf p.1) p.2.1
  ⟨p.1 :: r.taken, r.h, r.l, p.2.2⟩

/-- 05 R155: `TwoSum`(*h*, *l*). -/
def dwNormSteps (h l : Machine.Num) : Steps := ⟨[(twoSumOf h l).1], (twoSumOf h l).1.1, (rn (twoSumOf h l).2).1, false⟩

/-- 05 R156, its cases in order: a NaN among the operands; an infinite one, with the value on the extended reals of the operands
as wholes; the first step that overflows; the steps' own results. -/
def doubleWord (operands : List Machine.Num) (whole : Machine.Num) (r : Steps) : Nat × Nat × LaneFlags :=
  let nan : Nat × Nat × LaneFlags := (0x7FC00000, 0x7FC00000, LaneFlags.inv)
  if operands.any (·.isNan) then nan
  else if operands.any (·.isInf) then
    match whole with
    | .inf s => (infBits .fp32 s, 0, 0)
    | _ => nan
  else
    match r.taken.find? fun x => x.2 &&& LaneFlags.ovf != 0 with
    | some x => (x.1, 0, LaneFlags.ovf ||| LaneFlags.inx)
    | none => (r.h, r.l, (if r.taken.any fun x => x.2 &&& LaneFlags.inx != 0 then LaneFlags.inx else 0) |||
        (if r.einx then LaneFlags.einx else 0))

def dwSum (xh xl yh yl : Machine.Num) : Nat × Nat × LaneFlags :=
  doubleWord [xh, xl, yh, yl] (sumNum .rne [xh, xl, yh, yl]) (dwAddSteps xh xl yh yl)

/-- 05 R155: the instructions on the pair that `IMM`[3:0] names. -/
def dwFromState : Instr → Option (Machine.Num → Machine.Num → Machine.Num → Machine.Num → Nat × Nat × LaneFlags)
  | .dwadd _ => some dwSum
  | .dwsub _ => some fun xh xl yh yl => dwSum xh xl yh.neg yl.neg
  | .dwmul _ => some fun xh xl yh yl =>
    doubleWord [xh, xl, yh, yl] (mulNum (plus xh xl) (plus yh yl)) (dwMulSteps xh xl yh yl)
  | .dwfma _ => some fun xh xl a b => doubleWord [xh, xl, a, b] (sumNum .rne [xh, xl, mulNum a b]) (dwFmaSteps xh xl a b)
  | _ => none

end Sys2Proof.Claims

/-- 04 R108, R110: `RoundTo` of a non-zero exact value follows the spec's procedure: the neighbour that the mode names,
`INX` exactly where it differs, `UNF` where it is inexact below the smallest normal, and beyond the largest finite value
`OVF` and `INX` with the result of the overflow table. -/
def Obligations.RoundToFollowsProcedure : Prop :=
  ∀ (g : FpFmt) (mode : Rm) (sat neg : Bool) (m : Nat) (e : Int), isFormat g → m ≠ 0 →
    let x := real (.fin neg m e)
    let v := roundedTo g mode x
    let r := roundFin g mode sat neg m e false
    if real (decodeNum g g.maxFin) < |v| then
      r.ovf = true ∧ r.bits = (overflowBits g mode sat neg).1 ∧
        r.flags = LaneFlags.ovf ||| LaneFlags.inx ||| (overflowBits g mode sat neg).2
    else
      r.ovf = false ∧ r.bits < 2 ^ g.width ∧ real (decodeNum g r.bits) = v ∧ (v = 0 → r.bits = signBit g neg) ∧
        r.flags = (if v ≠ x then LaneFlags.inx else 0) |||
          (if v ≠ x ∧ |v| < 2 ^ (1 - g.bias) then LaneFlags.unf else 0)

/-- 05 R145-R147: FADD, FSUB, FMUL, FDIV, FMIN, FMAX and FCOPYSGN, element by element: the sum, the product and the quotient rounded
once, with the special cases of R145 and R146, the lesser or greater with the NaN cases of R147, the magnitude of A with the sign of B. That FABS, FNEG
and FCOPYSGN read a subnormal as a zero under `FTZ` is LOG 13 (DEDUCED). -/
def Obligations.FloatPairsElementwise : Prop :=
  (∀ i code f, opcodeOf i = some (code, f) → wellFormed i = true →
    ∀ s u scalar o a b, Executes code .any f s u scalar o → o.a = some a → o.b = some b →
      ∀ op, floatPair f u (encodingOf f a) i = some op →
        Checked i s u [wantA f a (floatClass i), wantSame (floatFmt f a) 1 a b]
          (Gives i f s u scalar fun t fl =>
            Formed a (resTag f a) (a.valid &&& b.valid) (a.poison || b.poison) t ∧
              Elements (floatFmt f a) (a.valid &&& b.valid) t fl fun k j =>
                op (elemAt (floatFmt f a) a k j) (elemAt (floatFmt f a) b k j))) ∧
  (∀ c a b, Holds c.g [a, b] → SumOf c a b (store c (addNum c.mode a b)) ∧ ProductOf c a b (store c (mulNum a b))) ∧
  (∀ c x y, (c.g = .fp32 ∨ c.g = .bf16 ∨ c.g = .fp16) → QuotientOf c (valueOf c x) (valueOf c y) (fpDiv c x y)) ∧
  (∀ greater c x y, isFormat c.g → c.g.style ≠ .finiteOnly → x < 2 ^ c.g.width → y < 2 ^ c.g.width →
    Chosen greater c x y (fpMin greater c x y)) ∧
  ∀ c x sign, isFormat c.g → c.g.style ≠ .finiteOnly → x < 2 ^ c.g.width →
    fpSign c x sign = if (decodeNum c.g x).isNan then (c.g.nan, 0)
      else (signBit c.g (sign (x.testBit (c.g.width - 1))) + bitsOf c x % 2 ^ (c.g.width - 1), 0)

/-- 05 R145, R146: FMA, FMS, FNMA and FNMS round ±*a* × *b* ± *c* once, with R145's special cases; FSCALE multiplies by a power of
two; FDOT2 rounds the sum of a word and two BF16 products once. -/
def Obligations.FloatFusedOperations : Prop :=
  (∀ i code f, opcodeOf i = some (code, f) → wellFormed i = true →
    ∀ s u scalar o a b c, Executes code .any f s u scalar o → o.a = some a → o.b = some b → o.c = some c →
      ∀ op, floatThree f u (encodingOf f a) i = some op →
        Checked i s u [wantA f a (floatClass i), wantSame (floatFmt f a) 1 a b, wantSame (floatFmt f a) 3 a c]
          (Gives i f s u scalar fun t fl =>
            let v := a.valid &&& b.valid &&& c.valid
            Formed a (resTag f a) v (a.poison || b.poison || c.poison) t ∧
              Elements (floatFmt f a) v t fl fun k j =>
                op (elemAt (floatFmt f a) a k j) (elemAt (floatFmt f a) b k j) (elemAt (floatFmt f a) c k j))) ∧
  (∀ f s u scalar o a b, wellFormed (.fscale f) = true → Executes 0x094 .any f s u scalar o → o.a = some a → o.b = some b →
      let gf := encodingOf f a
      Checked (.fscale f) s u [wantA f a isFloat3, wantTag 1 b Fmt.int32]
        (Gives (.fscale f) f s u scalar fun t fl =>
          let v := a.valid &&& b.valid
          Formed a (resTag f a) v (a.poison || b.poison) t ∧
            Elements (floatFmt f a) v t fl fun k j =>
              store (byMod f u gf) ((valueOf (byMod f u gf) (elemAt (floatFmt f a) a k j)).scale (laneAt b k).toInt))) ∧
  (∀ c a b d, Holds c.g [a, b, d] → FusedOf c a b d (store c (addNum c.mode (mulNum a b) d))) ∧
  (∀ c s m e k, isFormat c.g → m ≠ 0 → RoundsTo c (real (.fin s m e) * 2 ^ k) (store c ((Machine.Num.fin s m e).scale k))) ∧
  (∀ c l, isFormat c.g → (∀ x ∈ l, ∃ s m e, x = .fin s m e) → (l.map real).sum ≠ 0 →
    RoundsTo c (l.map real).sum (store c (sumNum c.mode l))) ∧
  ∀ f s u scalar o a b, wellFormed (.fdot2 f) = true → Executes 0x0B5 .any f s u scalar o → o.a = some a → o.b = some b →
    let c := o.c.getD { blankToken with fmt := Fmt.fp32 }
    Checked (.fdot2 f) s u [wantTag 0 a Fmt.bf16, wantTag 1 b Fmt.bf16, wantTag 3 c Fmt.fp32]
      (Gives (.fdot2 f) f s u scalar fun t fl =>
        let v := a.valid &&& b.valid &&& c.valid
        let x := byMod f u .fp32
        let h (y : Nat) : Machine.Num := valueOf { x with g := .bf16 } y
        Formed a Fmt.fp32 v (a.poison || b.poison || c.poison) t ∧
          Elements Fmt.fp32 v t fl fun k _ =>
            store x (sumNum x.mode [valueOf x (laneAt c k).toNat,
              mulNum (h (elemAt Fmt.bf16 a k 0)) (h (elemAt Fmt.bf16 b k 0)),
              mulNum (h (elemAt Fmt.bf16 a k 1)) (h (elemAt Fmt.bf16 b k 1))]))

/-- 05 R146, R147, R149: FSQRT, FRCP, FRSQ, FRND, FABS, FNEG and the six special functions, element by element: the roots and
reciprocals correctly rounded, the integer, the magnitude with its sign, and the exact special values of R149's table. That FABS
and FNEG read a subnormal as a zero under `FTZ` is LOG 13 (DEDUCED). -/
def Obligations.FloatOneOperandElementwise : Prop :=
  (∀ i code f, opcodeOf i = some (code, f) → wellFormed i = true →
    ∀ s u scalar o a, Executes code .any f s u scalar o → o.a = some a →
      ∀ op, floatOne f u (encodingOf f a) i = some op →
        Checked i s u [wantA f a (floatClass i)]
          (Gives i f s u scalar fun t fl =>
            Formed a (resTag f a) a.valid a.poison t ∧
              Elements (floatFmt f a) a.valid t fl fun k j => op (elemAt (floatFmt f a) a k j))) ∧
  (∀ c x, (c.g = .fp32 ∨ c.g = .bf16 ∨ c.g = .fp16) → x < 2 ^ c.g.width →
    QuotientOf c (.fin false 1 0) (valueOf c x) (fpRcp c x) ∧ RootOf false c (valueOf c x) (fpSqrt c x) ∧
      RootOf true c (valueOf c x) (fpRsq c x) ∧ IntegerOf c (valueOf c x) (fpRnd c x)) ∧
  (∀ c x, isFormat c.g → c.g.style ≠ .finiteOnly → x < 2 ^ c.g.width →
    ∀ sign, fpSign c x sign = if (decodeNum c.g x).isNan then (c.g.nan, 0)
      else (signBit c.g (sign (x.testBit (c.g.width - 1))) + bitsOf c x % 2 ^ (c.g.width - 1), 0)) ∧
  (∀ c x i, (c.g = .fp32 ∨ c.g = .bf16 ∨ c.g = .fp16) → decodeNum c.g x = .nan i →
    ∀ fn, fn ∈ [fpExp2, fpLog2, fpTrig false, fpTrig true, fpTanh, fpSigm] → fn c x = (c.g.nan, nanFlag i)) ∧
  (∀ c x m e, (c.g = .fp32 ∨ c.g = .bf16 ∨ c.g = .fp16) → valueOf c x = .fin true m e → m ≠ 0 →
    fpLog2 c x = (c.g.nan, LaneFlags.inv)) ∧
  (∀ (c : FpCtx) (x : Nat) (n : ℤ), (c.g = .fp32 ∨ c.g = .bf16 ∨ c.g = .fp16) → c.mode = .rne → x < 2 ^ c.g.width →
    (real (valueOf c x) = 2 ^ n → (fpLog2 c x).2 = 0 ∧ (fpLog2 c x).1 < 2 ^ c.g.width ∧
      real (decodeNum c.g (fpLog2 c x).1) = n ∧ (n = 0 → (fpLog2 c x).1 = 0)) ∧
    ((∃ s m e, valueOf c x = .fin s m e) → real (valueOf c x) = n →
      (if c.ftz = true then 1 - c.g.bias else 1 - c.g.bias - c.g.mbits) ≤ n → n ≤ c.g.bias →
        (fpExp2 c x).2 = 0 ∧ (fpExp2 c x).1 < 2 ^ c.g.width ∧ real (decodeNum c.g (fpExp2 c x).1) = 2 ^ n)) ∧
  ∀ (c : FpCtx) (x : Nat) (s : Bool) (e : Int), (c.g = .fp32 ∨ c.g = .bf16 ∨ c.g = .fp16) →
    let one : Nat := c.g.bias.toNat * 2 ^ c.g.mbits
    let half : Nat := (c.g.bias.toNat - 1) * 2 ^ c.g.mbits
    let inf : Nat := c.g.maxFin + 1
    let low (neg : Bool) : Nat := signBit c.g neg
    (decodeNum c.g x = .fin s 0 e →
      fpExp2 c x = (one, 0) ∧ fpLog2 c x = (low true + inf, LaneFlags.dz) ∧ fpTrig false c x = (low s, 0) ∧
        fpTrig true c x = (one, 0) ∧ fpTanh c x = (low s, 0) ∧ fpSigm c x = (half, 0) ∧ fpSqrt c x = (low s, 0) ∧
        fpRcp c x = (low s + inf, LaneFlags.dz) ∧ fpRsq c x = (low s + inf, LaneFlags.dz)) ∧
    (decodeNum c.g x = .inf s →
      fpExp2 c x = (if s then 0 else inf, 0) ∧ (s = false → fpLog2 c x = (inf, 0)) ∧
        (s = true → fpLog2 c x = (c.g.nan, LaneFlags.inv)) ∧ fpTrig false c x = (c.g.nan, LaneFlags.inv) ∧
        fpTrig true c x = (c.g.nan, LaneFlags.inv) ∧ fpTanh c x = (low s + one, 0) ∧
        fpSigm c x = (if s then 0 else one, 0))

/-- 05 R148: the floating-point compares give PRED tokens by R138, with `INV` for any NaN under LT and LE; FCLASS gives
each element its class code under an integer tag, raising nothing. -/
def Obligations.FloatComparesAndClasses : Prop :=
  (∀ i code f c, opcodeOf i = some (code, f) → wellFormed i = true → floatCompare i = some c →
    ∀ s u scalar o a b, Executes code .any f s u scalar o → o.a = some a → o.b = some b →
      let gf := encodingOf f a
      Checked i s u [wantA f a isFloat5, wantSame (floatFmt f a) 1 a b]
        (Gives i f s u scalar fun t fl =>
          let m := floatFmt f a
          let v := a.valid &&& b.valid
          let x (k j : Nat) : Machine.Num := valueOf (nearest u gf) (elemAt m a k j)
          let y (k j : Nat) : Machine.Num := valueOf (nearest u gf) (elemAt m b k j)
          let lane (k : Nat) : Prop := ∀ j, j < perLane m → c.2 (x k j) (y k j)
          Formed a Fmt.pred v (a.poison || b.poison) t ∧
            (∀ k, k < 16 → v.getLsbD k = true →
              predLane (lane k) (∀ n, n < 16 → v.getLsbD n = true → lane n) (laneAt t k)) ∧
            ∀ k, (h : k < 16) → fl[k] = if v.getLsbD k && (List.range (perLane m)).any (fun j =>
                if c.1 then (x k j).isNan || (y k j).isNan
                else (match x k j with | .nan n => n | _ => false) || (match y k j with | .nan n => n | _ => false))
              then LaneFlags.inv else 0)) ∧
  ∀ f s u scalar o a, wellFormed (.fclass f) = true → Executes 0x093 .any f s u scalar o → o.a = some a →
    let gf := encodingOf f a
    Checked (.fclass f) s u [wantA f a isFloat5]
      (Gives (.fclass f) f s u scalar fun t fl =>
        Formed a (if gf.width = 32 then Fmt.uint32 else if gf.width = 16 then Fmt.int16 else Fmt.uint8) a.valid a.poison t ∧
          fl = noFlags ∧
          ∀ k j, k < 16 → a.valid.getLsbD k = true → j < perLane (floatFmt f a) →
            elemAt (floatFmt f a) t k j =
              match decodeNum gf (elemAt (floatFmt f a) a k j) with
              | .nan inv => if inv && gf.width != 8 then 8 else 9
              | .inf n => if n then 0 else 7
              | .fin n 0 _ => if n then 3 else 4
              | .fin n m _ => if m < 2 ^ gf.mbits then (if n then 2 else 5) else if n then 1 else 6)

/-- 05 R150: FREDADD, FREDMAX and FREDMIN combine the elements of A in a fixed binary tree in dense order; the root goes
to element 0 of lane 0, VALID 0x0001, or 0x0000 for an absent root; every flag of the tree is raised in lane 0. -/
def Obligations.FloatReductionsUseFixedTree : Prop :=
  ∀ i code f, (i = .fredadd f ∧ code = 0x09B ∨ i = .fredmax f ∧ code = 0x09C ∨ i = .fredmin f ∧ code = 0x09D) →
    wellFormed i = true → ∀ s u scalar o a, Executes code .any f s u scalar o → o.a = some a →
      let gf := encodingOf f a
      Checked i s u [wantA f a isFloat3]
        (Gives i f s u scalar fun t fl =>
          let m := floatFmt f a
          let comb (x y : Nat) : Nat × LaneFlags :=
            if code = 0x09B then store (byMod f u gf) (addNum (roundMode f u) (valueOf (byMod f u gf) x) (valueOf (byMod f u gf) y))
            else fpMin (code = 0x09C) (nearest u gf) x y
          let leaf (n : Nat) : Option (Nat × LaneFlags) :=
            if n < 16 * perLane m ∧ a.valid.getLsbD (n / perLane m) = true then
              some (elemAt m a (n / perLane m) (n % perLane m), 0) else none
          let root := treeRoot (fun x y => let c := comb x.1 y.1; (c.1, c.2 ||| x.2 ||| y.2))
            (if perLane m = 1 then 4 else 5) leaf
          Formed a (resTag f a) (if root.isSome then 1 else 0) a.poison t ∧
            (∀ k, (h : k < 16) → fl[k] = if k = 0 then root.elim 0 (·.2) else 0) ∧
            ∀ x, root = some x → ∀ j, j < perLane m → elemAt m t 0 j = if j = 0 then x.1 % 2 ^ fmtWidth m else 0)

/-- 05 R145, R151, R152: FADDX, FSUBX and FMULX give `RoundTo` of *x* + *y*, *x* − *y* and *x* × *y* under round to nearest even,
`FTZ` ignored, and the exact residual, which for a product is rounded with `EINX` where the format cannot hold it; NaN operands,
infinities and an overflow give the pairs that the rules name. -/
def Obligations.ExactPairs : Prop :=
  ∀ i code f (pair : FpFmt → Machine.Num → Machine.Num → Nat → Nat → LaneFlags → Prop),
    (i = .faddx f ∧ code = 0x09E ∧ pair = (fun g x y => SumPair g (f.mod = 1) x y) ∨
     i = .fsubx f ∧ code = 0x09F ∧ pair = (fun g x y => SumPair g (f.mod = 1) x y.neg) ∨
     i = .fmulx f ∧ code = 0x0A0 ∧ pair = (fun g x y => ProductPair g (f.mod = 1) x y)) →
    wellFormed i = true → ∀ s u scalar o a b, Executes code .any f s u scalar o → o.a = some a → o.b = some b →
      let gf := encodingOf f a
      Checked i s u [wantA f a isFloat3, wantSame (floatFmt f a) 1 a b]
        (GivesTwo i f s u scalar fun t e fl =>
          let m := floatFmt f a
          let v := a.valid &&& b.valid
          Formed a (resTag f a) v (a.poison || b.poison) t ∧ Formed a (resTag f a) v (a.poison || b.poison) e ∧
            ∃ gl : Nat → Nat → LaneFlags,
              (∀ k j, k < 16 → v.getLsbD k = true → j < perLane m →
                pair gf (decodeNum gf (elemAt m a k j)) (decodeNum gf (elemAt m b k j)) (elemAt m t k j) (elemAt m e k j) (gl k j)) ∧
              ∀ k, (h : k < 16) → fl[k] = if v.getLsbD k then (List.range (perLane m)).foldl (fun x j => x ||| gl k j) 0 else 0)

/-- 05 R153-R158: DWADD, DWSUB, DWMUL and DWFMA on the pair of state registers that `IMM` names, DWNORM, and DWRED by its fixed
tree give double words by the steps of R154, with R156's special cases, each lane for itself; DWTOF.FP32 gives
RoundTo(h + l, FP32, mode) from the exact sum (that `FTZ` does not flush it is LOG 14, DEDUCED). -/
def Obligations.DoubleWordOperations : Prop :=
  (∀ i code f op, opcodeOf i = some (code, f) → dwFromState i = some op →
    wellFormed i = true → ∀ s u scalar o a b, Executes code .any f s u scalar o → o.a = some a → o.b = some b →
      let reg (k : Nat) : Token := ((if h : k < 16 then u.t.sregs[k] else none).getD { blankToken with fmt := Fmt.fp32 })
      let xh := reg (f.imm.toNat % 16)
      let xl := reg (f.imm.toNat % 16 + 1)
      Checked i s u [wantTag 0 a Fmt.fp32, wantTag 1 b Fmt.fp32, wantTag 0 xh Fmt.fp32, wantTag 0 xl Fmt.fp32]
        (GivesTwo i f s u scalar fun t e fl =>
          let v := a.valid &&& b.valid &&& xh.valid &&& xl.valid
          let po := a.poison || b.poison || xh.poison || xl.poison
          let n (x : Token) (k : Nat) : Machine.Num := decodeNum .fp32 (laneAt x k).toNat
          let r (k : Nat) : Nat × Nat × LaneFlags := op (n xh k) (n xl k) (n a k) (n b k)
          Formed a Fmt.fp32 v po t ∧ Formed a Fmt.fp32 v po e ∧
            (Elements Fmt.fp32 v t fl fun k _ => ((r k).1, (r k).2.2)) ∧
            ∀ k, k < 16 → v.getLsbD k = true → (laneAt e k).toNat = (r k).2.1 % 2 ^ 32)) ∧
  (∀ f s u scalar o a b, wellFormed (.dwnorm f) = true → Executes 0x0A4 .any f s u scalar o → o.a = some a → o.b = some b →
    Checked (.dwnorm f) s u [wantTag 0 a Fmt.fp32, wantTag 1 b Fmt.fp32]
      (GivesTwo (.dwnorm f) f s u scalar fun t e fl =>
        let v := a.valid &&& b.valid
        let n (x : Token) (k : Nat) : Machine.Num := decodeNum .fp32 (laneAt x k).toNat
        let r (k : Nat) : Nat × Nat × LaneFlags := doubleWord [n a k, n b k] (plus (n a k) (n b k)) (dwNormSteps (n a k) (n b k))
        Formed a Fmt.fp32 v (a.poison || b.poison) t ∧ Formed a Fmt.fp32 v (a.poison || b.poison) e ∧
          (Elements Fmt.fp32 v t fl fun k _ => ((r k).1, (r k).2.2)) ∧
          ∀ k, k < 16 → v.getLsbD k = true → (laneAt e k).toNat = (r k).2.1 % 2 ^ 32)) ∧
  (∀ f s u scalar o a b, wellFormed (.dwred f) = true → Executes 0x0A5 .any f s u scalar o → o.a = some a → o.b = some b →
    Checked (.dwred f) s u [wantTag 0 a Fmt.fp32, wantTag 1 b Fmt.fp32]
      (GivesTwo (.dwred f) f s u scalar fun t e fl =>
        let n (x : Nat) : Machine.Num := decodeNum .fp32 x
        let leaf (k : Nat) : Option (Nat × Nat × LaneFlags) :=
          if k < 16 ∧ validAt a k = true ∧ validAt b k = true then some ((laneAt a k).toNat, (laneAt b k).toNat, 0) else none
        let node (x y : Nat × Nat × LaneFlags) : Nat × Nat × LaneFlags :=
          let c := dwSum (n x.1) (n x.2.1) (n y.1) (n y.2.1)
          (c.1, c.2.1, c.2.2 ||| x.2.2 ||| y.2.2)
        let root := treeRoot node 4 leaf
        let v : BitVec 16 := if root.isSome then 1 else 0
        Formed a Fmt.fp32 v (a.poison || b.poison) t ∧ Formed a Fmt.fp32 v (a.poison || b.poison) e ∧
          (∀ k, (h : k < 16) → fl[k] = if k = 0 then root.elim 0 (·.2.2) else 0) ∧
          ∀ x, root = some x → (laneAt t 0).toNat = x.1 % 2 ^ 32 ∧ (laneAt e 0).toNat = x.2.1 % 2 ^ 32)) ∧
  (∀ f s u scalar o a b, wellFormed (.dwtof f) = true → Executes 0x0A6 .any f s u scalar o → o.a = some a → o.b = some b →
    Checked (.dwtof f) s u [wantTag 0 a Fmt.fp32, wantTag 1 b Fmt.fp32]
      (Gives (.dwtof f) f s u scalar fun t fl =>
        Formed a Fmt.fp32 (a.valid &&& b.valid) (a.poison || b.poison) t ∧
          Elements Fmt.fp32 (a.valid &&& b.valid) t fl fun k _ =>
            store ⟨.fp32, roundMode f u, false, false⟩
              (addNum (roundMode f u) (decodeNum .fp32 (laneAt a k).toNat) (decodeNum .fp32 (laneAt b k).toNat))))
/-! ### Conversions, packing, modes and flags (04 R97-R105, 05 R159-R165) -/

namespace Sys2Proof.Claims

/-- What a conversion within lanes works with: the source format, how it rounds and into what, the poison of its result,
its result's scale, how it reads a source element, and the checks it makes in order. -/
structure Conv where
  src : Fmt
  ctx : ConvCtx
  poison : Bool
  scale : BitVec 8
  read : Nat → Machine.Num
  checks : List (Option TrapInfo)

/-- The check of a codebook operand where `FT` needs one (05 R160). -/
def bookCheck (f : Fields) (slot : Nat) (b : Option Token) : Option TrapInfo :=
  if f.ft = Fmt.cb4 ∨ f.ft = Fmt.cb4s then (match b with | some t => wantBook slot t f.ft | none => some illop) else none

/-- The codebook used. -/
def book (f : Fields) (b : Option Token) : Option Token := if f.ft = Fmt.cb4 ∨ f.ft = Fmt.cb4s then b else none

/-- The operand's tag, a pointer's read as `g` (05 R123). -/
def tagOr (t : Token) (g : Fmt) : Fmt := if t.fmt = Fmt.ptr then g else t.fmt

/-- 05 R160, R161: the five conversions, in their forms that no INT64 takes part in. -/
def conversion (f : Fields) (u : Cur) (o : Opnds) (a : Token) : Instr → Option Conv
  | .fcvt _ =>
    let src := tagOr a Fmt.fp32
    let sc := if burstScaled f.ft && burstScaled src then a.scale else 0x7F
    some ⟨src, ⟨f.ft, sc, roundMode f u, f.mod = 5 ∨ f.mod = 6, u.t.mode.getLsbD 2, bookEntries (book f o.b)⟩,
      a.poison || isPoisoned (book f o.b), sc, sourceNum (u.t.mode.getLsbD 2) src a.scale,
      [wantIn 0 a isFloatSource, bookCheck f 1 o.b]⟩
  | .ftoi _ =>
    let src := tagOr a Fmt.fp32
    let sc := if burstScaled f.ft && burstScaled src then a.scale else 0x7F
    if f.ft = Fmt.int64 then none
    else
      some ⟨src, ⟨f.ft, sc, roundMode f u, false, u.t.mode.getLsbD 2, []⟩, a.poison, sc,
        sourceNum (u.t.mode.getLsbD 2) src a.scale, [wantIn 0 a isFloatSource]⟩
  | .itof _ =>
    let src := tagOr a (if f.ft = Fmt.fp32 then Fmt.int64 else Fmt.int32)
    let sc := if burstScaled f.ft && burstScaled src then a.scale else 0x7F
    if src = Fmt.int64 then none
    else
      some ⟨src, ⟨f.ft, sc, roundMode f u, false, u.t.mode.getLsbD 2, bookEntries (book f o.b)⟩,
        a.poison || isPoisoned (book f o.b), sc, sourceNum false src a.scale, [wantIn 0 a isIntSource, bookCheck f 1 o.b]⟩
  | .cbenc _ =>
    let src := tagOr a Fmt.fp32
    some ⟨src, ⟨f.ft, 0x7F, .rne, false, u.t.mode.getLsbD 2, bookEntries o.b⟩, a.poison || isPoisoned o.b, 0x7F,
      sourceNum (u.t.mode.getLsbD 2) src a.scale, [wantIn 0 a isFloat3, o.b.bind fun b => wantBook 1 b f.ft]⟩
  | .bscl _ =>
    let src := tagOr a Fmt.fp32
    let sc := (laneAt (o.b.getD a) 0).extractLsb' 0 8
    if sc = 0xFF ∨ isPoisoned o.b then none
    else
      some ⟨src, ⟨f.ft, if burstScaled f.ft then sc else 0x7F, roundMode f u, f.mod = 5 ∨ f.mod = 6, u.t.mode.getLsbD 2,
          bookEntries (book f o.c)⟩, a.poison || isPoisoned (book f o.c), sc, sourceNum (u.t.mode.getLsbD 2) src a.scale,
        [wantIn 0 a isFloat3, o.b.bind (wantWord 1), bookCheck f 3 o.c]⟩
  | _ => none

/-- 05 R159: the part lies in its range. -/
def partInRange (ws wd p : Nat) : Bool := if wd ≤ ws then decide (p * wd < ws) else decide (p * ws < wd)

/-- 05 R159: which source element of its lane makes result element `j`; none makes it zero, with no flag. -/
def partSource (ws wd p j : Nat) : Option Nat :=
  if wd ≤ ws then (if p * wd + j < ws then some (p * wd + j) else none)
  else if p * ws ≤ j ∧ j < p * ws + ws then some (j - p * ws) else none

/-- 04 R92, R108, R110: `RoundTo` a floating-point format, of any value. -/
def FloatTo (c : FpCtx) (x : Machine.Num) (r : Nat × LaneFlags) : Prop :=
  match x with
  | .nan i => r = if c.g.style = .finiteOnly then (0, LaneFlags.inv) else (c.g.nan, nanFlag i)
  | .inf s =>
    let beyond := overflowBits c.g c.mode c.sat s
    r = if c.g.style = .ieee then (infBits c.g s, 0) else (beyond.1, LaneFlags.ovf ||| beyond.2)
  | .fin s m e => if m = 0 then r = (signBit c.g s, 0) else RoundsTo c (real (.fin s m e)) r

/-- 04 R92, R109: `RoundTo` an integer format. -/
def IntegerTo (f : Fmt) (mode : Rm) (x : Machine.Num) (r : Nat × LaneFlags) : Prop :=
  let w := fmtWidth f
  let least : ℤ := if intSigned f then -2 ^ (w - 1) else 0
  let most : ℤ := if intSigned f then 2 ^ (w - 1) - 1 else 2 ^ w - 1
  let put (v : ℤ) : Nat := (v % 2 ^ w).toNat
  match x with
  | .nan _ => r = (0, LaneFlags.inv)
  | .inf s => r = (put (if s then least else most), LaneFlags.inv)
  | .fin s m e =>
    let v := ⌊roundedInt mode (real (.fin s m e))⌋
    if v < least then r = (put least, LaneFlags.inv)
    else if most < v then r = (put most, LaneFlags.inv)
    else r = (put v, if (v : ℚ) ≠ real (.fin s m e) then LaneFlags.inx else 0)

/-- The order of two values, −0 equal to +0. -/
def AtMost : Machine.Num → Machine.Num → Prop
  | .inf true, .nan _ => False
  | .inf true, _ => True
  | .fin .., .inf t => t = false
  | .inf false, .inf t => t = false
  | .fin s m e, .fin t n d => real (.fin s m e) ≤ real (.fin t n d)
  | _, _ => False

/-- `a` lies as near to `x` as `b` does; to an infinite `x` what compares closest to it (LOG 15, DEDUCED). -/
def NearAs (x a b : Machine.Num) : Prop :=
  match x, a, b with
  | .inf s, a, b => if s then AtMost a b else AtMost b a
  | .fin s m e, .fin t n d, .fin v k j =>
    |real (.fin t n d) - real (.fin s m e)| ≤ |real (.fin v k j) - real (.fin s m e)|
  | _, .inf _, .fin .. => False
  | _, _, _ => True

/-- 04 R99: an entry of the numbers `l` that a mode may choose for `x`. -/
def Qualifies (mode : Rm) (l : List Machine.Num) (x a : Machine.Num) : Prop :=
  let up : Prop := AtMost x a ∧ ∀ b ∈ l, AtMost x b → AtMost a b
  let down : Prop := AtMost a x ∧ ∀ b ∈ l, AtMost b x → AtMost b a
  match mode with
  | .rne => ∀ b ∈ l, NearAs x a b
  | .rup => up
  | .rdn => down
  | .rtz => (AtMost (.fin false 0 0) x → down) ∧ (¬AtMost (.fin false 0 0) x → up)

/-- The lowest code among those that qualify, `INX` where its entry differs from `x`. -/
def ChosenCode (l : List (Nat × Machine.Num)) (ok : Machine.Num → Prop) (x : Machine.Num) (also_ : LaneFlags) (r : Nat × LaneFlags) : Prop :=
  ∃ c ∈ l, ok c.2 ∧ (∀ d ∈ l, ok d.2 → c.1 ≤ d.1) ∧ r.1 = c.1 ∧
    (AtMost c.2 x ∧ AtMost x c.2 → r.2 = also_) ∧ (¬(AtMost c.2 x ∧ AtMost x c.2) → r.2 = also_ ||| LaneFlags.inx)

/-- 04 R99: a value encoded against a codebook; where no entry is a number the rule gives nothing (LOG 31, DESIGN CHOICE). -/
def CodeOf (mode : Rm) (entries : List (Nat × Machine.Num)) (x : Machine.Num) (r : Nat × LaneFlags) : Prop :=
  let l := entries.filter (!·.2.isNan)
  if x.isNan then r = (((entries.find? (·.2.isNan)).map Prod.fst).getD 0, LaneFlags.inv)
  else
    l ≠ [] → ((∃ c ∈ l, Qualifies mode (l.map Prod.snd) x c.2) → ChosenCode l (Qualifies mode (l.map Prod.snd) x) x 0 r) ∧
      ((∀ c ∈ l, ¬Qualifies mode (l.map Prod.snd) x c.2) → ChosenCode l (Qualifies .rne (l.map Prod.snd) x) x LaneFlags.ovf r)

/-- 04 R92, R99, R105, R108-R110: one value into the target format, divided by the power of the result's scale. -/
def Converted (k : ConvCtx) (x : Machine.Num) (r : Nat × LaneFlags) : Prop :=
  let y := if burstScaled k.tag then x.scale (127 - (k.scale.toNat : ℤ)) else x
  if k.tag = Fmt.cb4 ∨ k.tag = Fmt.cb4s then CodeOf k.mode k.book y r
  else
    match fpFmt k.tag with
    | some g => FloatTo ⟨g, k.mode, k.sat, k.ftz⟩ y r
    | none => IntegerTo k.tag k.mode y r

/-- The finite elements' greatest magnitude (05 R162). -/
def greatest (l : List Machine.Num) : ℚ := (l.map fun x => |real x|).foldl max 0

end Sys2Proof.Claims

/-- 05 R159-R161, 04 R92, R99, R105, R109: FCVT, FTOI, ITOF, CBENC and BSCL convert within each lane by parts, each element rounded
once, or encoded against the codebook (an infinity: LOG 15, DEDUCED); a part out of range traps `ILLOP`; a BSCL scale of 0xFF
writes zero elements, and raises `INV` in each valid lane. -/
def Obligations.ConversionsWithinLanes : Prop :=
  (∀ i code f, opcodeOf i = some (code, f) → wellFormed i = true → ∀ s u scalar o a k,
    Executes code .any f s u scalar o → o.a = some a → ((∃ g, i = .fcvt g ∨ i = .ftoi g ∨ i = .itof g) ∨ ∃ b, o.b = some b) →
    conversion f u o a i = some k →
      let ws := perLane k.src
      let wd := perLane f.ft
      Checked i s u (k.checks ++ [if partInRange ws wd f.imm.toNat then none else some illop])
        (Gives i f s u scalar fun t fl =>
          FormedAs a f.ft a.valid k.poison k.scale t ∧
            Elements f.ft a.valid t fl fun n j =>
              match partSource ws wd f.imm.toNat j with
              | some e => convertNum k.ctx (k.read (elemAt k.src a n e))
              | none => (0, 0))) ∧
  (∀ k x, ((fpFmt k.tag).isSome ∨ isIntSource k.tag ∨ k.tag = Fmt.cb4 ∨ k.tag = Fmt.cb4s) → (k.book.map Prod.fst).Pairwise (· < ·) →
    Converted k x (convertNum k x)) ∧
  ∀ f s u scalar o a b, wellFormed (.bscl f) = true → Executes 0x0AE .any f s u scalar o → o.a = some a → o.b = some b →
    b.poison = false → (laneAt b 0).extractLsb' 0 8 = 0xFF →
    Checked (.bscl f) s u [wantIn 0 a isFloat3, wantWord 1 b, bookCheck f 3 o.c,
        if partInRange (perLane (tagOr a Fmt.fp32)) (perLane f.ft) f.imm.toNat then none else some illop]
      (Gives (.bscl f) f s u scalar fun t fl =>
        FormedAs a f.ft a.valid (a.poison || isPoisoned (book f o.c)) 0xFF t ∧ (Lanes t fun _ => 0) ∧
          ∀ k, (h : k < 16) → fl[k] = if a.valid.getLsbD k then LaneFlags.inv else 0)

/-- 05 R159: FTOI to INT64 converts FP32 lanes 8p to 8p + 7 into elements 0 to 7; ITOF from INT64 writes its elements into
those lanes, the other eight valid and zero; any other pairing traps `FMTMISMATCH`. Each is rounded once (04 R92, R108-R110). -/
def Obligations.ConversionsOfInt64 : Prop :=
  (∀ mode x, IntegerTo Fmt.int64 mode x (toInteger Fmt.int64 mode x)) ∧
  (∀ c x, isFormat c.g → FloatTo c x (store c x)) ∧
  (∀ f s u scalar o a, wellFormed (.ftoi f) = true → Executes 0x0A8 .any f s u scalar o → o.a = some a → f.ft = Fmt.int64 →
    let p := f.imm.toNat
    Checked (.ftoi f) s u [wantIn 0 a isFloatSource, unless_ (tagOr a Fmt.fp32 == Fmt.fp32) 0 a, if p ≤ 1 then none else some illop]
      (Gives (.ftoi f) f s u scalar fun t fl =>
        let v : BitVec 16 := BitVec.ofFnLE fun k : Fin 16 => validAt a (8 * p + k.val / 2)
        let r (j : Nat) : Nat × LaneFlags :=
          toInteger Fmt.int64 (roundMode f u) (sourceNum (u.t.mode.getLsbD 2) Fmt.fp32 a.scale (laneAt a (8 * p + j)).toNat)
        FormedAs a Fmt.int64 v a.poison 0x7F t ∧ Elements Fmt.int64 v t fl fun k _ => r (k / 2))) ∧
  ∀ f s u scalar o a, wellFormed (.itof f) = true → Executes 0x0A9 .any f s u scalar o → o.a = some a →
    tagOr a (if f.ft = Fmt.fp32 then Fmt.int64 else Fmt.int32) = Fmt.int64 →
    let p := f.imm.toNat
    Checked (.itof f) s u [wantIn 0 a isIntSource, bookCheck f 1 o.b, unless_ (f.ft == Fmt.fp32) 0 a, if p ≤ 1 then none else some illop]
      (Gives (.itof f) f s u scalar fun t fl =>
        let v : BitVec 16 := BitVec.ofFnLE fun k : Fin 16 => if k.val / 8 = p then validAt a (2 * (k.val % 8)) else true
        FormedAs a Fmt.fp32 v a.poison 0x7F t ∧
          Elements Fmt.fp32 v t fl fun k _ =>
            if k / 8 = p then
              store ⟨.fp32, roundMode f u, false, u.t.mode.getLsbD 2⟩ (sourceNum false Fmt.int64 0x7F (pairAt a (k % 8)))
            else (0, 0))

/-- 04 R105, 05 R162, R163: CBDEC decodes codes against the codebook; UNPACK and PACK move elements between dense order and
one element to a lane; BSCALC gives the least scale that keeps every element within the target's range, or the floor of
the logarithms; where a codebook has no finite entry the rule gives no `M`, and the scale is free (LOG 31, DESIGN CHOICE); that a
NaN or infinite element gives 0xFF before the other special cases is LOG 32 (DESIGN CHOICE), and that a packed token of one
element a lane takes no `SEQ` and `BHEAD` of A is too. -/
def Obligations.CodebooksPackingAndScales : Prop :=
  (∀ f s u scalar o a b, wellFormed (.cbdec f) = true → Executes 0x0AA .any f s u scalar o → o.a = some a → o.b = some b →
    let src := tagOr a (if b.fmt = Fmt.cb4s then Fmt.cb4s else Fmt.cb4)
    Checked (.cbdec f) s u [wantIn 0 a fun g => g == Fmt.cb4 || g == Fmt.cb4s, wantBook 1 b src,
        if partInRange 8 2 f.imm.toNat then none else some illop]
      (Gives (.cbdec f) f s u scalar fun t fl =>
        FormedAs a Fmt.bf16 a.valid (a.poison || b.poison) 0x7F t ∧
          Elements Fmt.bf16 a.valid t fl fun k j =>
            let entry := bookEntry b (elemAt src a k (f.imm.toNat * 2 + j))
            if src = Fmt.cb4 then (entry, 0)
            else store ⟨.bf16, .rne, false, false⟩
              (if a.scale = 0xFF then .nan true else (decodeNum .bf16 entry).scale ((a.scale.toNat : Int) - 127)))) ∧
  (∀ i f unpack, (i = .unpack f ∧ unpack = true ∨ i = .pack f ∧ unpack = false) → wellFormed i = true →
    ∀ s u scalar o a, Executes (if unpack then 0x0AD else 0x0AC) .any f s u scalar o → o.a = some a →
      let m := if f.ft = Fmt.fromOperand then a.fmt else f.ft
      let p := f.imm.toNat
      let w := perLane m
      Checked i s u [unless_ (!(f.ft == Fmt.fromOperand && (a.fmt == Fmt.int64 || a.fmt == Fmt.ptr))) 0 a,
          wantA f a someFormat, if p < w then none else some illop]
        (Gives i f s u scalar fun t fl =>
          let el (k j : Nat) : Nat := (laneAt a k).toNat / 2 ^ (denseWidth m * j) % 2 ^ denseWidth m
          t.kind = 0 ∧ t.fmt = m ∧ t.poison = a.poison ∧ t.scale = a.scale ∧ t.tag = a.tag ∧ t.seq = 0 ∧ t.bhead = false ∧
            fl = noFlags ∧
            if unpack then
              t.valid = pairValid m (BitVec.ofFnLE fun k : Fin 16 => validAt a ((16 * p + k.val) / w)) ∧
                Lanes t fun k => BitVec.ofNat 32 (el ((16 * p + k) / w) ((16 * p + k) % w))
            else
              t.valid = pairValid m (BitVec.ofFnLE fun k : Fin 16 =>
                (List.range 16).all fun n => decide ((16 * p + n) / w ≠ k.val) || validAt a n) ∧
              (∀ n, n < 16 → t.valid.getLsbD ((16 * p + n) / w) = true → (16 * p + n) / w < 16 →
                (laneAt t ((16 * p + n) / w)).toNat / 2 ^ (denseWidth m * ((16 * p + n) % w)) % 2 ^ denseWidth m = el n 0) ∧
              ∀ k j, k < 16 → j < w → t.valid.getLsbD k = true → (k * w + j < 16 * p ∨ 16 * p + 16 ≤ k * w + j) →
                (laneAt t k).toNat / 2 ^ (denseWidth m * j) % 2 ^ denseWidth m = 0)) ∧
  ∀ f s u scalar o a, wellFormed (.bscalc f) = true → Executes 0x0AF .any f s u scalar o → o.a = some a →
    Checked (.bscalc f) s u [wantIn 0 a isFloat3, bookCheck f 1 o.b]
      (Gives (.bscalc f) f s u scalar fun t fl =>
        let src := tagOr a Fmt.fp32
        let xs := (elementsOf src a a.valid).map fun x => sourceNum (u.t.mode.getLsbD 2) src a.scale x.2
        let amax := greatest xs
        let top := real (targetMax f.ft (book f o.b))
        ∃ sc, FormedAs a Fmt.uint32 0xFFFF (a.poison || isPoisoned (book f o.b)) 0x7F t ∧ fl = noFlags ∧
          (Lanes t fun _ => BitVec.ofNat 32 sc) ∧
          if xs.any (fun x => x.isNan || x.isInf) then sc = 0xFF
          else if amax = 0 then sc = 127
          else if (f.ft = Fmt.cb4 ∨ f.ft = Fmt.cb4s) ∧ (bookEntries (book f o.b)).all (fun x => x.2.isNan || x.2.isInf) then sc ≤ 0xFE
          else if top = 0 then sc = 127
          else if f.mod = 0 then
            sc ≤ 0xFE ∧ (amax / 2 ^ ((sc : Int) - 127) ≤ top ∨ sc = 0xFE) ∧
              ∀ n : Nat, n < sc → top < amax / 2 ^ ((n : Int) - 127)
          else (sc : Int) = max 0 (min 0xFE (127 + Int.log 2 amax - Int.log 2 top)))

/-- 04 R114, 05 R164, R165: SETMODE and CLRFLAGS leave their effect to the retirement (a poisoned operand is a control use, 16
R409, and an invalid lane writes or clears nothing); GETMODE and GETFLAGS give the mode word and the flag state as they
stood when the firing began, poisoned where it reads poisoned (16 R404). -/
def Obligations.ModesAndFlags : Prop :=
  (∀ f s u scalar o, wellFormed (.setmode f) = true → Executes 0x0B0 .any f s u scalar o →
    match o.a with
    | none => Defers (.setmode f) f s u scalar (.setMode (f.imm.extractLsb' 0 3))
    | some a =>
      if a.poison then exec (.setmode f) s = .next (controlUse s u)
      else Checked (.setmode f) s u [wantIn 0 a fun g => g == Fmt.uint32 || g == Fmt.int32]
        (if a.valid.getLsbD 0 then Defers (.setmode f) f s u scalar (.setMode ((laneAt a 0).extractLsb' 0 3))
         else Does (.setmode f) f s u scalar s)) ∧
  (∀ f s u scalar o, wellFormed (.clrflags f) = true → Executes 0x0B2 .any f s u scalar o →
    match o.a with
    | none => Defers (.clrflags f) f s u scalar
        (.clearFlags (Vector.ofFn fun k => if f.imm.getLsbD (7 + k.val) then f.imm.extractLsb' 0 7 else 0))
    | some a =>
      if a.poison then exec (.clrflags f) s = .next (controlUse s u)
      else Checked (.clrflags f) s u [wantIn 0 a fun g => g == Fmt.uint32 || g == Fmt.int32]
        (Defers (.clrflags f) f s u scalar
          (.clearFlags (Vector.ofFn fun k => if a.valid.getLsbD k.val then (laneAt a k.val).extractLsb' 0 7 else 0)))) ∧
  (∀ f s u scalar o, wellFormed (.getmode f) = true → Executes 0x0B6 .any f s u scalar o →
    Gives (.getmode f) f s u scalar fun t fl =>
      Formed blankToken Fmt.uint32 1 (.mode ∈ u.t.spoilt) t ∧ fl = noFlags ∧ laneAt t 0 = u.t.mode.zeroExtend 32) ∧
  ∀ f s u scalar o, wellFormed (.getflags f) = true → Executes 0x0B1 .any f s u scalar o →
    Gives (.getflags f) f s u scalar fun t fl =>
      Formed blankToken Fmt.uint32 0xFFFF (.flags ∈ u.t.spoilt) t ∧ fl = noFlags ∧
        Lanes t fun k => if h : k < 16 then u.t.flags[k].zeroExtend 32 else 0


/-! ### Dataflow, port and control instructions (05 R121-R132) -/

namespace Sys2Proof.Claims

/-- 02 R58: a token that a port or a register gives carries the tag `FT`, unless `FT` is 0x1F. -/
def givenTag (slot : Nat) (f : Fields) (t : Token) : Option TrapInfo :=
  unless_ (f.ft = Fmt.fromOperand ∨ t.fmt = f.ft) slot t

/-- 02 R58, R68, 05 R120: an operand carried unchanged carries the tag `FT`; where `FT` is 0x1F, a tag of some class. -/
def carriedTag (slot : Nat) (f : Fields) (t : Token) : Option TrapInfo :=
  unless_ (if f.ft = Fmt.fromOperand then someFormat t.fmt else t.fmt = f.ft) slot t

/-- 05 R121-R123: the token that stands in state register `k` when the firing begins: an unset register reads as a token of
zeros, and under `FT` 0x1B traps `PTRTAG`. -/
def RegToken (f : Fields) (u : Cur) (k : Nat) : Except TrapInfo Token :=
  match u.t.sregs.toList[k]? with
  | some (some t) => (match givenTag 0 f t with
    | some e => .error e
    | none => .ok t)
  | _ =>
    if f.ft = Fmt.ptr then .error (trapOf .ptrTag)
    else .ok ⟨Vector.replicate 16 0, 0xFFFF, if f.ft = Fmt.fromOperand then Fmt.int32 else f.ft, 0, false, false, 0x7F, 0, 0,
      Vector.replicate 8 0⟩

/-- The firing in focus with one send more, one register write more, or its exit chosen. -/
def sends (s : State) (u : Cur) (port : Nat) (v : Val) : State :=
  modFiring s u.key fun fr => { fr with sends := fr.sends ++ [(port, .token v)] }

def writes (s : State) (u : Cur) (k : Nat) (t : Token) : State :=
  modFiring s u.key fun fr => { fr with writes := fr.writes ++ [(k, t)] }

/-- 05 R132: the register `k` is written once in a firing; a second writer traps `ILLOP`. -/
def WritesOnce (i : Instr) (f : Fields) (s : State) (u : Cur) (scalar : Bool) (k : Nat) (a : Token) (r : Res) : Prop :=
  if k ∈ u.fr.writes.map (·.1) then exec i s = .next (trapped s u illop)
  else exec i s = .next (executed (writes s u k a) u f scalar r noFlags)

/-- 02 R50: a port is sent to once in a firing; a second send traps `ILLOP`. -/
def SendsOnce (i : Instr) (f : Fields) (s : State) (u : Cur) (scalar : Bool) (port : Nat) (v : Val) : Prop :=
  if port ∈ u.fr.sends.map (·.1) then exec i s = .next (trapped s u illop)
  else exec i s = .next (executed (sends s u port v) u f scalar .none noFlags)

/-- One lane predicate as an in-block token becomes a predicate token (02 R43): bit 0 of each valid lane, and `SCALAR`
from bit 1 of lane 0. -/
structure PredOf (t : Token) (p : PredToken) : Prop where
  lane : ∀ k, k < 16 → (p.lp.getLsbD k = true ↔ t.valid.getLsbD k = true ∧ (laneAt t k).getLsbD 0 = true)
  scalar : p.scalar = true ↔ t.valid.getLsbD 0 = true ∧ (laneAt t 0).getLsbD 1 = true
  poison : p.poison = t.poison

end Sys2Proof.Claims

/-- 05 R125, R126: RDP gives the head of its port, RDS the register as the firing found it, RDK a constant in every lane,
IMM its immediate, or under `.HI` its low half above the low half of A. A refused tag traps `FMTMISMATCH`. -/
def Obligations.PortsRegistersAndConstantsRead : Prop :=
  (∀ f s u scalar o k a h, wellFormed (.rdp f) = true → Executes 0x001 .any f s u scalar o →
    inArc s u.cell f.imm.toNat = some (k, a) → a.queue.head? = some h → h.held = true →
    (∀ t, h.item = .data t → Checked (.rdp f) s u [givenTag 0 f t]
      (exec (.rdp f) s = .next (executed s u f scalar (.one (.data t)) noFlags))) ∧
    ∀ p, h.item = .pred p → exec (.rdp f) s =
      .next (if f.ft = Fmt.pred ∨ f.ft = Fmt.fromOperand then executed s u f scalar (.one (.pred p)) noFlags
        else trapped s u (fmtTrap 0 Fmt.pred))) ∧
  (∀ f s u scalar o, wellFormed (.rds f) = true → Executes 0x002 .any f s u scalar o →
    exec (.rds f) s = .next (match RegToken f u f.imm.toNat with
      | .ok t => executed s u f scalar (.one (.data t)) noFlags
      | .error e => trapped s u e)) ∧
  (∀ f s u scalar o, wellFormed (.rdk f) = true → Executes 0x003 .any f s u scalar o → ∀ h : f.imm.toNat < 16,
    Gives (.rdk f) f s u scalar fun t fl =>
      let tag := if f.ft = Fmt.fromOperand then Fmt.raw else f.ft
      FormedAs blankToken tag 0xFFFF false 0x7F t ∧ fl = noFlags ∧
        Lanes t fun _ => u.c.consts[f.imm.toNat] &&& spareMask tag) ∧
  ∀ f s u scalar o, wellFormed (.imm f) = true → Executes 0x004 .any f s u scalar o →
    (f.mod = 0 → Gives (.imm f) f s u scalar fun t fl =>
      fl = noFlags ∧
        if f.ft = Fmt.fromOperand then
          FormedAs blankToken Fmt.raw 0xFFFF false 0x7F t ∧ Lanes t fun _ => BitVec.ofInt 32 f.imm.toInt
        else
          FormedAs blankToken f.ft 0xFFFF false 0x7F t ∧
            ∀ i j, i < 16 → j < perLane f.ft →
              elemAt f.ft t i j = ((if intSigned f.ft then f.imm.toInt else (f.imm.toNat : Int)) % 2 ^ fmtWidth f.ft).toNat) ∧
    ∀ a, f.mod = 1 → o.a = some a → Checked (.imm f) s u [wantA f a isIntFmt]
      (Gives (.imm f) f s u scalar fun t fl =>
        let tag := if a.fmt = Fmt.ptr then resTag f a else a.fmt
        Formed a tag (pairValid tag a.valid) a.poison t ∧ fl = noFlags ∧
          Lanes t fun i => BitVec.ofNat 32 (f.imm.toNat * 2 ^ 16 + (laneAt a i).toNat % 2 ^ 16))

/-- 05 R121-R123, R128, R131: MOV and STEER give A as it is; STEERL its lanes parted by `LP`; NULLT no lane of it; SETTAG
it with `TAG` from `IMM`; SBGET a field of its sideband; NOP does nothing. -/
def Obligations.TokensCarriedAndSidebands : Prop :=
  (∀ i code f, (i, code) = (.mov f, 0x008) ∨ (i, code) = (.steer f, 0x00A) → wellFormed i = true →
    ∀ s u scalar o a, Executes code .any f s u scalar o → o.a = some a →
      Checked i s u [carriedTag 0 f a] (exec i s = .next (executed s u f scalar (.one (.data a)) noFlags))) ∧
  (∀ f s u scalar o a p, wellFormed (.steerl f) = true → Executes 0x00B .any f s u scalar o → o.a = some a → o.p = some p →
    Checked (.steerl f) s u [unless_ (a.kind = 0) 0 a, carriedTag 0 f a]
      (GivesTwo (.steerl f) f s u scalar fun t x fl => fl = noFlags ∧
        FormedAs a a.fmt (pairValid a.fmt (a.valid &&& p.lp)) (a.poison || p.poison) a.scale { t with seq := 0, bhead := false } ∧
        FormedAs a a.fmt (pairValid a.fmt (a.valid &&& ~~~p.lp)) (a.poison || p.poison) a.scale { x with seq := 0, bhead := false } ∧
        Lanes t (fun k => laneAt a k &&& spareMask a.fmt) ∧ Lanes x (fun k => laneAt a k &&& spareMask a.fmt))) ∧
  (∀ f s u scalar o a, wellFormed (.nullt f) = true → Executes 0x00F .any f s u scalar o → o.a = some a →
    exec (.nullt f) s = .next (executed s u f scalar (.one (.data { a with
      valid := 0, lanes := Vector.replicate 16 0, bounds := Vector.replicate 8 0 })) noFlags)) ∧
  (∀ f s u scalar o a, wellFormed (.settag f) = true → Executes 0x010 .any f s u scalar o → o.a = some a →
    if a.kind = Kind.codebook then
      exec (.settag f) s = .next (if f.ft = Fmt.fromOperand ∨ f.ft = Fmt.cb4 ∨ f.ft = Fmt.cb4s then
          executed s u f scalar (.one (.data { a with
            tag := f.imm.extractLsb' 0 8, fmt := if f.ft = Fmt.fromOperand then a.fmt else f.ft })) noFlags
        else trapped s u (fmtTrap 0 a.fmt))
    else Checked (.settag f) s u [wantA f a someFormat]
      (Gives (.settag f) f s u scalar fun t fl => fl = noFlags ∧
        FormedAs { a with tag := f.imm.extractLsb' 0 8 } (resTag f a) (pairValid (resTag f a) a.valid) a.poison a.scale
          { t with seq := 0, bhead := false } ∧
        Lanes t fun k => laneAt a k &&& spareMask (resTag f a))) ∧
  (∀ f s u scalar o a, wellFormed (.sbget f) = true → Executes 0x011 .any f s u scalar o → o.a = some a →
    Gives (.sbget f) f s u scalar fun t fl => fl = noFlags ∧ FormedAs a Fmt.uint32 0xFFFF a.poison 0x7F t ∧
      Lanes t fun _ =>
        if f.mod = 0 then a.valid.zeroExtend 32
        else if f.mod = 1 then
          BitVec.ofNat 32 (a.fmt.toNat + 2 ^ 5 * a.kind.toNat + 2 ^ 8 * a.poison.toNat + 2 ^ 9 * a.bhead.toNat)
        else if f.mod = 2 then a.scale.zeroExtend 32
        else BitVec.ofNat 32 (a.seq.toNat + 2 ^ 22 * a.tag.toNat)) ∧
  ∀ f s u scalar o, wellFormed (.nop f) = true → Executes 0x012 .any f s u scalar o → Does (.nop f) f s u scalar s

/-- 05 R129: MERGE is nullified when both slots are null; gives the one value of A and B; traps `ILLOP` on two. -/
def Obligations.MergeTakesTheOneValue : Prop :=
  ∀ f s u, wellFormed (.merge f) = true →
    (Awaits 0x00C f s u → readSlot u 0 = .null → readSlot u 1 = .null → exec (.merge f) s = .next (nulled s u f)) ∧
    ∀ scalar o, Executes 0x00C .merge f s u scalar o →
      (∀ a, o.a = some a → o.b = none → Checked (.merge f) s u [carriedTag 0 f a]
        (exec (.merge f) s = .next (executed s u f scalar (.one (.data a)) noFlags))) ∧
      (∀ b, o.a = none → o.b = some b → Checked (.merge f) s u [carriedTag 1 f b]
        (exec (.merge f) s = .next (executed s u f scalar (.one (.data b)) noFlags))) ∧
      (o.a.isSome → o.b.isSome → exec (.merge f) s = .next (trapped s u illop))

/-- 02 R43, R49, R50, 05 R125, R127, R130, R132: WRP, SENDT, WRS, CARRY, INVAR and EXIT note in the firing what its
retirement sends, writes and takes: one token a port, one write a register, one exit; a second traps `ILLOP`. -/
def Obligations.SendsWritesAndExitWaitForRetirement : Prop :=
  (∀ f s u scalar o a k c, wellFormed (.wrp f) = true → Executes 0x005 .any f s u scalar o → o.a = some a →
    (arcsFrom s u.cell f.imm.toNat).head? = some (k, c) →
    Checked (.wrp f) s u [carriedTag 0 f a, if c.isPred then unless_ (a.kind = 0 ∧ a.fmt = Fmt.pred) 0 a else none]
      (∃ v, SendsOnce (.wrp f) f s u scalar f.imm.toNat v ∧
        if c.isPred then ∃ p, v = .pred p ∧ PredOf a p else v = .data a)) ∧
  (∀ f s u scalar o a k c, wellFormed (.sendt f) = true → Executes 0x007 .any f s u scalar o → o.a = some a →
    (arcsFrom s u.cell f.imm.toNat).head? = some (k, c) → c.isPred = false →
    Checked (.sendt f) s u [
        if f.mod = 2 then
          unless_ (a.kind = 0 ∧ (a.fmt = Fmt.bf16 ∨ a.fmt = Fmt.ptr) ∧ a.valid.extractLsb' 0 8 = 0xFF) 0 a
        else wantWord 0 a]
      (∃ t, SendsOnce (.sendt f) f s u scalar f.imm.toNat (.data t) ∧ t.poison = a.poison ∧ t.bhead = false ∧
        t.scale = 0x7F ∧ t.tag = 0 ∧
        if f.mod = 2 then t.kind = Kind.codebook ∧ t.fmt = Fmt.cb4 ∧ t.valid = 0x00FF ∧
          ∀ k, k < 16 → laneAt t k = if k < 8 then laneAt a k else 0
        else t.fmt = Fmt.raw ∧ t.valid = 1 ∧
          (if f.mod = 1 then t.kind = Kind.steering else t.kind = Kind.endOfReduction) ∧
          ∀ k, k < 16 → laneAt t k =
            if k = 0 then (if f.mod = 1 then BitVec.ofNat 32 ((laneAt a 0).toNat % 8) else laneAt a 0) else 0)) ∧
  (∀ f s u scalar o a, wellFormed (.wrs f) = true → Executes 0x006 .any f s u scalar o → o.a = some a →
    Checked (.wrs f) s u [carriedTag 0 f a] (WritesOnce (.wrs f) f s u scalar f.imm.toNat a .none)) ∧
  (∀ f s u scalar o a, wellFormed (.carry f) = true → Executes 0x00D .any f s u scalar o → o.a = some a →
    Checked (.carry f) s u [carriedTag 0 f a]
      (match RegToken f u f.imm.toNat with
       | .ok t => WritesOnce (.carry f) f s u scalar f.imm.toNat a (.one (.data t))
       | .error e => exec (.carry f) s = .next (trapped s u e))) ∧
  (∀ f s u scalar o, wellFormed (.invar f) = true → Executes 0x00E .invar f s u scalar o →
    match o.a with
    | none => exec (.invar f) s = .next (match RegToken f u f.imm.toNat with
      | .ok t => executed s u f scalar (.one (.data t)) noFlags
      | .error e => trapped s u e)
    | some a => Checked (.invar f) s u
      [carriedTag 0 f a, (u.t.sregs.toList[f.imm.toNat]?).join.bind fun t => givenTag 0 f t]
      (WritesOnce (.invar f) f s u scalar f.imm.toNat a (.one (.data a)))) ∧
  ∀ f s u scalar o, wellFormed (.exit f) = true → Executes 0x009 .any f s u scalar o →
    exec (.exit f) s = .next (if u.fr.exit.isSome then trapped s u illop
      else executed (modFiring s u.key fun fr => { fr with exit := some (f.imm.extractLsb' 0 2).toNat }) u f scalar .none noFlags)

/-! ### Matrix cells and accumulator nodes (06 R166-R198) -/

namespace Sys2Proof.Claims

/-- The products that R182 adds in column `n`, and the lane of the chain token where it is valid. -/
def rowProducts (m : MState) (r : Row) (n : Nat) : List Machine.Num :=
  ((List.range (rowK r.a.fmt m.active.fmt)).filterMap fun k =>
    (rowElem r.a k).map fun x => mulNum (matNum r.a.fmt r.a.scale r.codebook x) (weightNum m.active m.cbB k n)) ++
  ((chainLane r n).map fun x => decodeNum .fp32 x.toNat).toList

def rowIntegers (m : MState) (r : Row) (n : Nat) : List Int :=
  ((List.range (rowK r.a.fmt m.active.fmt)).filterMap fun k =>
    (rowElem r.a k).map fun x => intOf r.a.fmt x * weightInt m.active k n) ++
  ((chainLane r n).map fun x => x.toInt).toList

/-- 06 R182: what a column of a row holds: one correctly rounded sum of all its terms, or the wrapped integer sum. -/
def ColumnIs (m : MState) (r : Row) (n : Nat) (x : Lane) : Prop :=
  if isIntGroup r.a.fmt then x = BitVec.ofInt 32 (rowIntegers m r n).sum
  else
    let l := rowProducts m r n
    let v := roundedTo .fp32 .rne ((l.map real).sum)
    if l.any (·.isNan) ∨ .inf false ∈ l ∧ .inf true ∈ l then x = 0x7FC00000
    else if .inf false ∈ l then x = 0x7F800000
    else if .inf true ∈ l then x = 0xFF800000
    else if (l.map real).sum = 0 then x = 0
    else if real (decodeNum .fp32 FpFmt.fp32.maxFin) < |v| then x = if 0 < v then 0x7F800000 else 0xFF800000
    else real (decodeNum .fp32 x.toNat) = v ∧ (v = 0 → x = if 0 < (l.map real).sum then 0 else 0x80000000)

/-- A register of the tile as the firing found it; an unset one reads as an FP32 zero (05 R122). -/
def tileAt (u : Cur) (k : Nat) : Token :=
  ((u.t.sregs.toList[k]?).join).getD
    ⟨Vector.replicate 16 0, 0xFFFF, Fmt.fp32, 0, false, false, 0x7F, 0, 0, Vector.replicate 8 0⟩

/-- 06 R192. -/
def tmBase (f : Fields) : Nat := (f.imm.extractLsb' 0 4).toNat
def tmSize (f : Fields) : Nat := (f.imm.extractLsb' 4 4).toNat + 1

/-- The firing with writes, a deferred effect and an exit added. -/
def noted (s : State) (u : Cur) (ws : List (Nat × Token)) (d : Deferred) (e : Option Nat) : State :=
  modFiring s u.key fun fr => { fr with
    writes := fr.writes ++ ws, deferred := fr.deferred ++ [(u.ins, d)], exit := if e.isSome then e else fr.exit }

end Sys2Proof.Claims

/-- 06 R170, R174-R181, R187, R189, R190: the matrix instructions leave their effect to the retirement: MLDS once every
lower instruction of the block is done, against the fill count it then sees; a poisoned route operand is a control use. -/
def Obligations.MatrixInstructionsDefer : Prop :=
  (∀ f s u scalar o a, wellFormed (.mlds f) = true → Executes 0x0E0 .any f s u scalar o → o.a = some a →
    Checked (.mlds f) s u [wantTag 0 a f.ft]
      (if (List.range u.ins).all (u.fr.done.contains ·) then
        let p := (matSeen u).shadow
        Checked (.mlds f) s u [if p.toks.length ≥ 64 then some illop else none, unless_ (p.fmt = none ∨ p.fmt = some f.ft) 0 a]
          (Defers (.mlds f) f s u scalar (.loadPlane { a with fmt := f.ft }))
       else exec (.mlds f) s = .next s)) ∧
  (∀ f s u scalar o, wellFormed (.mswap f) = true → Executes 0x0E1 .any f s u scalar o →
    Defers (.mswap f) f s u scalar .swapPlanes) ∧
  (∀ f s u scalar o, wellFormed (.mclr f) = true → Executes 0x0EB .any f s u scalar o →
    Defers (.mclr f) f s u scalar .clearShadow) ∧
  (∀ f s u scalar o a, wellFormed (.mcbl f) = true → Executes 0x0E4 .any f s u scalar o → o.a = some a →
    Checked (.mcbl f) s u [unless_ (a.kind = Kind.codebook ∧ a.fmt = f.ft) 0 a]
      (Defers (.mcbl f) f s u scalar (.loadCodebook (f.mod = 1) f.ft a.lanes))) ∧
  (∀ i code f chain, (i, code, chain) = (.mrow f, 0x0E2, none) ∨
      (i, code, chain) = (.mrowc f, 0x0E3, some (f.imm.extractLsb' 4 3).toNat) → wellFormed i = true →
    ∀ s u scalar o a port, Executes code .any f s u scalar o → o.a = some a →
      port = (if f.imm.getLsbD 3 then currentRoute u.c.mat else some (f.imm.extractLsb' 0 3).toNat) →
      match port with
      | none => exec i s = .next (trapped s u illop)
      | some p => Checked i s u [wantTag 0 a f.ft, unless_ (rowMeets u.c.mat f.ft) 0 a]
        (Defers i f s u scalar (.issueRow ⟨{ a with fmt := f.ft }, chain, p⟩))) ∧
  (∀ f s u scalar o a, wellFormed (.rtset f) = true → Executes 0x0ED .any f s u scalar o → o.a = some a →
    if a.poison then exec (.rtset f) s = .next (controlUse s u)
    else Checked (.rtset f) s u [wantIn 0 a fun g => g == Fmt.uint32 || g == Fmt.int32,
        if ∃ e ∈ List.range 8, a.valid.getLsbD e = true ∧ ((laneAt a e).toNat ≥ 16 ∨ (laneAt a e).getLsbD 3 = true ∧
          onDataArc s u.cell ((laneAt a e).toNat % 8) = false) then some illop else none]
      (∃ es, Defers (.rtset f) f s u scalar (.setRoutes es) ∧
        es = ((List.range 8).filter fun e => a.valid.getLsbD e).map fun e => (e, (laneAt a e).extractLsb' 0 4))) ∧
  (∀ f s u scalar o a, wellFormed (.route f) = true → Executes 0x0E9 .any f s u scalar o → o.a = some a →
    Checked (.route f) s u [unless_ (a.kind = Kind.steering ∧ (f.ft = Fmt.fromOperand ∨ f.ft = Fmt.raw)) 0 a]
      (if a.poison then exec (.route f) s = .next (controlUse s u)
       else ∀ e : Fin 8, e.val = ((laneAt a 0).extractLsb' 0 3).toNat →
        if u.c.mat.routes[e].getLsbD 3 then Defers (.route f) f s u scalar (.routeTo e)
        else exec (.route f) s = .next (trapped s u illop))) ∧
  ∀ f s u scalar o, wellFormed (.mstat f) = true → Executes 0x0EA .any f s u scalar o →
    Gives (.mstat f) f s u scalar fun t fl => fl = noFlags ∧ FormedAs blankToken Fmt.uint32 0xFFFF false 0x7F t ∧
      Lanes t fun _ =>
        if f.mod = 0 then u.c.mat.nRows else if f.mod = 1 then u.c.mat.nZero else if f.mod = 2 then u.c.mat.nNarrow
        else BitVec.ofNat 32 u.c.mat.rows.length

/-- 06 R182-R184: a row takes token *q* of its chain before it sends its token *q*; each token sent holds sixteen columns,
each one correctly rounded sum of all its terms, or the exact integer sum wrapped. -/
def Obligations.RowsGiveExactSums : Prop :=
  (∀ s c r k a, s.args.k = 0 → tget s.cells s.args.i = some c → cellRuns s s.args.i = true → c.mat.rows[s.args.j]? = some r →
    r.sent < 4 → (∀ x ∈ c.mat.rows.take s.args.j, x.outPort ≠ r.outPort) → (r.chainPort = none ∨ r.sent < r.taken.length) →
    outArc s s.args.i r.outPort = some (k, a) → 0 < arcRoom s k a → a.ports.pClosed = false →
    ∃ t, exec .rowOutputSend s = .next (touchCell (offer (modMat s s.args.i fun m => { m with
          rows := m.rows.modify s.args.j fun x => { x with sent := x.sent + 1, lastSeq := a.ports.pSeq, lastArc := k } }) k (.data t) none)
        s.args.i) ∧
      t.kind = 0 ∧ t.valid = 0xFFFF ∧ t.scale = 0x7F ∧ t.tag = r.a.tag + BitVec.ofNat 8 r.sent ∧
      t.fmt = (if isIntGroup r.a.fmt then Fmt.int32 else Fmt.fp32) ∧
      t.poison = (r.a.poison || c.mat.active.poison || (r.taken.take (r.sent + 1)).any (·.poison)) ∧
      ∀ i, i < 16 → ColumnIs c.mat r (16 * r.sent + i) (laneAt t i)) ∧
  ∀ s c r p k a h t, tget s.cells s.args.i = some c → cellRuns s s.args.i = true → c.mat.rows[s.args.j]? = some r →
    r.chainPort = some p → r.taken.length < 4 →
    (∀ x ∈ c.mat.rows.take s.args.j, x.chainPort = some p → 4 ≤ x.taken.length) →
    inArc s s.args.i p = some (k, a) → tget s.arcs k = some a → a.ports.awaiting = none → a.queue.head? = some h →
    h.held = true → h.ecc = .good → h.item = .data t → t.kind = 0 →
    t.fmt = (if isIntGroup r.a.fmt then Fmt.int32 else Fmt.fp32) →
    exec .rowChainTake s = .next (giveUp (modMat s s.args.i fun m => { m with
      rows := m.rows.modify s.args.j fun r => { r with taken := r.taken ++ [t] } }) k)

/-- 06 R192-R198: ACC and ACCN add A's valid lanes into one register of the tile; EOR checks the count and readies it;
ACCREL queues the tile for the port that its route word names and clears it; ACCRD reads one register; the head of a task's
queue goes once the cell queued nothing for its port before it. An accumulator state that reads poisoned is a control use, and a
mode word that does poisons what is rounded under it (16 R404, R409). -/
def Obligations.AccumulatorTile : Prop :=
  (∀ i code f, (i, code) = (.acc f, 0x0E5) ∨ (i, code) = (.accn f, 0x0E6) → wellFormed i = true →
    ∀ s u scalar o a, Executes code .any f s u scalar o → o.a = some a →
      if a.kind = Kind.endOfReduction then Does i f s u scalar s
      else
        let j := tmBase f + (if code = 0x0E6 then a.tag.toNat else u.t.acnt.toNat) % tmSize f
        let c := byMod f u .fp32
        let sum (k : Nat) := store c (addNum c.mode (valueOf c (laneAt (tileAt u j) k).toNat) (valueOf c (laneAt a k).toNat))
        Checked i s u [wantTag 0 a Fmt.fp32] (if .acc ∈ u.t.spoilt then exec i s = .next (controlUse s u) else
          Checked i s u [if u.t.rdy then some (trapOf .predCount) else none,
            if j ∈ u.fr.writes.map (·.1) then some illop else none]
          (∃ r fl, exec i s = .next (executed (noted s u [(j, r)] .accumulate none) u f scalar .none fl) ∧
            FormedAs r (tileAt u j).fmt (pairValid (tileAt u j).fmt (tileAt u j).valid) ((tileAt u j).poison || a.poison || .mode ∈ u.t.spoilt)
              (tileAt u j).scale
              { r with seq := 0, bhead := false, kind := 0 } ∧
            Lanes r (fun k => (if a.valid.getLsbD k then BitVec.ofNat 32 (sum k).1 else laneAt (tileAt u j) k) &&&
              spareMask (tileAt u j).fmt) ∧
            ∀ k, (h : k < 16) → fl[k] = if a.valid.getLsbD k then (sum k).2 else 0))) ∧
  (∀ f s u scalar o a, wellFormed (.eor f) = true → Executes 0x0E7 .any f s u scalar o → o.a = some a →
    let e := if f.imm.getLsbD 2 then some (f.imm.extractLsb' 0 2).toNat else none
    if a.kind = 0 then Does (.eor f) f s u scalar s
    else Checked (.eor f) s u [unless_ (a.kind = Kind.endOfReduction) 0 a]
      (if a.poison ∨ .acc ∈ u.t.spoilt then exec (.eor f) s = .next (controlUse s u)
       else Checked (.eor f) s u [if u.t.rdy ∨ laneAt a 0 ≠ u.t.acnt then some (trapOf .predCount) else none,
          if e.isSome ∧ u.fr.exit.isSome then some illop else none]
        (exec (.eor f) s = .next (executed (noted s u [] (.readyTile a.poison) e) u f scalar .none noFlags)))) ∧
  (∀ f s u scalar o a, wellFormed (.accrel f) = true → Executes 0x0E8 .any f s u scalar o → o.a = some a →
    let rw := constAt u (f.imm.extractLsb' 8 4).toNat
    let e := ((laneAt a 0).extractLsb' 0 3).toNat
    let port := rw.toNat / 2 ^ (3 * e) % 8
    let regs := (List.range (tmSize f)).map fun k => tmBase f + k
    Checked (.accrel f) s u [unless_ (a.kind = Kind.steering) 0 a]
      (if a.poison ∨ .acc ∈ u.t.spoilt then exec (.accrel f) s = .next (controlUse s u)
       else Checked (.accrel f) s u [if u.t.rdy then none else some (trapOf .predCount),
          if rw.getLsbD (24 + e) ∧ onDataArc s u.cell port = false then some illop else none,
          if ∃ k ∈ regs, k ∈ u.fr.writes.map (·.1) then some illop else none]
        (∃ toks fl, exec (.accrel f) s = .next (executed
            (noted s u (regs.map fun k => (k, { blankToken with fmt := Fmt.fp32 }))
              (.releaseTile (tmBase f) (tmSize f) (if rw.getLsbD (24 + e) then some port else none) toks) none)
            u f scalar .none fl) ∧
          (rw.getLsbD (24 + e) = false → fl = noFlags) ∧
          (f.ft = Fmt.fp32 → fl = noFlags ∧ toks.length = tmSize f ∧
            ∀ k, (h : k < toks.length) → toks[k] = { tileAt u (tmBase f + k) with
              kind := 0, scale := 0x7F, bhead := false, seq := 0, tag := BitVec.ofNat 8 k
              poison := (tileAt u (tmBase f + k)).poison || u.t.prl }) ∧
          (f.ft = Fmt.bf16 → toks.length = tmSize f / 2 ∧
            let from_ (k n : Nat) : Token := tileAt u (tmBase f + 2 * k + n / 16)
            let ok (k i : Nat) : Bool :=
              (from_ k (2 * i)).valid.getLsbD (2 * i % 16) && (from_ k (2 * i)).valid.getLsbD (2 * i % 16 + 1)
            let c := byMod f u .bf16
            let el (k n : Nat) := store c (flushNum c.ftz .fp32 (decodeNum .fp32 (laneAt (from_ k n) (n % 16)).toNat))
            (∀ k, (h : k < toks.length) → toks[k].fmt = Fmt.bf16 ∧ toks[k].kind = 0 ∧ toks[k].scale = 0x7F ∧
              toks[k].tag = BitVec.ofNat 8 k ∧ toks[k].poison = ((from_ k 0).poison || (from_ k 16).poison || u.t.prl || .mode ∈ u.t.spoilt) ∧
              ∀ i, i < 16 → toks[k].valid.getLsbD i = ok k i ∧
                laneAt toks[k] i = if ok k i then BitVec.ofNat 32 ((el k (2 * i)).1 + 2 ^ 16 * (el k (2 * i + 1)).1) else 0) ∧
            (rw.getLsbD (24 + e) = true → ∀ i, (h : i < 16) → fl[i] = (List.range (tmSize f / 2)).foldl
              (fun x k => x ||| if ok k i then (el k (2 * i)).2 ||| (el k (2 * i + 1)).2 else 0) 0))))) ∧
  (∀ f s u scalar o a, wellFormed (.accrd f) = true → Executes 0x0EC .any f s u scalar o → o.a = some a →
    let r := tileAt u (tmBase f + (laneAt a 0).toNat % tmSize f)
    Checked (.accrd f) s u [wantWord 0 a, unless_ (r.fmt = Fmt.fp32) 0 r]
      (exec (.accrd f) s = .next (executed s u f scalar (.one (.data r)) noFlags))) ∧
  ∀ s t port tok level q rest n a, tget s.tasks (s.args.i, s.args.j) = some t → t.relq = (port, tok, level, q) :: rest →
    (∀ x ∈ s.tasks, x.1.1 = s.args.i → ∀ e ∈ x.2.relq, e.1 = port → q ≤ e.2.2.2) →
    outArc s s.args.i port = some (n, a) → cellRuns s s.args.i = true → 0 < arcRoom s n a → a.ports.pClosed = false →
    exec .releaseQueueSend s = .next (touchCell
      (offer (setTask s (s.args.i, s.args.j) { t with relq := rest }) n (.data tok) level) s.args.i)

/-! ### Loads, stores, atomics and order (09 R233-R252, 10 R260-R285) -/

namespace Sys2Proof.Claims

/-- 09 R233: what reading the segments of an access gives, each byte with its unit's tag bit, and whether a granule is
poisoned: each segment from its home, or, for a plain load, from the page's line buffer, as it was or filled from the home. -/
def ReadOf (s : State) (page : Nat) (plain : Bool) : List Seg → List (Byte × Bool) → Bool → Prop
  | [], bs, po => bs = [] ∧ po = false
  | g :: r, bs, po => ∃ x p y q, bs = x ++ y ∧ po = (p || q) ∧ ReadOf s page plain r y q ∧
    ((x = (List.range g.len).map (fun k => (byteOf s g.space (g.addr + k), tagAt (memOf s g.space) (g.addr + k))) ∧
        p = poisonAt (memOf s g.space) g.addr) ∨
      (plain = true ∧ g.space = .phys ∧ ∃ l, (lineHeld s page (g.addr / 64) = some l ∨ l = freshLine s.phys (g.addr / 64)) ∧
        x = lineBytes l g ∧ p = l.poisoned))

/-- 04 R104: through an entry, the format is the entry's. -/
def entryChecks (m : Fmt) (e : Option RangeEntry) : Option TrapInfo :=
  e.bind fun x => if rgFmt x = m then none else some (fmtTrap 0 (rgFmt x))

/-- A cell's accesses may perform now: no earlier operation holds them back and their homes take them (R235, R236, R237, R252,
R262), and they stand behind no outbound queue (R249). -/
abbrev performs (s : State) (u : Cur) (accs : List (List Seg)) : Prop :=
  mayPerform s u accs = true ∧ behindOutbound s accs.flatten = false

/-- In this turn only the next of `n` accesses left performs (R231, R271; that turns may be so short is LOG 33, DESIGN CHOICE). -/
abbrev onlyOne (s : State) (n : Nat) : Prop := s.focus.map (·.guardHit) = some .piece ∧ 2 ≤ n

/-- A load whose accesses are `accs`, each the places that it reads at once (R208, R232), and then `sc` for its scale byte (LOG 33,
DESIGN CHOICE), of which `partOf u` says what earlier turns have read: it waits while an earlier operation holds it back, then makes the
next access, or all that are left, changes no memory, and when all are made gives its token, or traps on what it read. -/
def Loads (i : Instr) (f : Fields) (s : State) (u : Cur) (scalar plain rel : Bool) (accs : List (List Seg)) (sc : List Seg)
    (bad : List (Byte × Bool) → Option TrapInfo) (tok : List (Byte × Bool) → BitVec 8 → Bool → Token → Prop) : Prop :=
  let d := partOf u
  let rest := (accs ++ eachSeg sc).drop d.count
  let n := (accs.flatten.map (·.len)).sum
  if rel = true ∧ unperformed s u.key ≠ [] then exec i s = .next s
  else if onlyOne s rest.length then
    if performs s u (rest.take 1) then
      ∃ z bs po, ReadOf s u.c.page (plain && decide (d.count < accs.length)) (rest.take 1).flatten bs po ∧ exec i s = .next z ∧ (∀ sp, memOf z sp = memOf s sp) ∧
        z.cells = s.cells ∧ z.arcs = s.arcs ∧
        z.tasks = (keepPart s u { d with count := d.count + 1, bytes := d.bytes ++ bs, poisoned := d.poisoned || po }).tasks
    else exec i s = .next s
  else if performs s u rest then
    ∃ z new po ss pz, ReadOf s u.c.page plain (accs.drop d.count).flatten new po ∧
      ReadOf s u.c.page false ((eachSeg sc).drop (d.count - accs.length)).flatten ss pz ∧
      (∀ sp, memOf z sp = memOf s sp) ∧ z.tasks = s.tasks ∧ z.cells = s.cells ∧ z.arcs = s.arcs ∧
      let bs := d.bytes ++ new ++ ss
      match bad (bs.take n) with
      | some e => exec i s = .next (trapped s u e)
      | none => ∃ t, exec i s = .next (executed z u f scalar (.one (.data t)) noFlags) ∧
        tok (bs.take n) (((bs.drop n).head?.map (·.1)).getD 0x7F) (d.poisoned || po || pz) t
  else exec i s = .next s

/-- 10 R265: the element word. -/
def wordOf (m : Fmt) : Nat := if m = Fmt.ptr then 16 else if m = Fmt.int64 then 8 else 4

/-- 10 R272: a stride that is no multiple of the element word, though every element is aligned to it, is misaligned at its first
element (LOG 20, DEDUCED). -/
def strideCheck (m : Fmt) (ea : Nat) (st : Int) (els : List (Nat × Nat)) : Option TrapInfo :=
  if st % wordOf m = 0 ∨ ∃ x ∈ els, x.2 % wordOf m ≠ 0 then none
  else some ⟨.align, 0, (els.headD (0, ea)).1, (els.headD (0, ea)).2, 0⟩

/-- 10 R264, R265, 04 R104, 15 R382: the elements of an access, each an access of its own, are checked one after the other: the
lowest that fails is named, `ALIGN` where it is not aligned to its element word, and, past the checks of its base, as `cover`
gives where the entry that covers it may not be used; past all of them the access goes on from their places. -/
def PerElement (i : Instr) (s : State) (u : Cur) (p : Party) (b : Base) (need : Need) (m : Fmt)
    (cover : Option RangeEntry → Option TrapInfo) (els : List (Nat × Nat)) (body : List (Nat × List Seg) → Prop) : Prop :=
  let plan := planElems s p b need (wordOf m) cover
  (∀ x post pre l, els = pre ++ x :: post → plan pre = .ok l →
    (x.2 % wordOf m ≠ 0 → exec i s = .next (trapped s u ⟨.align, 0, x.1, x.2, 0⟩)) ∧
    (x.2 % wordOf m = 0 → ∀ g e, spanOf s p b need x.2 (wordOf m) = .ok g → cover (entryAt s p x.2) = some e →
      exec i s = .next (trapped s u e))) ∧
  ∀ l, plan els = .ok l → body l

/-- What was read for byte `k` of a run, whose pieces lie where their segments say. -/
def runByte : List Seg → List (Byte × Bool) → Nat → Byte × Bool
  | [], _, _ => (0, false)
  | g :: r, bs, k => if g.off ≤ k ∧ k < g.off + g.len ∧ k - g.off < bs.length then bs.getD (k - g.off) (0, false)
    else runByte r (bs.drop g.len) k

/-- The elements of a strided access, at EA + j × stride (10 R272). -/
def strideElems (ea : Nat) (st : Int) (els : List Nat) : List (Nat × Nat) :=
  els.map fun (j : Nat) => (j, (((ea : Int) + (j : Int) * st) % 2 ^ 57).toNat)

/-- 10 R269: EA := base + 64 × `OFF` + *c*, wrapping at 2^57. -/
def effective (f : Fields) (b : Base) (c : Option Token) : Nat :=
  (((b.addr : Int) + 64 * ((f.imm.extractLsb' 6 13).toNat : Int) +
    match c with | some t => signedOf 64 (pairAt t 0) | none => 0) % 2 ^ 57).toNat

/-- 04 R104, 10 R459: the format of an access: `FT`; under 0x1F the covering entry's, or `dflt`. -/
def accessFmt (f : Fields) (e : Option RangeEntry) (dflt : Fmt) : Fmt :=
  if f.ft = Fmt.fromOperand then (e.map rgFmt).getD dflt else f.ft


/-- No operand of these is poisoned (16 R409), and a slot C that holds an offset is an INT64 with element 0 valid. -/
def soundOffset (c : Option Token) : Prop := ∀ t, c = some t → t.poison = false ∧ wantOffset 3 t = none

/-- Byte `a` of a place takes `v` whole, from the data of an element: the elements `l`, each with its places. -/
def StoredAt (l : List (Nat × List Seg)) (data : Nat → List Byte) (sp : Space) (a : Nat) (m v : Byte) : Prop :=
  m = 0xFF ∧ ∃ x ∈ l, ∃ g ∈ x.2, sp = g.space ∧ g.addr ≤ a ∧ a < g.addr + g.len ∧ (data x.1)[g.off + (a - g.addr)]? = some v

/-- A store: once earlier operations allow a release, it goes on, and leaves to be performed writes of exactly these bits
of these bytes (place, address, mask, value), with these tag units, poisoned as its data; until then it waits (09 R237, R239,
R245, 10 R262, R267, R268). -/
def Stores (i : Instr) (f : Fields) (s : State) (u : Cur) (scalar po drops : Bool) (byte : Space → Nat → Byte → Byte → Prop)
    (unit : Space → Nat → Prop) : Prop :=
  if (f.mod = 2 ∨ f.mod = 3) ∧ quiet s u (f.imm.extractLsb' 0 3).toNat = false then exec i s = .next s
  else ∃ ws : List Write,
    exec i s = .next (executed (addPending s u f (f.mod = 1 ∨ f.mod = 3) (ws.map .write)) u f scalar .none noFlags) ∧
    (∀ w ∈ ws, w.poisoned = po ∧ w.drops = drops) ∧
    (∀ sp a m v, (∃ w ∈ ws, w.space = sp ∧ ⟨a, m, v⟩ ∈ w.patches) ↔ byte sp a m v) ∧
    ∀ sp k, (∃ w ∈ ws, w.space = sp ∧ k ∈ w.tagUnits) ↔ unit sp k

/-- The units that receive valid pointers. -/
def ptrUnit (m : Fmt) (d : Token) (l : List (Nat × List Seg)) (sp : Space) (k : Nat) : Prop :=
  m = Fmt.ptr ∧ d.fmt = Fmt.ptr ∧ ∃ x ∈ l, ∃ g ∈ x.2, sp = g.space ∧ k = g.addr / 16

/-- The bytes of element `j` of a data operand in memory (R10, 15 R381). -/
def elementBytes (m : Fmt) (d : Token) (j : Nat) : List Byte :=
  if m = Fmt.ptr then natLe 8 (pairAt d j) ++ natLe 8 (boundAt d j).toNat
  else if m = Fmt.int64 then natLe 8 (pairAt d j) else natLe 4 (laneAt d j).toNat

/-- 10 R275: the tag of a store's data operand against `FT`. -/
def dataTag (f : Fields) (slot : Nat) (d : Token) : Option TrapInfo :=
  unless_ (d.kind = 0 ∧ (f.ft = Fmt.fromOperand ∨ d.fmt = f.ft ∨ d.fmt = Fmt.ptr)) slot d

/-- 10 R275, R459: through an entry, a store's format and the tag of its data are the entry's. -/
def coverChecks (m : Fmt) (slot : Nat) (d : Token) (e : Option RangeEntry) : Option TrapInfo :=
  match e with
  | none => none
  | some x => if rgFmt x ≠ m then some (fmtTrap 0 (rgFmt x)) else unless_ (d.fmt = m ∨ d.fmt = Fmt.ptr) slot d

/-- 10 R281: the atomics' operations, and what each writes for the value it reads. -/
def atomicOp : Instr → Option AtomicOp
  | .aadd _ => some .add | .amin _ => some .min | .amax _ => some .max | .aand _ => some .and | .aor _ => some .or
  | .axor _ => some .xor | .axchg _ => some .xchg | .acas _ => some .cas | .atas _ => some .one | .afadd _ => some .fadd
  | .ainc _ => some .inc | .adec _ => some .dec | .afmin _ => some .fmin | .afmax _ => some .fmax
  | _ => none

def atomicValue (op : AtomicOp) (m : Fmt) (old b c : Nat) : Option Nat :=
  let g := (fpFmt m).getD .fp32
  match op with
  | .add => some (wrapInt m (intOf m old + intOf m b))
  | .min => some (wrapInt m (min (intOf m old) (intOf m b)))
  | .max => some (wrapInt m (max (intOf m old) (intOf m b)))
  | .and => some (old &&& b)
  | .or => some (old ||| b)
  | .xor => some (old ^^^ b)
  | .xchg => some b
  | .cas => if old = b then some c else none
  | .one => some 1
  | .inc => some (wrapInt m (intOf m old + 1))
  | .dec => some (wrapInt m (intOf m old - 1))
  | .fadd => some (store ⟨g, .rne, false, false⟩ (addNum .rne (decodeNum g old) (decodeNum g b))).1
  | .fmin => some (fpMin false ⟨g, .rne, false, false⟩ old b).1
  | .fmax => some (fpMin true ⟨g, .rne, false, false⟩ old b).1

/-- A place that exists: its page, or its instance. -/
def placeExists (s : State) (sp : Space) : Prop :=
  match sp with
  | .phys => True
  | .window p => (tget s.pages p).isSome = true
  | .symbols i => (tget s.instances i).isSome = true

/-- Operand `t` of element `j` of an atomic (10 R280). -/
def atomicArg (m : Fmt) (t : Option Token) (j : Nat) : BitVec 64 :=
  match t with
  | none => 0
  | some x => BitVec.ofNat 64 (if isPair m then pairAt x j else (laneAt x j).toNat % 2 ^ fmtWidth m)

end Sys2Proof.Claims

/-- 10 R263, R265, R269-R273, R276: LD, LDNT, LDS and LDB read their lanes, elements or codebook from where their checked
places lie, with the scale byte of a burst-scaled entry; a misaligned address traps `ALIGN`, a pointer in an untagged unit
`PTRTAG`, too many lanes `ILLOP`. -/
def Obligations.LoadsGiveWhatMemoryHolds : Prop :=
  (∀ i code f, (i, code) = (.ld f, 0x100) ∨ (i, code) = (.ldnt f, 0x11E) → wellFormed i = true →
    ∀ s u scalar o a b, Executes code .any f s u scalar o → o.a = some a → a.poison = false → baseOf a = some b →
      (∀ t, o.b = some t → t.poison = false) → soundOffset o.c →
      let p := partyOf s u.cell u.task
      let ea := effective f b o.c
      let n := match o.b with | some t => (laneAt t 0).toNat | none => 16
      let e := if n = 0 then none else entryAt s p ea
      let m := accessFmt f e Fmt.raw
      Checked i s u [o.b.bind (wantWord 1),
          if 16 < n ∨ isPair m ∧ n % 2 = 1 then some illop else none,
          if ea % wordOf m = 0 then none else some ⟨.align, 0, 0, ea, 0⟩]
        (∀ segs, spanOf s p b ⟨true, false, m = Fmt.ptr⟩ ea (if m = Fmt.ptr then 8 * n else 4 * n) = .ok segs →
          Checked i s u [entryChecks m e] (∀ sc, scaleSegs s p e (some ea) = .ok sc →
          Loads i f s u scalar (code = 0x100 ∧ f.mod = 0) (f.mod = 2 ∨ f.mod = 3) (eachSeg segs) sc
            (fun bs => if m = Fmt.ptr then
              ((List.range (n / 2)).find? fun j => !taggedAt bs (16 * j)).map fun j => ⟨.ptrTag, 0, j, (ea + 16 * j) % 2 ^ 57, 0⟩
              else none)
            fun bs x po t => FormedAs blankToken m (pairValid m (BitVec.ofFnLE fun k => decide (k.val < n))) po x t ∧
              Lanes t (fun k => BitVec.ofNat 32 (numAt bs (if m = Fmt.ptr then 16 * (k / 2) + 4 * (k % 2) else 4 * k) 4) &&&
                spareMask m) ∧
              (m = Fmt.ptr → ∀ j, 2 * j < n → boundAt t j = BitVec.ofNat 64 (numAt bs (16 * j + 8) 8))))) ∧
  (∀ f s u scalar o a c b, wellFormed (.lds f) = true → Executes 0x103 .any f s u scalar o → o.a = some a → a.poison = false →
    o.c = some c → c.poison = false → baseOf a = some b →
    let p := partyOf s u.cell u.task
    let ea := effective f b none
    let e := entryAt s p ea
    let m := accessFmt f e Fmt.raw
    let st := (laneAt c 0).toInt
    let els := strideElems ea st (List.range (if isPair m then 8 else 16))
    Checked (.lds f) s u [wantStride c, strideCheck m ea st els]
      (PerElement (.lds f) s u p b ⟨true, false, m = Fmt.ptr⟩ m (entryChecks m) els fun l =>
        ∀ sc, scaleSegs s p e (some ea) = .ok sc →
        Loads (.lds f) f s u scalar true false (eachSeg (joinSegs (wordOf m) l)) sc
          (fun bs => if m = Fmt.ptr then ((List.range 8).find? fun j => !taggedAt bs (16 * j)).map fun j =>
            ⟨.ptrTag, 0, j, (((ea : Int) + j * st) % 2 ^ 57).toNat, 0⟩ else none)
          fun bs x po t => FormedAs blankToken m 0xFFFF po x t ∧
            (∀ k, k < 16 → laneAt t k = BitVec.ofNat 32
              (numAt bs (if isPair m then wordOf m * (k / 2) + 4 * (k % 2) else wordOf m * k) 4) &&& spareMask m) ∧
            (m = Fmt.ptr → ∀ j, j < 8 → boundAt t j = BitVec.ofNat 64 (numAt bs (16 * j + 8) 8)))) ∧
  ∀ f s u scalar o a b e, wellFormed (.ldb f) = true → Executes 0x120 .any f s u scalar o → o.a = some a → a.poison = false →
    baseOf a = some b → soundOffset o.c →
    let p := partyOf s u.cell u.task
    let ea := effective f b o.c
    ∀ x, spanOf s p b Need.read ea 1 = .ok x →
    (entryAt s p ea = none → exec (.ldb f) s = .next (trapped s u (fmtTrap 0 Fmt.raw))) ∧
    (entryAt s p ea = some e →
      Checked (.ldb f) s u [if (rgFmt e = Fmt.cb4 ∨ rgFmt e = Fmt.cb4s) ∧ (f.ft = Fmt.fromOperand ∨ f.ft = rgFmt e) then none
          else some (fmtTrap 0 (rgFmt e))]
        (∀ segs, spanOf s { p with ponly := false } ⟨0, none⟩ Need.read (rgBook e) 32 = .ok segs →
          Loads (.ldb f) f s u scalar false false (eachSeg segs) [] (fun _ => none)
            fun bs _ po t => t.kind = Kind.codebook ∧ t.fmt = rgFmt e ∧ t.valid = 0x00FF ∧ t.poison = po ∧ t.tag = 0 ∧
              t.scale = 0x7F ∧ ∀ k, k < 16 → laneAt t k = if k < 8 then BitVec.ofNat 32 (numAt bs (4 * k) 4) else 0))

/-- 10 R277, 08 R220: LDG gives in lane `i` the tensor element that index lane `i` of B names, each lane that is valid there. -/
def Obligations.GatherTakesIndexedElements : Prop :=
  ∀ f s u scalar o a b x, wellFormed (.ldg f) = true → Executes 0x105 .any f s u scalar o → o.a = some a → a.poison = false →
    o.b = some b → b.poison = false → baseOf a = some x →
    let p := partyOf s u.cell u.task
    let m := indexedFmt f s p x.addr (fun g => firstNamed g x.addr b (indexLanes g b)) Fmt.raw
    let index (i : Nat) : Int := if b.fmt = Fmt.uint32 then (laneAt b i).toNat else (laneAt b i).toInt
    let w : Int := perLane m
    let word (i : Nat) : Nat :=
      (((x.addr : Int) + if isPair m then (wordOf m : Int) * index i else 4 * (index i).fdiv w) % 2 ^ 57).toNat
    let idx := (List.range (if isPair m then 8 else 16)).filter fun i => b.valid.getLsbD i
    Checked (.ldg f) s u [wantIn 1 b fun g => g == Fmt.int32 || g == Fmt.uint32]
      (PerElement (.ldg f) s u p x ⟨true, false, m = Fmt.ptr⟩ m (entryChecks m) (idx.map fun i => (i, word i)) fun l =>
        ∀ sc, scaleSegs s p (idx.head?.bind fun i => entryAt s p (word i)) (idx.head?.map word) = .ok sc →
        let accs := byGranule (joinSegs (wordOf m) l)
        let run (bs : List (Byte × Bool)) : List (Byte × Bool) := (List.range 256).map (runByte accs.flatten bs)
        Loads (.ldg f) f s u scalar false false accs sc
          (fun bs => if m = Fmt.ptr then
            (idx.find? fun i => !taggedAt (run bs) (16 * i)).map fun i => ⟨.ptrTag, 0, i, word i, 0⟩
            else none)
          fun bs sc po t =>
            FormedAs blankToken m (pairValid m (BitVec.ofFnLE fun k => idx.contains (if isPair m then k.val / 2 else k.val))) po sc t ∧
            ∀ i ∈ idx,
              if isPair m then
                laneAt t (2 * i) = BitVec.ofNat 32 (numAt (run bs) (wordOf m * i) 4) ∧
                  laneAt t (2 * i + 1) = BitVec.ofNat 32 (numAt (run bs) (wordOf m * i + 4) 4) ∧
                  (m = Fmt.ptr → boundAt t i = BitVec.ofNat 64 (numAt (run bs) (16 * i + 8) 8))
              else t.valid.getLsbD i = true → laneAt t i = BitVec.ofNat 32
                (numAt (run bs) (4 * i) 4 / 2 ^ (denseWidth m * (index i % w).toNat) % 2 ^ denseWidth m)) ∧
  -- 07 R208, 09 R232: a granule that several lanes lie in is read at once
  ∀ l : List Seg, (byGranule l).flatten.Perm l ∧
    ∀ g h : Seg, g ∈ l → h ∈ l → g.space = h.space → g.addr / 64 = h.addr / 64 → ∃ acc ∈ byGranule l, g ∈ acc ∧ h ∈ acc

/-- 10 R267-R270, R272, R274, R275, R278: ST, STNT, STM, STS and STSC write each valid lane, enabled byte, element or
sub-element to where its checked place lies, and change no memory before their home applies them. -/
def Obligations.StoresLeaveTheirBytesPending : Prop :=
  (∀ i code f, (i, code) = (.st f, 0x101) ∨ (i, code) = (.stnt f, 0x11F) → wellFormed i = true →
    ∀ s u scalar o a b d, Executes code .any f s u scalar o → o.a = some a → a.poison = false → baseOf a = some b →
      o.b = some d → soundOffset o.c →
      let p := partyOf s u.cell u.task
      let ea := effective f b o.c
      let first (w : Nat) : Option RangeEntry :=
        ((List.range 16).find? fun k => d.valid.getLsbD k).bind fun k => entryAt s p ((ea + w * k) % 2 ^ 57)
      let e := storeEntry (· == Fmt.ptr) f d (first 8) (first 4)
      let m := accessFmt f e d.fmt
      let lanes := if m = Fmt.ptr then
          ((List.range 8).filter fun j => d.valid.getLsbD (2 * j)).map fun j => (j, (ea + 16 * j) % 2 ^ 57)
        else ((List.range 16).filter fun k => d.valid.getLsbD k).map fun k => (k, (ea + 4 * k) % 2 ^ 57)
      Checked i s u [dataTag f 1 d, if ea % wordOf m = 0 then none else lanes.head?.map fun x => ⟨.align, 0, x.1, x.2, 0⟩]
        (∀ l, laneSpans s p b ⟨false, true, m = Fmt.ptr⟩ e (if m = Fmt.ptr then 16 else 4) lanes = .ok l →
          Checked i s u [if lanes = [] then none else coverChecks m 1 d e] (
          Stores i f s u scalar d.poison (code = 0x11F)
            (StoredAt l fun k => if m = Fmt.ptr then elementBytes m d k else natLe 4 (laneAt d k).toNat) (ptrUnit m d l)))) ∧
  (∀ f s u scalar o a b d c, wellFormed (.stm f) = true → Executes 0x102 .any f s u scalar o → o.a = some a →
    a.poison = false → baseOf a = some b → o.b = some d → o.c = some c →
    let p := partyOf s u.cell u.task
    let ea := effective f b none
    let bytes := ((List.range 16).filter fun k => d.valid.getLsbD k && c.valid.getLsbD k).flatMap fun k =>
      ((List.range 4).filter fun q => (laneAt c k).getLsbD q).map fun q =>
        (k, (ea + 4 * k + q) % 2 ^ 57, (laneAt d k).extractLsb' (8 * q) 8)
    let e := bytes.head?.bind fun x => entryAt s p x.2.1
    let m := accessFmt f e d.fmt
    Checked (.stm f) s u [dataTag f 1 d, wantIn 3 c fun g => g == Fmt.uint32 || g == Fmt.int32,
        if ea % wordOf m = 0 then none else bytes.head?.map fun x => ⟨.align, 0, x.1, x.2.1, 0⟩]
      (∀ l, laneSpans s p b ⟨false, true, m = Fmt.ptr⟩ e 1 (bytes.map fun x => (x.1, x.2.1)) = .ok l →
        Checked (.stm f) s u [coverChecks m 1 d e] (
        Stores (.stm f) f s u scalar (d.poison || c.poison) false
          (fun sp a m v => m = 0xFF ∧ ∃ x ∈ l.zip bytes, ∃ g ∈ x.1.2, sp = g.space ∧ a = g.addr ∧ v = x.2.2.2)
          fun _ _ => False))) ∧
  (∀ f s u scalar o a b d c, wellFormed (.sts f) = true → Executes 0x104 .any f s u scalar o → o.a = some a →
    a.poison = false → baseOf a = some b → o.b = some d → o.c = some c → c.poison = false →
    let p := partyOf s u.cell u.task
    let ea := effective f b none
    let st := (laneAt c 0).toInt
    let els (pairs : Bool) : List (Nat × Nat) := strideElems ea st
      ((List.range (if pairs then 8 else 16)).filter fun j => d.valid.getLsbD (if pairs then 2 * j else j))
    let first (pairs : Bool) : Option RangeEntry := (els pairs).head?.bind fun x => entryAt s p x.2
    let e := storeEntry isPair f d (first true) (first false)
    let m := accessFmt f e d.fmt
    Checked (.sts f) s u [wantStride c, strideCheck m ea st (els (isPair m)), dataTag f 1 d]
      (PerElement (.sts f) s u p b ⟨false, true, m = Fmt.ptr⟩ m (coverChecks m 1 d) (els (isPair m)) fun l =>
        Stores (.sts f) f s u scalar d.poison false (StoredAt l (elementBytes m d)) (ptrUnit m d l))) ∧
  ∀ f s u scalar o a b d x, wellFormed (.stsc f) = true → Executes 0x106 .any f s u scalar o → o.a = some a →
    a.poison = false → baseOf a = some x → o.b = some b → b.poison = false → o.c = some d →
    let p := partyOf s u.cell u.task
    let named (g : Fmt) : List Nat := (indexLanes g b).filter fun i => d.valid.getLsbD (if isPair g then 2 * i else i)
    let m := indexedFmt f s p x.addr (fun g => firstNamed g x.addr b (named g)) d.fmt
    let index (i : Nat) : Int := if b.fmt = Fmt.uint32 then (laneAt b i).toNat else (laneAt b i).toInt
    let w : Int := perLane m
    let word (i : Nat) : Nat :=
      (((x.addr : Int) + if isPair m then (wordOf m : Int) * index i else 4 * (index i).fdiv w) % 2 ^ 57).toNat
    let bit (i : Nat) : Nat := denseWidth m * (index i % w).toNat
    let value (i : Nat) : Nat := (laneAt d i).toNat % 2 ^ denseWidth m
    let idx := (List.range (if isPair m then 8 else 16)).filter fun i =>
      b.valid.getLsbD i && d.valid.getLsbD (if isPair m then 2 * i else i)
    Checked (.stsc f) s u [wantIn 1 b fun g => g == Fmt.int32 || g == Fmt.uint32, dataTag f 3 d]
      (PerElement (.stsc f) s u p x ⟨false, true, m = Fmt.ptr⟩ m (coverChecks m 3 d) (idx.map fun i => (i, word i)) fun l =>
        Stores (.stsc f) f s u scalar d.poison false
          (if isPair m then StoredAt l (elementBytes m d)
           else fun sp a k v => k ≠ 0 ∧ ∃ y ∈ l, ∃ g ∈ y.2, ∃ n, n < g.len ∧ sp = g.space ∧ a = g.addr + n ∧
             k = BitVec.ofNat 8 ((2 ^ denseWidth m - 1) * 2 ^ bit y.1 / 2 ^ (8 * n)) ∧
             v = BitVec.ofNat 8 (value y.1 * 2 ^ bit y.1 / 2 ^ (8 * n)))
          fun _ _ => False)

/-- 10 R268, R280-R283, 09 R251: each atomic checks every element, then applies them in increasing order and gives the values
read; with no target it leaves them to perform as a store does, its acquire with the last of them. One element reads its bytes and writes them
once, where its granule is not poisoned, and changes no other byte. -/
def Obligations.AtomicsReadAndWriteEachElementOnce : Prop :=
  (∀ i code f op, opcodeOf i = some (code, f) → wellFormed i = true → atomicOp i = some op →
    ∀ s u scalar o a, Executes code .any f s u scalar o → o.a = some a → a.poison = false →
      Checked i s u [unless_ (a.kind = 0 ∧ (a.fmt = Fmt.int64 ∨ a.fmt = Fmt.ptr)) 0 a]
        (let p := partyOf s u.cell u.task
         let named (j : Nat) : Bool := a.valid.getLsbD (2 * j) && a.valid.getLsbD (2 * j + 1)
         let entryOf (j : Nat) : Option RangeEntry := entryAt s p (pairAt a j % 2 ^ 57)
         let goes (j : Nat) : Bool :=
           let m := accessFmt f (entryOf j) ((o.b.map (·.fmt)).getD Fmt.int32)
           operandValid m o.b j && operandValid m o.c j
         ∀ m, atomicFmt f ((((List.range 8).filter named).find? goes).bind entryOf) o.b = .ok m →
         Checked i s u [o.b.bind fun b => wantTag 1 b m, o.c.bind fun c => wantTag 3 c m]
          (∀ l, planAtomic s p m (((List.range 8).filter fun j =>
                named j && operandValid m o.b j && operandValid m o.c j).map fun j =>
              (j, ⟨pairAt a j % 2 ^ 57, if a.fmt = Fmt.ptr then some (boundAt a j) else none⟩)) = .ok l →
            let po := (o.b.map (·.poison)).getD false || (o.c.map (·.poison)).getD false
            let elems : List (Nat × AtomicElem) := l.map fun x =>
              (x.1, ⟨x.2.space, x.2.addr, op, m, atomicArg m o.b x.1, atomicArg m o.c x.1, po, false⟩)
            let d := partOf u
            let segs := (l.map (·.2)).drop d.count
            if (f.mod = 2 ∨ f.mod = 3) ∧ quiet s u (f.imm.extractLsb' 0 3).toNat = false then exec i s = .next s
            else if f.t0.getLsbD 9 = false ∧ f.t1.getLsbD 9 = false then
              exec i s = .next (executed (if f.mod = 1 ∨ f.mod = 3
                then addPendingAs s u f true (some (f.imm.extractLsb' 0 3).toNat) none
                  (if elems = [] then [.order false] else elems.map fun x => .atomic x.2)
                else addPending s u f false (elems.map fun x => .atomic x.2)) u f scalar .none noFlags)
            else if onlyOne s segs.length then
              if performs s u (eachSeg (segs.take 1)) then
                ∃ z, exec i s = .next z ∧
                  let r := atomicSteps s u.c.page d.marks ((elems.drop d.count).take 1)
                  (∀ sp, memOf z sp = memOf r.1 sp) ∧ z.tasks =
                    (keepPart s u { d with count := d.count + 1, olds := d.olds ++ r.2.1, marks := r.2.2 }).tasks
              else exec i s = .next s
            else if ¬performs s u (eachSeg segs) then exec i s = .next s
            else ∃ z t, exec i s = .next (executed z u f scalar (.one (.data t)) noFlags) ∧
              let r := atomicSteps s u.c.page d.marks (elems.drop d.count)
              let olds := d.olds ++ r.2.1
              (∀ sp, memOf z sp = memOf r.1 sp) ∧
                Formed a m (pairValid m (BitVec.ofFnLE fun k => (olds.map (·.1)).contains (if isPair m then k.val / 2 else k.val)))
                  (po || olds.any (·.2.2)) t ∧
                ∀ j x, j < 8 → olds.find? (·.1 == j) = some x → if isPair m then pairAt t j = x.2.1 % 2 ^ 64
                  else t.valid.getLsbD x.1 = true → laneAt t x.1 = BitVec.ofNat 32 x.2.1 &&& spareMask m))) ∧
  ∀ s page (e : AtomicElem), placeExists s e.space →
    let n := fmtWidth e.fmt / 8
    let old := leNat ((List.range n).map fun k => byteOf s e.space (e.addr + k))
    let spoilt := poisonAt (memOf s e.space) e.addr && !e.own
    (atomicStep s page e).2 = (old, spoilt) ∧
      ∀ sp a, byteOf (atomicStep s page e).1 sp a =
        match atomicValue e.op e.fmt old e.b.toNat e.c.toNat with
        | some v => if spoilt = false ∧ sp = e.space ∧ e.addr ≤ a ∧ a < e.addr + n then BitVec.ofNat 8 (v / 256 ^ (a - e.addr))
          else byteOf s sp a
        | none => byteOf s sp a

/-- 09 R239, R245, R246, R250, 10 R279, R284, R285: FENCE and ACQ act at once, where nothing of their task is unperformed, or take
their place among what is to perform, where they hold later operations back: the firing waits only for what a release waits for. An
acquire empties the page's line buffer at level 2 and above; REL makes the firing a release; PREF changes no memory and never
faults. -/
def Obligations.FencesAcquiresReleasesAndPrefetch : Prop :=
  (∀ f s u scalar o, wellFormed (.fence f) = true → Executes 0x113 .any f s u scalar o →
    let level := (f.imm.extractLsb' 0 3).toNat
    if (f.mod = 2 ∨ f.mod = 3) ∧ quiet s u level = false then exec (.fence f) s = .next s
    else Does (.fence f) f s u scalar (
      if unperformed s u.key ≠ [] then addPendingAs s u f true (if f.mod = 1 ∨ f.mod = 3 then some level else none) none [.order true]
      else if (f.mod = 1 ∨ f.mod = 3) ∧ 2 ≤ level then modPage s u.c.page fun p => { p with lines := [] } else s)) ∧
  (∀ f s u scalar o, wellFormed (.acq f) = true → Executes 0x114 .any f s u scalar o →
    let level := max (f.imm.extractLsb' 0 3).toNat ((takenLevel s u).getD 0)
    Does (.acq f) f s u scalar (
      if mayPerform s u [] = false then addPendingAs s u f true (some level) none [.order false]
      else if 2 ≤ level then modPage s u.c.page fun p => { p with lines := [] } else s)) ∧
  (∀ f s u scalar o, wellFormed (.rel f) = true → Executes 0x115 .any f s u scalar o →
    Does (.rel f) f s u scalar (modFiring s u.key fun fr => { fr with
      relLevel := some (max (fr.relLevel.getD 0) (f.imm.extractLsb' 0 3).toNat)
      relMo := max fr.relMo (f.imm.extractLsb' 19 5).toNat, relDone := false })) ∧
  ∀ f s u scalar o a, wellFormed (.pref f) = true → Executes 0x107 .any f s u scalar o → o.a = some a → a.poison = false →
    (∀ t, o.c = some t → t.poison = false) →
    let p := partyOf s u.cell u.task
    (baseOf a = none ∨ ¬soundOffset o.c → Does (.pref f) f s u scalar s) ∧
    ∀ b, baseOf a = some b → soundOffset o.c →
      match spanOf s p b Need.read (effective f b o.c) 1 with
      | .error _ => Does (.pref f) f s u scalar s
      | .ok segs =>
        if f.mod = 1 then Does (.pref f) f s u scalar (holdTranslation s p (effective f b o.c))
        else if ¬performs s u [segs] then exec (.pref f) s = .next s
        else ∃ z, Does (.pref f) f s u scalar z ∧ (∀ sp, memOf z sp = memOf s sp) ∧ z.tasks = s.tasks ∧ z.arcs = s.arcs ∧
          z.cells = s.cells ∧ ∀ g, segs.head? = some g →
            if g.space = .phys then (tget s.pages u.c.page).isSome = true →
              lineHeld z u.c.page (g.addr / 64) = some (freshLine s.phys (g.addr / 64))
            else z = s

/-! ### Bank tokens, token FIFOs and chains (10 R286-R300) -/

/-- 10 R287-R291: BKTAKE and TFPOP act at their place as acquires, BKGIVE and TFPUSH at retirement as releases, each once its
token, its entry and the operations before it allow. -/
def Obligations.BankTokensAndFifos : Prop :=
  (∀ f s u scalar o b, wellFormed (.bktake f) = true → Executes 0x116 .any f s u scalar o →
    u.t.banks[(f.imm.extractLsb' 0 5).toNat]? = some b →
    if (∃ x ∈ (tget s.banks b).toList, (x.holder = some u.key ∨
        x.holder = none ∧ x.holders[x.turn % x.holders.length]? = some u.key)) ∧ mayPerform s u [] = true then
      Does (.bktake f) f s u scalar
        (modPage (modBank s b fun x => { x with holder := some u.key }) u.c.page fun p => { p with lines := [] })
    else exec (.bktake f) s = .next s) ∧
  (∀ f s u scalar o b, wellFormed (.bkgive f) = true → Executes 0x117 .any f s u scalar o →
    u.t.banks[(f.imm.extractLsb' 0 5).toNat]? = some b →
    if (∃ x ∈ (tget s.banks b).toList, x.holder = some u.key) ∧ quiet s u 7 = true then
      Defers (.bkgive f) f s u scalar (.giveBank (f.imm.extractLsb' 0 5).toNat)
    else exec (.bkgive f) s = .next s) ∧
  (∀ f s u scalar o x, wellFormed (.tfpush f) = true → Executes 0x118 .any f s u scalar o →
    tget s.contexts (asidOf s u.cell) = some x →
    let n := (f.imm.extractLsb' 0 4).toNat
    if n ∈ u.fr.resPush ∧ quiet s u ((x.fifos.toList[n]?).map (·.level)).get! = true then
      Defers (.tfpush f) f s u scalar (.pushFifo n)
    else exec (.tfpush f) s = .next s) ∧
  ∀ f s u scalar o x, wellFormed (.tfpop f) = true → Executes 0x119 .any f s u scalar o →
    tget s.contexts (asidOf s u.cell) = some x →
    let n := (f.imm.extractLsb' 0 4).toNat
    if n ∈ u.fr.resPop ∧ mayPerform s u [] = true then
      let z := modFiring (modFifo s (asidOf s u.cell) n fun q => { q with count := q.count - 1, resPop := q.resPop - 1 })
        u.key fun fr => { fr with resPop := fr.resPop.erase n }
      Does (.tfpop f) f s u scalar (if 2 ≤ ((x.fifos.toList[n]?).map (·.level)).get! then
        modPage z u.c.page fun p => { p with lines := [] } else z)
    else exec (.tfpop f) s = .next s

/-- 10 R292, R299, R300: CHAPP leaves the pending writes of its card to the next free slot, each append of the chain after the ones
before it; `W` counts a card when it has been written (LOG 20, DEDUCED); CHTAIL publishes `W` as `T` once the operations before it have
performed; CHSEQ gives `Q`. -/
def Obligations.ChainsTakeCards : Prop :=
  (∀ f s u scalar o a k c, wellFormed (.chapp f) = true → Executes 0x11A .any f s u scalar o → o.a = some a →
    chainOf s u.cell (f.imm.extractLsb' 0 2).toNat = some (k, c) →
    if a.poison then exec (.chapp f) s = .next (controlUse s u)
    else Checked (.chapp f) s u [wantTag 0 a Fmt.raw, unless_ (a.valid = 0xFFFF) 0 a]
      (let due := cardsDue s u.cell k
       if k ∈ u.fr.resCards ∧ (∀ x ∈ due, x = u.key) ∧ c.w + due.length - c.q < c.cards then
        ∀ segs, spanOf s { partyOf s u.cell u.task with ponly := false } ⟨0, none⟩ Need.write
            (c.base + 64 * (1 + (c.w + due.length) % c.cards)) 64 = .ok segs →
          ∃ ws : List Write,
            Does (.chapp f) f s u scalar (addPendingAs
              (modFiring (modChain s k fun x => { x with reserved := x.reserved - 1 }) u.key fun fr =>
                { fr with resCards := fr.resCards.erase k }) u f false none (some k) (ws.map .write)) ∧
            ∀ sp a' m v, (∃ w ∈ ws, w.space = sp ∧ ⟨a', m, v⟩ ∈ w.patches) ↔
              StoredAt [(0, segs)] (fun _ => (List.range 64).map fun q => (laneAt a (q / 4)).extractLsb' (8 * (q % 4)) 8) sp a' m v
       else exec (.chapp f) s = .next s)) ∧
  (∀ f s u scalar o k c, wellFormed (.chtail f) = true → Executes 0x11B .any f s u scalar o →
    chainOf s u.cell (f.imm.extractLsb' 0 2).toNat = some (k, c) →
    if quiet s u 5 = true then Does (.chtail f) f s u scalar (modChain s k fun x => { x with t := x.w })
    else exec (.chtail f) s = .next s) ∧
  ∀ f s u scalar o k c, wellFormed (.chseq f) = true → Executes 0x11C .any f s u scalar o →
    chainOf s u.cell (f.imm.extractLsb' 0 2).toNat = some (k, c) →
    if mayPerform s u [] = true then
      Gives (.chseq f) f s u scalar fun t fl => FormedAs blankToken Fmt.int64 3 false 0x7F t ∧ fl = noFlags ∧
        laneAt t 0 = BitVec.ofNat 32 c.q ∧ laneAt t 1 = BitVec.ofNat 32 (c.q / 2 ^ 32)
    else exec (.chseq f) s = .next s

/-! ### Streams, key-value tokens, bitmaps, hash tables and contractions (07 R199-R219) -/

namespace Sys2Proof.Claims

/-- 07 R212: the pair that a combination gives where the keys do not clash. -/
def kvRule (f : Fields) (u : Cur) : Instr → Option (Option (Lane × Lane) → Option (Lane × Lane) → Option (Lane × Lane) × LaneFlags)
  | .sint _ => some fun a b => (if b.isSome then a else none, 0)
  | .suni _ => some fun a b => (if a.isSome then a else b, 0)
  | .ssub _ => some fun a b => (if b.isSome then none else a, 0)
  | .smadd _ => some fun a b =>
    match a, b with
    | some x, some y =>
      let c := byMod f u .fp32
      let r := store c (addNum c.mode (valueOf c x.2.toNat) (valueOf c y.2.toNat))
      (some (x.1, BitVec.ofNat 32 r.1), r.2)
    | some x, none => (some x, 0)
    | none, y => (y, 0)
  | _ => none

/-- Pair `j` of a KEYVAL token, where both its lanes are valid (04 R94). -/
def pairOf (t : Token) (j : Nat) : Option (Lane × Lane) :=
  if t.valid.getLsbD j && t.valid.getLsbD (8 + j) then some (laneAt t j, laneAt t (8 + j)) else none

/-- A KEYVAL result with these pairs. -/
def Pairs (a : Token) (po : Bool) (g : Nat → Option (Lane × Lane)) (t : Token) : Prop :=
  Formed a Fmt.keyval t.valid po t ∧ ∀ j, j < 8 →
    t.valid.getLsbD j = (g j).isSome ∧ t.valid.getLsbD (8 + j) = (g j).isSome ∧
      ∀ x, g j = some x → laneAt t j = x.1 ∧ laneAt t (8 + j) = x.2

/-- 07 R215: the key slots that a probe of `k` examines, in order: at most eight buckets from the key's home. -/
def examined (k m : Nat) : List Nat :=
  let home := k * 0x9E3779B1 % 2 ^ 32 / 2 ^ (32 - m)
  (List.range (min 8 (2 ^ m))).flatMap fun t => (List.range 8).map fun j => 64 * ((home + t) % 2 ^ m) + 4 * j

/-- 07 R215, R216: pair (k, v) of a token met by a table: the state, the result pair, `INV`, and whether a slot examined lies in a
poisoned granule. -/
def hashPair (insert : Bool) (page base m : Nat) (po : Bool) (s : State) (k v : Lane) :
    State × Option (Lane × Lane) × Bool × Bool :=
  let word (o : Nat) : Nat := leNat ((List.range 4).map fun q => byteOf s (.window page) (base + o + q))
  let stop (o : Nat) : Bool := word o == k.toNat || word o == 0xFFFFFFFF
  let seen := examined k.toNat m
  let bad := (seen.take ((seen.findIdx stop) + 1)).any fun o => poisonAt (memOf s (.window page)) (base + o)
  if k = 0xFFFFFFFF then (s, none, true, false)
  else
    match seen.find? stop with
    | some o =>
      if word o = k.toNat then (s, some (k, BitVec.ofNat 32 (word (o + 32))), false, bad)
      else if insert then
        (performWrite s page ⟨.window page, (List.range 4).map (fun q => ⟨base + o + q, 0xFF, k.extractLsb' (8 * q) 8⟩) ++
          (List.range 4).map (fun q => ⟨base + o + 32 + q, 0xFF, v.extractLsb' (8 * q) 8⟩), [], po, false⟩, none, false, bad)
      else (s, none, false, bad)
    | none => if insert then (s, some (0xFFFFFFFF, v), true, bad) else (s, none, false, bad)

/-- The pairs of a token in order: the state, and each pair's result. -/
def hashAll (insert : Bool) (page base m : Nat) (a : Token) : List Nat → State → State × List (Nat × Option (Lane × Lane) × Bool × Bool)
  | [], s => (s, [])
  | j :: r, s =>
    match pairOf a j with
    | none => hashAll insert page base m a r s
    | some (k, v) =>
      let x := hashPair insert page base m a.poison s k v
      let y := hashAll insert page base m a r x.1
      (y.1, (j, x.2) :: y.2)

/-- 07 R218: one output element from its terms: one rounding of the exact sum, or its wrapped integer. -/
def OutputIs (c : Contraction) (l : List (Machine.Num × Int)) (x : Nat) : Prop :=
  match fpFmt c.out.fmt with
  | none => x = ((l.map Prod.snd).sum % 2 ^ 32).toNat
  | some g =>
    let t := l.map Prod.fst
    let q := (t.map real).sum
    let v := roundedTo g (rmOf c.rm) q
    if t.any (·.isNan) ∨ .inf false ∈ t ∧ .inf true ∈ t then x = g.nan
    else if .inf false ∈ t then x = (store ⟨g, rmOf c.rm, c.sat, false⟩ (.inf false)).1
    else if .inf true ∈ t then x = (store ⟨g, rmOf c.rm, c.sat, false⟩ (.inf true)).1
    else if q = 0 then x = 0
    else if real (decodeNum g g.maxFin) < |v| then x = (overflowBits g (rmOf c.rm) c.sat (q < 0)).1
    else real (decodeNum g x) = v ∧ x < 2 ^ g.width

end Sys2Proof.Claims

/-- 07 R201, R202, R207, R210, R211: SSET and SIDX check and send a command; SPUSH sends A; SPOP gives a head that its port gives
up at retirement, a merging port (12 R319) keeping the copy that it shows; SSTAT reads the slot. -/
def Obligations.StreamInstructions : Prop :=
  (∀ i code f indirect, (i, code, indirect) = (.sset f, 0x140, false) ∨ (i, code, indirect) = (.sidx f, 0x141, true) →
    wellFormed i = true → ∀ s u scalar o a b k arc c, Executes code .any f s u scalar o → o.a = some a → o.b = some b →
      (arcsFrom s u.cell f.imm.toNat).head? = some (k, arc) → tget s.cells arc.cCell = some c → c.kind = .t →
      let own := arc.cPort % 4
      let w := laneAt b 2
      let kv := f.ft = Fmt.keyval
      let base := pairAt a 0 % 2 ^ 57
      let vbase := if kv then pairAt a 1 % 2 ^ 57 else 0
      let m := accessFmt f (entryAt s (partyOf s u.cell u.task) base) Fmt.raw
      let join := w.getLsbD 4
      let part := (w.extractLsb' 5 2).toNat
      if a.poison ∨ b.poison then exec i s = .next (controlUse s u)
      else Checked i s u [
          unless_ (a.kind = 0 ∧ (a.fmt = Fmt.int64 ∨ a.fmt = Fmt.ptr) ∧ a.valid.getLsbD 0 ∧ a.valid.getLsbD 1 ∧
            (kv → a.valid.getLsbD 2 ∧ a.valid.getLsbD 3)) 0 a,
          wantIn 1 b fun g => g == Fmt.int32 || g == Fmt.uint32,
          unless_ (b.valid.getLsbD 0 ∧ b.valid.getLsbD 1 ∧ b.valid.getLsbD 2 ∧ (indirect → b.valid.getLsbD 3)) 1 b,
          if w.toNat ≥ 128 ∨ w.getLsbD 1 ∨ w.getLsbD 2 ∨
            join ∧ (w.getLsbD 0 ∨ ¬kv ∨ part = own ∨ indirect) ∨ w.getLsbD 0 ∧ (indirect ∨ kv) then some illop else none,
          if base % wordOf m = 0 then none else some ⟨.align, 0, 0, base, 0⟩,
          if vbase % 4 = 0 then none else some ⟨.align, 0, 1, vbase, 0⟩,
          if indirect ∧ ((laneAt b 3).extractLsb' 0 2).toNat = own then some illop else none,
          if f.imm.toNat ∈ u.fr.sends.map (·.1) then some illop else none]
        (∃ cmd : StreamCmd, exec i s = .next (executed (modFiring s u.key fun fr =>
            { fr with sends := fr.sends ++ [(f.imm.toNat, .command cmd)] }) u f scalar .none noFlags) ∧
          cmd.indirect = indirect ∧ cmd.fmt = f.ft ∧ cmd.base = base ∧ cmd.vbase = vbase ∧
          cmd.bound = (if a.fmt = Fmt.ptr then some (boundAt a 0) else none) ∧
          cmd.vbound = (if kv ∧ a.fmt = Fmt.ptr then some (boundAt a 1) else none) ∧
          cmd.stride = (laneAt b 0).toInt ∧ cmd.len = (laneAt b 1).toNat ∧ cmd.write = w.getLsbD 0 ∧ cmd.eos = w.getLsbD 3 ∧
          cmd.join = join ∧ cmd.part = part ∧ cmd.idxSlot = ((laneAt b 3).extractLsb' 0 2).toNat ∧
          cmd.cell = u.cell ∧ cmd.task = u.task ∧ cmd.poison = false)) ∧
  (∀ f s u scalar o k a h t, wellFormed (.spop f) = true → Executes 0x142 .any f s u scalar o →
    inArc s u.cell f.imm.toNat = some (k, a) → a.ports.awaiting = none →
    a.queue.head? = some h → h.held = true → h.ecc = .good → h.item = .data t →
    let z := pinPort s u.cell f.imm.toNat
    if f.imm.toNat ∈ u.fr.popped then exec (.spop f) s = .next (trapped s u illop)
    else match givenTag 0 f t with
    | some e => exec (.spop f) s = .next (trapped z u e)
    | none => exec (.spop f) s = .next (executed (modFiring z u.key fun fr =>
        { fr with popped := fr.popped ++ [f.imm.toNat] }) u f scalar (.one (.data t)) noFlags)) ∧
  (∀ f s u scalar o a k arc, wellFormed (.spush f) = true → Executes 0x143 .any f s u scalar o → o.a = some a →
    (arcsFrom s u.cell f.imm.toNat).head? = some (k, arc) →
    Checked (.spush f) s u [wantA f a someFormat] (SendsOnce (.spush f) f s u scalar f.imm.toNat (.data a))) ∧
  ∀ f s u scalar o k arc c, wellFormed (.sstat f) = true → Executes 0x14D .any f s u scalar o →
    (arcsFrom s u.cell f.imm.toNat).head? = some (k, arc) → tget s.cells arc.cCell = some c → c.kind = .t →
    ∀ j : Fin 4, j.val = arc.cPort % 4 →
    Gives (.sstat f) f s u scalar fun t fl => FormedAs blankToken Fmt.uint32 0xFFFF false 0x7F t ∧ fl = noFlags ∧
      Lanes t fun _ =>
        if f.mod = 0 then (match c.slots[j].state with | .idle => 0 | .running => 1 | .waiting => 2 | .faulted => 3)
        else if f.mod = 1 then BitVec.ofNat 32 c.slots[j].done
        else if f.mod = 2 then BitVec.ofNat 32 c.slots[j].toks
        else c.slots[j].sortErr

/-- 07 R212-R214: SINT, SUNI, SSUB and SMADD combine pairs lane for lane, an unequal pair invalid with `INV`; BMAND keeps the lanes
whose AND is not zero; BMPFX counts the set bits of A below each selected bit. -/
def Obligations.KeyValueAndBitmaps : Prop :=
  (∀ i code f s u g, opcodeOf i = some (code, f) → wellFormed i = true → kvRule f u i = some g →
    ∀ scalar o a b, Executes code .any f s u scalar o → o.a = some a → o.b = some b →
      Checked i s u [wantTag 0 a Fmt.keyval, wantTag 1 b Fmt.keyval]
        (Gives i f s u scalar fun t fl =>
          let r (j : Nat) : Option (Lane × Lane) × LaneFlags :=
            match pairOf a j, pairOf b j with
            | some x, some y => if x.1 = y.1 then g (some x) (some y) else (none, LaneFlags.inv)
            | x, y => g x y
          Pairs a (a.poison || b.poison) (fun j => (r j).1) t ∧ ∀ k, (h : k < 16) → fl[k] = (r (k % 8)).2)) ∧
  (∀ f s u scalar o a b, wellFormed (.bmand f) = true → Executes 0x148 .any f s u scalar o → o.a = some a → o.b = some b →
    Checked (.bmand f) s u [wantTag 0 a Fmt.bitmap, wantTag 1 b Fmt.bitmap]
      (Gives (.bmand f) f s u scalar fun t fl =>
        Formed a Fmt.bitmap t.valid (a.poison || b.poison) t ∧ fl = noFlags ∧ ∀ k, k < 16 →
          (t.valid.getLsbD k = true ↔
            a.valid.getLsbD k = true ∧ b.valid.getLsbD k = true ∧ laneAt a k &&& laneAt b k ≠ 0) ∧
          (t.valid.getLsbD k = true → laneAt t k = laneAt a k &&& laneAt b k))) ∧
  ∀ f s u scalar o a b c, wellFormed (.bmpfx f) = true → Executes 0x149 .any f s u scalar o →
    o.a = some a → o.b = some b → o.c = some c →
    Checked (.bmpfx f) s u [wantTag 0 a Fmt.bitmap, wantTag 1 b Fmt.bitmap,
        unless_ (c.kind = 0 ∧ (c.fmt = Fmt.int32 ∨ c.fmt = Fmt.ptr) ∧ c.valid.getLsbD 0) 3 c]
      (Gives (.bmpfx f) f s u scalar fun t fl =>
        let bit (x : Token) (k : Nat) : Bool := x.valid.getLsbD (k / 32) && (laneAt x (k / 32)).getLsbD (k % 32)
        let at_ (i : Nat) : Nat := 16 * (f.imm.extractLsb' 0 5).toNat + i
        Formed a Fmt.int32 t.valid (a.poison || b.poison || c.poison) t ∧ fl = noFlags ∧ ∀ i, i < 16 →
          t.valid.getLsbD i = (bit b (at_ i) && bit a (at_ i)) ∧
          (t.valid.getLsbD i = true →
            laneAt t i = laneAt c 0 + BitVec.ofNat 32 (((List.range (at_ i)).filter (bit a)).length)))

/-- 07 R215-R219: HPROBE and HINS act on a table that lies in one tile, pair after pair; CONTRACT reads its parameter block once and
computes every output element in order, as far as earlier operations and the homes let it in each turn, or one access further
(LOG 33, DESIGN CHOICE), each one rounding of its exact sum. A misaligned base traps `ALIGN`, a table outside one tile `BOUNDS`. -/
def Obligations.HashTablesAndContractions : Prop :=
  (∀ i code f insert, (i, code, insert) = (.hprobe f, 0x14A, false) ∨ (i, code, insert) = (.hins f, 0x14B, true) →
    wellFormed i = true → ∀ s u scalar o a b x, Executes code .any f s u scalar o → o.a = some a → o.b = some b →
      b.poison = false → baseOf b = some x →
      let m := (f.imm.extractLsb' 0 4).toNat
      let size := 64 * 2 ^ m
      let off := x.addr - windowBase
      Checked i s u [wantTag 0 a Fmt.keyval, if x.addr % size = 0 then none else some ⟨.align, 0, 0, x.addr, 0⟩,
          if windowBase ≤ x.addr ∧ off / 0x40000 = (off + size - 1) / 0x40000 then none else some ⟨.bounds, 0, 0, x.addr, 0⟩]
        (∀ segs, spanOf s (partyOf s u.cell u.task) x ⟨true, insert, false⟩ x.addr size = .ok segs →
          if mayPerform s u [segs] = false then exec i s = .next s
          else
            let r := hashAll insert u.c.page off m a (List.range 8) s
            ∃ z t fl, exec i s = .next (executed z u f scalar (.one (.data t)) fl) ∧ (∀ sp, memOf z sp = memOf r.1 sp) ∧
              Pairs a (a.poison || r.2.any (·.2.2.2)) (fun j => ((r.2.find? (·.1 == j)).map (·.2.1)).join) t ∧
              ∀ k, (h : k < 16) → fl[k] = if r.2.any (fun y => y.1 == k % 8 && y.2.2.1) then LaneFlags.inv else 0)) ∧
  (∀ f s u scalar o a b block n done z c, wellFormed (.contract f) = true → Executes 0x14C .any f s u scalar o → o.a = some a →
    a.poison = false → baseOf a = some b →
    let d := partOf u
    let p := partyOf s u.cell u.task
    (224 ≤ d.bytes.length ∧ block = d.bytes ∧ n = d.count ∧ done = d.reads ∧ z = s ∨
      ∃ segs, d.bytes.length < 224 ∧ b.addr % 16 = 0 ∧ spanOf s p b Need.read b.addr 224 = .ok segs ∧
        let left := segs.drop d.count
        ¬onlyOne s left.length ∧ performs s u (eachSeg left) ∧ d.poisoned = false ∧ (homeRead s left).2 = false ∧
        block = d.bytes ++ (homeRead s left).1 ∧ n = 0 ∧ done = [] ∧ z = servePort s (.cell u.cell) left) →
    contractionAt block = some c → contractionTrap c = none →
    let outs := c.out.dims.map (·.1)
    let rest := (List.range c.ext.length).filter fun k => !outs.contains k
    let total := outs.foldl (fun k i => k * extent c i) 1
    let r := contractFrom u p c outs rest (total - n) n done z
    if s.focus.map (·.guardHit) = some .piece ∧ n < total then
      match contractPlan z p c outs rest n with
      | .error e => exec (.contract f) s = .next (trapped s u (elemFault n e))
      | .ok x =>
        let left := x.reads.drop done.length
        let skip := (left.takeWhile (·.isEmpty)).map fun _ => (([], false) : Reading)
        match left.drop skip.length with
        | acc :: _ =>
          if performs z u [acc] then ∃ t, exec (.contract f) s = .next t ∧ (∀ sp, memOf t sp = memOf s sp) ∧
            t.tasks = (keepPart s u (contractPart u n block (done ++ skip ++ [homeRead s acc]))).tasks
          else exec (.contract f) s = .next s
        | [] =>
          match contractElem z u c x (done ++ skip) with
          | none => exec (.contract f) s = .next s
          | some t => if total ≤ n + 1 then Does (.contract f) f s u scalar t
            else exec (.contract f) s = .next (keepPart t u (contractPart u (n + 1) block []))
    else match r.fault with
    | some t => exec (.contract f) s = .next (trapped r.s u t)
    | none =>
      if total ≤ r.next then Does (.contract f) f s u scalar r.s
      else exec (.contract f) s = .next (keepPart r.s u (contractPart u r.next block (if r.next = n then done else [])))) ∧
  ∀ c l, OutputIs c l (contractBits c l)

/-! ### Pointers, scheduling, recovery and collectives (12 R334-R340, 13 R352-R370, 15 R378-R403, 16 R434-R439) -/

namespace Sys2Proof.Claims

/-- 15 R398: the bounds word `w` that narrowing [base, top) to [a, a + n) gives, with the least exponent that fits; where none
does, the bounds alone are open, not the permissions and the class (LOG 17, DESIGN CHOICE); none is `BOUNDS`. -/
def Narrowed (perm scls : Nat) (base top : Int) (a n : Nat) (w : Option (BitVec 64)) : Prop :=
  let wide (e : Nat) : Nat := (a + n + 2 ^ e - 1) / 2 ^ e - a / 2 ^ e
  let fits (e : Nat) : Prop := wide e ≤ 2 ^ 21 - 1
  if (a : Int) < base ∨ top < ((a + n : Nat) : Int) then w = none
  else ((∀ e, e ≤ 36 → ¬fits e) → ∀ x, w = some x →
      x.extractLsb' 60 4 = BitVec.ofNat 4 perm ∧ x.extractLsb' 48 8 = BitVec.ofNat 8 scls) ∧
    ∀ e, e ≤ 36 → fits e → (∀ k, k < e → ¬fits k) →
    if ((a / 2 ^ e * 2 ^ e : Nat) : Int) < base ∨ top < (((a + n + 2 ^ e - 1) / 2 ^ e * 2 ^ e : Nat) : Int) then w = none
    else w = some (BitVec.ofNat 64 (perm % 16 * 2 ^ 60 + scls % 256 * 2 ^ 48 + e * 2 ^ 42 + wide e))

/-- Pair `j` of operand B, as the length, offset or mask of pointer `j`, or the immediate where B is not named. -/
def pairArg (b : Option Token) (imm : Nat) (j : Nat) : Option Nat :=
  match b with
  | none => some imm
  | some t => if t.valid.getLsbD (2 * j) ∧ t.valid.getLsbD (2 * j + 1) then some (pairAt t j) else none

/-- A read-out: the same UINT32 in every lane (12 R334, 13 R369). -/
def AllLanes (v : BitVec 32) (t : Token) (fl : FlagSet) : Prop :=
  FormedAs blankToken Fmt.uint32 0xFFFF false 0x7F t ∧ fl = noFlags ∧ Lanes t fun _ => v

/-- A read-out of 64 bits in element 0 (12 R339, 13 R352). -/
def OneLong (v : BitVec 64) (t : Token) (fl : FlagSet) : Prop :=
  FormedAs blankToken Fmt.int64 3 false 0x7F t ∧ fl = noFlags ∧ pairAt t 0 = v.toNat

/-- 13 R356, R369: an instruction that asks the sequencer asks once and waits, behind a request of its kind that a rollback left
(16 R423; LOG 25, DEDUCED); a refusal traps `COLLFAIL`; `p v` on the answer `v`. -/
def Asks (i : Instr) (s : State) (u : Cur) (group : BitVec 12) (kind : SeqReqKind) (p : BitVec 32 → Prop) : Prop :=
  match (u.fr.answers.find? fun x => x.1 = u.ins).map (·.2) with
  | some (some v) => p v
  | some none => exec i s = .next (trapped s u ⟨.collFail, 0, 0, 0, 0⟩)
  | none =>
    if u.ins ∈ u.fr.asked ∨ (∃ r ∈ s.collective.requests, r.late = true ∧ (sameAsker r u.cell u.task u.ins = true ∨
        r.asid = asidOf s u.cell ∧ r.group = group ∧ r.kind = kind)) then exec i s = .next s
    else exec i s = .next (modFiring { s with collective := { s.collective with
        requests := s.collective.requests ++ [⟨ownPackage s, asidOf s u.cell, u.cell, u.task, u.ins, group, kind, false⟩] } }
      u.key fun fr => { fr with asked := u.ins :: fr.asked })

/-- No sequencer is known: the instruction traps `COLLFAIL` (13 R368). -/
def sequenced (s : State) : Option TrapInfo := if s.collective.primary.isNone then some ⟨.collFail, 0, 0, 0, 0⟩ else none

/-- Operands of a word, and of two words. -/
def twoWords (a : Token) : List (Option TrapInfo) := [wantWord 0 a, unless_ (a.valid.getLsbD 1) 0 a]

/-- What a rollback left to be repeated, and its repetition, which is noted anew (16 R423). -/
def repeats (s : State) (u : Cur) : List CollOp := ((tget s.instances u.t.inst).map (·.collReplay)).getD []
def repeated (s : State) (u : Cur) (c : CollOp) : State :=
  noteColl (modInst s u.t.inst fun i => { i with collReplay := i.collReplay.erase c }) u.cell c

end Sys2Proof.Claims

/-- 15 R379, R397-R403: the pointer instructions, pair by pair: PSETB, PSETP, PADD, PCHK, PGET, PSEAL, PUNSEAL, PMINT. -/
def Obligations.PointerInstructions : Prop :=
  (∀ f s u scalar o a, wellFormed (.psetb f) = true → Executes 0x190 .any f s u scalar o → o.a = some a →
    ∃ w : Nat → Option (BitVec 64), (∀ j, j < 8 → ∀ n, pairArg o.b f.imm.toNat j = some n →
        Narrowed ((boundAt a j).extractLsb' 60 4).toNat ((boundAt a j).extractLsb' 48 8).toNat (pointerBase (boundAt a j) (pairAt a j))
          (pointerTop (boundAt a j) (pairAt a j)) (pairAt a j) n (w j)) ∧
      Checked (.psetb f) s u [isPtr a, o.b.bind fun b => wantTag 1 b Fmt.int64,
          lowestPair .perm a fun j => (boundAt a j).extractLsb' 48 8 != 0,
          lowestPair .bounds a fun j => (pairArg o.b f.imm.toNat j).isSome && (w j).isNone]
        (Gives (.psetb f) f s u scalar fun t fl => fl = noFlags ∧
          Pointers a (a.poison || (o.b.map (·.poison)).getD false) (fun j =>
            if a.valid.getLsbD (2 * j) then (pairArg o.b f.imm.toNat j).bind fun _ => (w j).map fun x => (pairAt a j, x) else none) t)) ∧
  (∀ f s u scalar o a, wellFormed (.psetp f) = true → Executes 0x191 .any f s u scalar o → o.a = some a →
    Checked (.psetp f) s u [isPtr a, o.b.bind fun b => wantTag 1 b Fmt.uint32,
        lowestPair .perm a fun j => (boundAt a j).extractLsb' 48 8 != 0]
      (Gives (.psetp f) f s u scalar fun t fl => fl = noFlags ∧
        Pointers a (a.poison || (o.b.map (·.poison)).getD false) (fun j =>
          let mask : Option (BitVec 4) := match o.b with
            | none => some (f.imm.extractLsb' 0 4)
            | some b => if b.valid.getLsbD (2 * j) then some ((laneAt b (2 * j)).extractLsb' 0 4) else none
          if a.valid.getLsbD (2 * j) then mask.map fun m =>
            (pairAt a j, ((boundAt a j).extractLsb' 60 4 &&& m) ++ (boundAt a j).extractLsb' 0 60) else none) t)) ∧
  (∀ f s u scalar o a, wellFormed (.padd f) = true → Executes 0x192 .any f s u scalar o → o.a = some a →
    Checked (.padd f) s u [isPtr a, o.b.bind fun b => wantTag 1 b Fmt.int64,
        lowestPair .perm a fun j => (boundAt a j).extractLsb' 48 8 != 0]
      (Gives (.padd f) f s u scalar fun t fl => fl = noFlags ∧
        Pointers a (a.poison || (o.b.map (·.poison)).getD false) (fun j =>
          let off : Option Int := match o.b with
            | none => some f.imm.toInt
            | some b => if b.valid.getLsbD (2 * j) ∧ b.valid.getLsbD (2 * j + 1) then some (signedOf 64 (pairAt b j)) else none
          if a.valid.getLsbD (2 * j) then off.bind (movedPointer (boundAt a j) (pairAt a j)) else none) t)) ∧
  (∀ f s u scalar o a, wellFormed (.pchk f) = true → Executes 0x193 .any f s u scalar o → o.a = some a →
    Checked (.pchk f) s u [isPtr a, o.b.bind fun b => wantTag 1 b Fmt.int64]
      (Gives (.pchk f) f s u scalar fun t fl => fl = noFlags ∧
        let holds (k : Nat) : Prop := ∃ n, pairArg o.b f.imm.toNat (k / 2) = some n ∧
          let w := boundAt a (k / 2)
          let x := pairAt a (k / 2)
          w.extractLsb' 48 8 = 0 ∧ (f.mod = 0 ∨ f.mod = 2 → w.getLsbD 63 = true) ∧
            (f.mod = 1 ∨ f.mod = 2 → w.getLsbD 62 = true) ∧ pointerBase w x ≤ (x : Int) ∧ ((x + n : Nat) : Int) ≤ pointerTop w x
        Formed a Fmt.pred t.valid (a.poison || (o.b.map (·.poison)).getD false) t ∧ ∀ k, k < 16 →
          t.valid.getLsbD k = (a.valid.getLsbD k && (pairArg o.b f.imm.toNat (k / 2)).isSome) ∧
          (t.valid.getLsbD k = true →
            predLane (holds k) (∀ n, n < 16 → t.valid.getLsbD n = true → holds n) (laneAt t k)))) ∧
  (∀ f s u scalar o a, wellFormed (.pget f) = true → Executes 0x194 .any f s u scalar o → o.a = some a →
    Checked (.pget f) s u [isPtr a]
      (Gives (.pget f) f s u scalar fun t fl => fl = noFlags ∧ Formed a Fmt.int64 (pairValid Fmt.int64 a.valid) a.poison t ∧
        ∀ j, j < 8 → t.valid.getLsbD (2 * j) = true →
          let w := boundAt a j
          let x := pairAt a j
          pairAt t j = (if f.mod = 0 then x else if f.mod = 1 then (pointerBase w x).toNat
            else if f.mod = 2 then (pointerTop w x - pointerBase w x).toNat
            else (w.extractLsb' 60 4).toNat + 2 ^ 8 * (w.extractLsb' 48 8).toNat) % 2 ^ 64)) ∧
  (∀ i code f wanted new, (i, code, wanted, new) = (.pseal f, 0x195, 0, f.imm.extractLsb' 0 8) ∨
      (i, code, wanted, new) = (.punseal f, 0x196, f.imm.extractLsb' 0 8, 0) → wellFormed i = true →
    ∀ s u scalar o a, Executes code .any f s u scalar o → o.a = some a →
      Checked i s u [isPtr a, if (f.imm.extractLsb' 0 8).toNat ∈ u.t.seals then none else some ⟨.perm, 0, 0, 0, 0⟩,
          lowestPair .perm a fun j => (boundAt a j).extractLsb' 48 8 != wanted]
        (Gives i f s u scalar fun t fl => fl = noFlags ∧ Pointers a a.poison (fun j =>
          if a.valid.getLsbD (2 * j) then
            some (pairAt a j, (boundAt a j).extractLsb' 56 8 ++ new ++ (boundAt a j).extractLsb' 0 48) else none) t)) ∧
  ∀ f s u scalar o a b c, wellFormed (.pmint f) = true → Executes 0x197 .any f s u scalar o → o.a = some a → o.b = some b →
    o.c = some c →
    let has (j : Nat) : Bool := a.valid.getLsbD (2 * j) && b.valid.getLsbD (2 * j) && c.valid.getLsbD (2 * j)
    ∃ w : Nat → Option (BitVec 64), (∀ j, j < 8 → has j = true →
        Narrowed ((laneAt c (2 * j)).extractLsb' 0 4).toNat ((laneAt c (2 * j)).extractLsb' 8 8).toNat 0 (2 ^ 57) (pairAt a j)
          (pairAt b j) (w j)) ∧
      Checked (.pmint f) s u [if ((tget s.instances u.t.inst).map (·.loader)).getD false then none else some ⟨.perm, 0, 0, 0, 0⟩,
          wantTag 0 a Fmt.int64, wantTag 1 b Fmt.int64, wantTag 3 c Fmt.uint32,
          if ∃ j ∈ List.range 8, has j ∧ ((laneAt c (2 * j)).extractLsb' 4 4 ≠ 0 ∨ (laneAt c (2 * j)).extractLsb' 16 16 ≠ 0) then
            some illop else none,
          lowestPair .bounds a fun j => has j && (w j).isNone]
        (Gives (.pmint f) f s u scalar fun t fl => fl = noFlags ∧
          Pointers a (a.poison || b.poison || c.poison) (fun j => if has j then (w j).map fun x => (pairAt a j, x) else none) t)

/-- 12 R335-R340, 13 R352, R353: the read-outs GRPID, ROLE, BAL, SVCL, CTXID, TIME and FIRECNT; SPAWN, TEAR, EVT, YIELD and PRIO
act at retirement. -/
def Obligations.SchedulingAndReadOuts : Prop :=
  (∀ f s u scalar o x, wellFormed (.grpid f) = true → Executes 0x170 .any f s u scalar o → ctxOf s u.cell = some x →
    let gs := groupsOf x u.c.page
    Gives (.grpid f) f s u scalar fun t fl => fl = noFlags ∧
      FormedAs blankToken Fmt.uint32 (BitVec.ofFnLE fun k => decide (k.val < gs.length)) false 0x7F t ∧
      ∀ k, (h : k < gs.length) → k < 16 → laneAt t k = BitVec.ofNat 32 gs[k]) ∧
  (∀ f s u scalar o x, wellFormed (.role f) = true → Executes 0x171 .any f s u scalar o → ctxOf s u.cell = some x →
    let r := roleEntry x (f.imm.extractLsb' 12 8).toNat (f.imm.extractLsb' 2 10).toNat
    let v : Option Nat :=
      if f.imm.extractLsb' 22 2 = 0 then memberOf x r u.c.page u.cell
      else if f.imm.extractLsb' 22 2 = 1 then some ((r.extractLsb' 44 12).toNat + 1)
      else if f.imm.extractLsb' 22 2 = 2 then
        some (if (stageOf s u.c.page).isSome then ((pageOf s u.cell).map (·.replica)).getD 0 else 0)
      else some (((stageOf s u.c.page).map (·.active.length)).getD 1)
    Gives (.role f) f s u scalar fun t fl => match v with
      | some n => AllLanes (BitVec.ofNat 32 n) t fl
      | none => FormedAs blankToken Fmt.uint32 0 false 0x7F t ∧ fl = noFlags) ∧
  (∀ f s u scalar o a, wellFormed (.spawn f) = true → Executes 0x172 .any f s u scalar o → o.a = some a →
    if a.poison then exec (.spawn f) s = .next (controlUse s u)
    else Checked (.spawn f) s u [wantWord 0 a] (match spawnTarget s u f (laneAt a 0).toNat with
      | none => exec (.spawn f) s = .next (trapped s u illop)
      | some c => Defers (.spawn f) f s u scalar (.spawn c (f.imm.extractLsb' 3 3).toNat))) ∧
  (∀ f s u scalar o, wellFormed (.tear f) = true → Executes 0x173 .any f s u scalar o →
    Defers (.tear f) f s u scalar (.tear (f.imm.extractLsb' 0 8))) ∧
  (∀ f s u scalar o x, wellFormed (.bal f) = true → Executes 0x174 .any f s u scalar o → ctxOf s u.cell = some x →
    Gives (.bal f) f s u scalar fun t fl =>
      if x.balanceKept then OneLong (BitVec.ofInt 64 x.balance) t fl
      else FormedAs blankToken Fmt.int64 0 false 0x7F t ∧ fl = noFlags) ∧
  (∀ f s u scalar o, wellFormed (.svcl f) = true → Executes 0x178 .any f s u scalar o →
    Gives (.svcl f) f s u scalar (AllLanes (s.pkg.level.zeroExtend 32))) ∧
  (∀ f s u scalar o, wellFormed (.ctxid f) = true → Executes 0x17B .any f s u scalar o →
    Gives (.ctxid f) f s u scalar (AllLanes ((asidOf s u.cell).zeroExtend 32))) ∧
  (∀ f s u scalar o, wellFormed (.time f) = true → Executes 0x175 .any f s u scalar o →
    let v := u.fr.time.getD s.pkg.aocnt
    ∃ t fl, exec (.time f) s = .next (executed (modFiring s u.key fun fr => { fr with time := some v }) u f scalar (.one (.data t)) fl) ∧
      OneLong v t fl) ∧
  (∀ f s u scalar o p, wellFormed (.firecnt f) = true → Executes 0x176 .any f s u scalar o → pageOf s u.cell = some p →
    let v := u.fr.count.getD p.fireCount
    ∃ t fl, exec (.firecnt f) s = .next (executed (modFiring s u.key fun fr => { fr with count := some v }) u f scalar
        (.one (.data t)) fl) ∧ OneLong v t fl) ∧
  (∀ f s u scalar o, wellFormed (.evt f) = true → Executes 0x177 .any f s u scalar o →
    match o.a with
    | none => Defers (.evt f) f s u scalar (.event (f.imm.extractLsb' 0 16) 0)
    | some a =>
      if a.poison then exec (.evt f) s = .next (controlUse s u)
      else Checked (.evt f) s u [wantIn 0 a fun g => g == Fmt.uint32 || g == Fmt.int32]
        (if a.valid.getLsbD 0 then Defers (.evt f) f s u scalar (.event (f.imm.extractLsb' 0 16) (laneAt a 0))
         else Does (.evt f) f s u scalar s)) ∧
  (∀ f s u scalar o, wellFormed (.yield f) = true → Executes 0x179 .any f s u scalar o → Defers (.yield f) f s u scalar .yield) ∧
  ∀ f s u scalar o, wellFormed (.prio f) = true → Executes 0x17A .any f s u scalar o →
    Defers (.prio f) f s u scalar (.prio f.mod.toNat)

/-- 16 R413, R431, R434-R439: TRAP stops its firing with code 0x0E; MARK, BRK, SLUICE, REPLAY and GUARD act at retirement; CUTSTAT and
RESUMEQ read four values. -/
def Obligations.RecoveryInstructions : Prop :=
  (∀ f s u scalar o, wellFormed (.trap f) = true → Executes 0x1A1 .any f s u scalar o →
    exec (.trap f) s = .next (trapped s u ⟨.user, 0, (f.imm.extractLsb' 0 16).toNat, 0, lowestSeq s u⟩)) ∧
  (∀ i code f d, (i, code, d) = (.mark f, 0x1A0, .mark) ∨ (i, code, d) = (.brk f, 0x1A2, .brk (f.imm.extractLsb' 0 16).toNat) ∨
      (i, code, d) = (.replay f, 0x1A4, .replay (f.imm.extractLsb' 0 3).toNat) ∨
      (i, code, d) = (.guard f, 0x1A5, .guardMode f.mod.toNat) → wellFormed i = true →
    ∀ s u scalar o, Executes code .any f s u scalar o → Defers i f s u scalar d) ∧
  (∀ f s u scalar o x, wellFormed (.sluice f) = true → Executes 0x1A3 .any f s u scalar o → tget s.instances u.t.inst = some x →
    let k := (f.imm.extractLsb' 0 8).toNat
    if k < x.sluices.length then Defers (.sluice f) f s u scalar (.sluice k (f.mod = 0))
    else exec (.sluice f) s = .next (trapped s u illop)) ∧
  (∀ f s u scalar o x p, wellFormed (.cutstat f) = true → Executes 0x1A6 .any f s u scalar o → tget s.instances u.t.inst = some x →
    pageOf s u.cell = some p →
    Gives (.cutstat f) f s u scalar fun t fl => fl = noFlags ∧ FormedAs blankToken Fmt.uint32 0xF false 0x7F t ∧
      laneAt t 0 = BitVec.ofNat 32 x.lastCut ∧ laneAt t 1 = BitVec.ofNat 32 x.cutNow ∧ laneAt t 2 = p.transients ∧
      laneAt t 3 = BitVec.ofNat 32 (effGuard s u.c.page)) ∧
  ∀ f s u scalar o x p, wellFormed (.resumeq f) = true → Executes 0x1A7 .any f s u scalar o → tget s.instances u.t.inst = some x →
    pageOf s u.cell = some p →
    Gives (.resumeq f) f s u scalar fun t fl => fl = noFlags ∧ FormedAs blankToken Fmt.uint32 0xF false 0x7F t ∧
      laneAt t 0 = p.resumptions ∧ laneAt t 1 = x.rollbacks ∧ laneAt t 2 = BitVec.ofNat 32 (dieOf s u.cell) ∧
      laneAt t 3 = BitVec.ofNat 32 u.fr.resumed.toNat

/-- 13 R356, R357, R365-R370, 16 R409, R423: the collective instructions: CLNUM, CLJOIN, CLLEAVE and CLQUERY ask the sequencer once
and wait; CLPOST and CLCANCEL act at retirement; CLSTAT reads a number's status. Without a sequencer they trap `COLLFAIL`. -/
def Obligations.CollectiveInstructions : Prop :=
  (∀ f s u scalar o a, wellFormed (.clnum f) = true → Executes 0x160 .any f s u scalar o → o.a = some a →
    let g := f.imm.extractLsb' 0 12
    if a.poison then exec (.clnum f) s = .next (controlUse s u)
    else Checked (.clnum f) s u (twoWords a ++ [sequenced s])
      (match replayedNum s u g (laneAt a 0) (laneAt a 1) with
       | some n => ∃ t fl, exec (.clnum f) s = .next (executed (repeated s u (.num g (laneAt a 0) (laneAt a 1) n)) u f scalar
           (.one (.data t)) fl) ∧ AllLanes n t fl
       | none =>
         if u.ins ∉ u.fr.asked ∧ isJoined s (asidOf s u.cell) g = false then
           exec (.clnum f) s = .next (trapped s u ⟨.collFail, 0, 0, 0, 0⟩)
         else Asks (.clnum f) s u g (.number (laneAt a 0) (laneAt a 1)) fun v => Gives (.clnum f) f s u scalar (AllLanes v))) ∧
  (∀ f s u scalar o a, wellFormed (.clpost f) = true → Executes 0x161 .any f s u scalar o → o.a = some a →
    if a.poison then exec (.clpost f) s = .next (controlUse s u)
    else Checked (.clpost f) s u [wantTag 0 a Fmt.raw, unless_ (a.valid = 0xFFFF) 0 a, sequenced s,
        postTrap s u (parseCard a.lanes)] (Defers (.clpost f) f s u scalar (.post a.lanes))) ∧
  (∀ f s u scalar o a, wellFormed (.clcancel f) = true → Executes 0x162 .any f s u scalar o → o.a = some a →
    if a.poison then exec (.clcancel f) s = .next (controlUse s u)
    else Checked (.clcancel f) s u [wantWord 0 a, sequenced s] (Defers (.clcancel f) f s u scalar (.cancel (laneAt a 0)))) ∧
  (∀ f s u scalar o a, wellFormed (.clstat f) = true → Executes 0x163 .any f s u scalar o → o.a = some a →
    if a.poison then exec (.clstat f) s = .next (controlUse s u)
    else Checked (.clstat f) s u [wantWord 0 a] (Gives (.clstat f) f s u scalar (AllLanes
      (if s.collective.primary.isNone then 0 else BitVec.ofNat 32 (statusCode s (asidOf s u.cell) (laneAt a 0)))))) ∧
  (∀ f s u scalar o a, wellFormed (.cljoin f) = true → Executes 0x164 .any f s u scalar o → o.a = some a →
    let g := f.imm.extractLsb' 0 12
    if a.poison then exec (.cljoin f) s = .next (controlUse s u)
    else Checked (.cljoin f) s u (twoWords a ++ [sequenced s])
      (if .join g ∈ repeats s u then Does (.cljoin f) f s u scalar (repeated s u (.join g))
       else Asks (.cljoin f) s u g (.join (laneAt a 0).toNat (laneAt a 1).toNat) fun _ => Does (.cljoin f) f s u scalar s)) ∧
  (∀ f s u scalar o, wellFormed (.clleave f) = true → Executes 0x165 .any f s u scalar o →
    Checked (.clleave f) s u [sequenced s]
      (Asks (.clleave f) s u (f.imm.extractLsb' 0 12) .leave fun _ => Does (.clleave f) f s u scalar s)) ∧
  ∀ f s u scalar o, wellFormed (.clquery f) = true → Executes 0x166 .any f s u scalar o →
    Checked (.clquery f) s u [sequenced s]
      (Asks (.clquery f) s u (f.imm.extractLsb' 0 12) (.query (f.imm.extractLsb' 22 2).toNat) fun v =>
        Gives (.clquery f) f s u scalar (AllLanes v))

/-! ### Events of the part: firings and ports (02 R34-R55, 09 R225-R259, 12 R307-R337, 16 R411-R432) -/

namespace Sys2Proof.Claims

/-- A cell's page is placed and runs. -/
def Placed (s : State) (cell : Nat) : Prop := ∃ p, pageOf s cell = some p ∧ p.frame.isSome = true ∧ p.returned = false ∧
  p.frozen = false ∧ p.freezing = false

/-- A place that memory of a space can be written in. -/
def spaceExists (s : State) : Space → Prop
  | .phys => True
  | .window p => (tget s.pages p).isSome = true
  | .symbols i => (tget s.instances i).isSome = true

/-- A byte after patches (09 R237): each takes the bits of its mask. -/
def patchedByte (ps : List Patch) (a : Nat) (old : Byte) : Byte :=
  ps.foldl (fun b p => if p.addr = a then (b &&& ~~~p.mask) ||| (p.value &&& p.mask) else b) old

/-- The memories of two states hold the same bytes. -/
def sameBytes (s t : State) : Prop := ∀ sp a, byteOf t sp a = byteOf s sp a

/-- An operation that performs changes the bytes of its patches and no others; an atomic those of its element. -/
def Performed (s : State) (page : Nat) (e : Pending) (z : State) : Prop :=
  match e.access with
  | .write w => s.memOk = true → spaceExists s w.space →
      ∀ sp a, byteOf z sp a = if sp = w.space then patchedByte w.patches a (byteOf s sp a) else byteOf s sp a
  | .atomic a => sameBytes (atomicStep s page a).1 z
  | .order _ => sameBytes s z

/-- What comes with an operation as it performs: an acquire empties its page's line buffer (09 R246), and a card written is counted in
`W` (10 R299). -/
def Follows (s : State) (page : Nat) (e : Pending) (z : State) : Prop :=
  (∀ l p, e.acq = some l → 2 ≤ l → tget s.pages page = some p → ∃ q, tget z.pages page = some q ∧ q.lines = []) ∧
  ∀ k c, e.card = some k → tget s.chains k = some c → tget z.chains k = some { c with w := c.w + 1 }

/-- The granules that an operation marks as it performs (10 R268). -/
def marksMade (s : State) (e : Pending) : List (Space × Nat) :=
  match e.access with
  | .atomic a => atomicMark s a
  | .write _ | .order _ => []

/-- A stream token that can be formed: the places of its elements and of its scale byte pass, no codebook token is due before it
(07 R203-R206). -/
def StreamFormed (s : State) (tile j : Nat) (c : Cell) (m : StreamCmd) (g : Fmt) (elems : List (Nat × Int × Nat)) (v : Option Nat)
    (words sc : List ElemRead) : Prop :=
  let p := streamParty s tile m
  v = elems.head?.map (fun e => (elemPlace (if g == Fmt.keyval then Fmt.uint32 else g) m.base e.2.1).1) ∧
  elemReads s p m g (slotAt c j).fill elems = .ok words ∧ scaleReads s p v = .ok sc ∧
  ∀ ka a w, outArc s tile j = some (ka, a) → v = some w → codebookDue s p g w (tget (slotAt c j).lastCb ka) = none

/-- The accesses of a stream token that a turn makes: all that are left, or with `args.l` 1 those of one granule (LOG 33). -/
def madeNow (s : State) (x : StreamSlot) (reads : List ElemRead) : List ElemRead × List ElemRead :=
  let left := reads.filter fun r => !x.fill.any (·.pos == r.pos)
  (if s.args.l = 1 then nextAccess left else left, left)

/-- A token has left a slot: its counts advance and its arc, if it has one, holds the token behind what it held. -/
def TokenLeft (s z : State) (tile j : Nat) (x : StreamSlot) (adv took : Nat) (t : Token) : Prop :=
  (∃ d, tget z.cells tile = some d ∧ (slotAt d j).n = x.n + adv ∧ (slotAt d j).toks = x.toks + 1 ∧
    (slotAt d j).done = x.done + took ∧ (slotAt d j).fill = []) ∧
  ∀ ka a, outArc s tile j = some (ka, a) → tget s.arcs ka = some a →
    ∃ b, tget z.arcs ka = some b ∧ b.queue = a.queue ++ [⟨(portStamp a (.data t)).1, false, none, .good⟩]

/-- The last value written to register `k`, if one was. -/
def lastWrite (l : List (Nat × Token)) (k : Nat) : Option Token := (l.reverse.find? fun x => x.1 = k).map (·.2)

end Sys2Proof.Claims

/-- 02 R34-R41, 09 R225, 12 R307-R311, R319-R337, 13 R345, 16 R404, R411: the arbiter's choice, acceptance, a Spillway's pass, a
replay, a drain, a slot's teardown, a `SPAWN` that arrives, a flit's retry and a module left out. -/
def Obligations.FiringAndPortEvents : Prop :=
  -- ARBITER_CHOICE: the chosen task fires its block; a considered block that is none traps; over the cap a choice may be idle.
  (∀ s c level n t, tget s.cells s.args.i = some c → cellRuns s s.args.i = true → s.pkg.idleChoices = false →
    (∀ kt, kt ∈ tasksOf s s.args.i → considered s s.args.i c kt.2 = none) → nextChoice s s.args.i c = some (level, n) →
    tget s.tasks (s.args.i, n) = some t → headsChecked s s.args.i (readPorts c t.block) = (s, .clear, 0) → t.traps = [] →
    blockBad c t.block = false → blockTrap (setPointer s s.args.i level (n + 1)) c t = none →
    Happens .arbiterChoice s fun z => ∃ fr, fr.block = t.block ∧ fr.done = [] ∧ fr.got = [] ∧ fr.sends = [] ∧ fr.writes = [] ∧
      fr.deferred = [] ∧ fr.exit = none ∧ fr.parts = [] ∧
      tget z.tasks (s.args.i, n) = some { t with state := .firing, acqAll := false, resumed := false, firing := some fr }) ∧
  (∀ s c, tget s.cells s.args.i = some c → cellRuns s s.args.i = true → s.pkg.idleChoices = true →
    exec .arbiterChoice s = .next (if Config.choiceIdle s.free then freshChoice s else arbiterChoice (freshChoice s) s.args.i c)) ∧
  (∀ s c n info, tget s.cells s.args.i = some c → cellRuns s s.args.i = true → s.pkg.idleChoices = false →
    ((tasksOf s s.args.i).findSome? fun kt => (considered s s.args.i c kt.2).map fun i => (kt.1, i)) = some (n, info) →
    exec .arbiterChoice s = .next (takeTrap s s.args.i n info 0xFF)) ∧
  -- TOKEN_ACCEPT: the first offered token enters a slot, and E advances; an arc from a saved page carries nothing (09 R227).
  (∀ s a x, tget s.arcs s.args.i = some a → s.args.item = none → a.ports.gap = none → offeredHead a = some x →
    Placed s a.cCell → pageStill s (pageIdOf s a.pCell) = false → portClosed s a.cCell a.cPort = false → arcClosed a = false →
    a.armed = false → spillOf s s.args.i a = none → (heldCount a < a.slots ∨ a.slots = 0 ∧ heldCount a = 0) →
    (∀ y ∈ a.queue, isMarker y.item = false) → isTeardown x.item = false →
    Happens .tokenAccept s fun z => ∃ b, tget z.arcs s.args.i = some b ∧ b.ports.cE = a.ports.cE + 1 ∧
      b.queue = holdFirst { x with item := (arrive a x.item).1, held := true, level := carriedLevel s a x.level } a.queue) ∧
  (∀ s a x p, tget s.arcs s.args.i = some a → s.args.item = none → a.ports.gap = none → offeredHead a = some x →
    pageOf s a.cCell = some p → p.returned = true → pageStill s (pageIdOf s a.pCell) = false →
    Happens .tokenAccept s fun z => ∃ b, tget z.arcs s.args.i = some b ∧ b.ports.cE = a.ports.cE + 1 ∧ b.queue = dropFirst a.queue) ∧
  (∀ s a, tget s.arcs s.args.i = some a → s.args.item = none → pageStill s (pageIdOf s a.pCell) = true →
    exec .tokenAccept s = .next s) ∧
  -- SPILLWAY_PASS: the oldest token leaves the queue for a free slot.
  (∀ s x arc a it r, tget s.contexts s.args.asid = some x → (h : s.args.i < 16) → x.spill[s.args.i].arc = some arc →
    x.spill[s.args.i].items = it :: r → tget s.arcs arc = some a → heldCount a < a.slots → cellRuns s a.cCell = true →
    Placed s a.cCell →
    Happens .spillwayPass s fun z => (∃ y, tget z.contexts s.args.asid = some y ∧ y.spill[s.args.i].items = r) ∧
      (it.held = true → isMarker it.item = false → isTeardown it.item = false → (∀ y ∈ a.queue, isMarker y.item = false) →
        portClosed s a.cCell a.cPort = false → arcClosed a = false → ∃ b, tget z.arcs arc = some b ∧
          b.queue = a.queue.filter (·.held) ++ [{ it with level := carriedLevel s a it.level }] ++ a.queue.filter fun y => !y.held)) ∧
  -- REPLAY_SEND: the head awaited is filled by a copy, which arrives as any token does (02 R35, R41), or poisoned where the window
  -- holds none.
  (∀ s a q h l, tget s.arcs s.args.i = some a → a.ports.awaiting = some q → cellRuns s a.cCell = true → cellRuns s a.pCell = true →
    a.queue = h :: l →
    (∀ r, replayEntry s s.args.i a q = some r → Happens .replaySend s fun z => tget z.arcs s.args.i = some { a with
      ports := { a.ports with awaiting := none }, queue := { h with item := arriveHead s s.args.i a (.data (replayCopy s r)), ecc := .good } :: l }) ∧
    (replayEntry s s.args.i a q = none → h.held = true → h.ecc ≠ .sideband → Happens .replaySend s fun z => tget z.arcs s.args.i = some { a with
      ports := { a.ports with awaiting := none }, queue := { h with item := poisonItem h.item, ecc := .good } :: l })) ∧
  -- TASK_DRAIN: a task whose ports are closed drains, and is Drained once nothing is left to send.
  (∀ s c t, tget s.cells s.args.i = some c → tget s.tasks (s.args.i, s.args.j) = some t → cellRuns s s.args.i = true →
    t.firing = none → (t.state = .waiting ∨ t.state = .finished) → t.frozen = false →
    (t.draining = false → drainDue s s.args.i t = true → (countMismatch s s.args.i c t = none ∨ t.state = .finished) →
      (holdsAny s (s.args.i, s.args.j) t.banks = false ∨ unperformed s (s.args.i, s.args.j) = []) →
      Happens .taskDrain s fun z => ∃ y, tget z.tasks (s.args.i, s.args.j) = some y ∧ (y.draining = true ∨ y.state = .drained) ∧
        y.restart = false ∧ y.firing = none) ∧
    (t.draining = true → releaseLeft s t = false → (taskOuts c t).filter (fun p => !(arcsFrom s s.args.i p).isEmpty) = [] →
      Happens .taskDrain s fun z => tget z.tasks (s.args.i, s.args.j) =
        some { t with state := .drained, draining := false, restart := false, firing := none })) ∧
  -- STREAM_SLOT_TEARDOWN: teardown tokens leave on every copy of the slot's output that has room.
  (∀ s c, tget s.cells s.args.i = some c → c.kind = .t → s.args.j < 4 → cellRuns s s.args.i = true →
    (slotAt c s.args.j).state = .idle → portClosed s s.args.i s.args.j = true →
    Happens .streamSlotTeardown s fun z => ∀ k a, (k, a) ∈ arcsFrom s s.args.i s.args.j → tget s.arcs k = some a →
      arcRoom s k a ≠ 0 → ∃ b, tget z.arcs k = some b ∧ b.ports.pClosed = true) ∧
  -- SPAWN_ARRIVE: a Finished task restarts, any other keeps its restart bit; the request is gone.
  (∀ s r c t, s.spawns[s.args.i]? = some r → tget s.cells r.cell = some c → tget s.tasks (r.cell, r.task) = some t →
    Placed s r.cell → t.state ≠ .drained → (t.state = .finished → countMismatch s r.cell c (restartTask t) = none) →
    Happens .spawnArrive s fun z => z.spawns = s.spawns.eraseIdx s.args.i ∧ tget z.tasks (r.cell, r.task) = some
      (if t.state = .finished then { t with state := .waiting, block := t.entry, acqAll := true, firing := none }
       else { t with restart := true })) ∧
  -- FLIT_CRC_RETRY and UCIE_MODULE_EXCLUDE.
  (∀ s, exec .flitCrcRetry s = .next s) ∧
  (∀ s, (h : s.args.i < 4) → dieFitted s s.args.i = true → s.args.j < 3 → s.args.k < 16 →
    (∀ m e, edgeAcross s.args.i s.args.j = some (m, e) → dieFitted s m = true) →
    Happens .ucieModuleExclude s fun z => (s.args.j, s.args.k) ∈ z.pkg.dies[s.args.i].modulesOut ∧ z.tasks = s.tasks ∧
      (∀ m e, (hm : m < 4) → edgeAcross s.args.i s.args.j = some (m, e) → (e, s.args.k) ∈ z.pkg.dies[m].modulesOut) ∧
      ∀ n, (hn : n < 4) → ∀ x ∈ s.pkg.dies[n].modulesOut, x ∈ z.pkg.dies[n].modulesOut)

/-- 02 R49, R55, 05 R116, 09 R235-R252, 15 R388, 16 R430: a retirement writes the registers and flags and takes the exit; pending
operations perform at their homes, releases complete, translations are held and trap records written. -/
def Obligations.RetirementEvents : Prop :=
  -- BLOCK_RETIRE
  (∀ s c t fr, tget s.cells s.args.i = some c → tget s.tasks (s.args.i, s.args.j) = some t → t.firing = some fr →
    mayRetire s (s.args.i, s.args.j) c t fr = true → cellRuns s s.args.i = true →
    (∀ n, closedSend s s.args.i c fr = some n → exec .blockRetire s = .next (takeTrap s s.args.i s.args.j illop n)) ∧
    (closedSend s s.args.i c fr = none → Happens .blockRetire s fun z => ∃ y, tget z.tasks (s.args.i, s.args.j) = some y ∧
      y.firing = none ∧
      (∀ k, (h : k < 16) → y.sregs[k] = match lastWrite fr.writes k with | some x => some x | none => t.sregs[k]) ∧
      (∀ k, (h : k < 16) → y.flags[k] = t.flags[k] &&& ~~~(clearMasks fr)[k] ||| fr.raised[k]) ∧
      (tearMask fr = none → brkOf fr = none → exitValid (hExit (headerAt c fr.block) (fr.exit.getD 0)) = true →
        y.block = exitAddr (hExit (headerAt c fr.block) (fr.exit.getD 0))) ∧
      (tearMask fr = none → brkOf fr = none → exitValid (hExit (headerAt c fr.block) (fr.exit.getD 0)) = false → t.restart = false →
        y.state = .finished) ∧
      (tearMask fr = none → (brkOf fr).isSome = true → y.state = .trapped) ∧
      ((tearMask fr).isSome = true → y.state = .drained))) ∧
  -- HOME_ACCESS_APPLY and ATOMIC_APPLY
  (∀ s t e, tget s.tasks (s.args.i, s.args.j) = some t → t.pending[s.args.k]? = some e →
    mayApply s (s.args.i, s.args.j) t s.args.k e = true → trapAhead s s.args.i t e = false →
    let ev := if isAtomic e then Instr.atomicApply else Instr.homeAccessApply
    let e1 := { e with arrived := some (nextArrival s) }
    let s1 := setTask s (s.args.i, s.args.j) { t with pending := t.pending.set s.args.k e1 }
    let applied (z : State) : Prop :=
      tget z.tasks (s.args.i, s.args.j) = some { t with
        pending := (t.pending.eraseIdx s.args.k).map (ownEntry (marksMade s e) e) } ∧ Performed s (pageIdOf s s.args.i) e z ∧
      Follows s (pageIdOf s s.args.i) e z
    (isAtomic e = false → s.args.flag = false) →
    (∀ b, e.access = .order b → e.arrived = none → Happens ev s applied) ∧
    (isOrder e = false → entryDest s e = none → e.arrived = none → mayArrive s e = true → s.args.l = 1 → exec ev s = .next s1) ∧
    (∀ x, entryDest s e = none → e.arrived = none → mayArrive s e = true → s.args.l ≠ 1 → standingOf s.args.i e1 = some x →
      standsNext s1 x = true → Happens ev s applied) ∧
    (∀ x, entryDest s e = none → s.args.l ≠ 1 → standingOf s.args.i e = some x → standsNext s x = true → Happens ev s applied) ∧
    (∀ d, entryDest s e = some d → Happens ev s fun z =>
      tget z.tasks (s.args.i, s.args.j) = some { t with pending := t.pending.eraseIdx s.args.k } ∧ sameBytes s z ∧
      z.outbound = s.outbound ++ [⟨d, s.args.i, s.args.j, { e with card := none }⟩] ∧
      ∀ k c, e.card = some k → tget s.chains k = some c → tget z.chains k = some { c with w := c.w + 1 })) ∧
  -- HOME_ACCESS_APPLY of one piece of a job
  (∀ s ch j d segs, s.args.flag = true → tget s.chains s.args.i = some ch →
    ch.inFlight.find? (·.n == s.args.j) = some j → (parseCard j.card).eng ≠ 4 → j.finished = false → s.args.k ∉ j.chunks →
    s.args.k < chunkCount (parseCard j.card) →
    (match j.fetched.find? (·.1 == s.args.k) with
     | some f => d = ⟨f.2.1, f.2.2, []⟩
     | none => chunkData s (jobParty s ch) (parseCard j.card) s.args.k = .ok d) →
    (j.fetched.any (·.1 == s.args.k) = false → s.args.l = 1 → accessWaits s (.chain s.args.i) d.segs = false →
      Happens .homeAccessApply s fun z =>
        tget z.chains s.args.i = some { ch with inFlight := ch.inFlight.map fun x =>
          if x.n == s.args.j then { x with fetched := (s.args.k, d.bytes, d.poisoned) :: x.fetched } else x } ∧ sameBytes s z) ∧
    (spanOf s (jobParty s ch) ⟨0, none⟩ Need.write (chunkSpan (parseCard j.card) s.args.k).1 (chunkSpan (parseCard j.card) s.args.k).2
        = .ok segs → s.args.l ≠ 1 → accessWaits s (.chain s.args.i) (d.segs ++ segs) = false →
      Happens .homeAccessApply s fun z =>
        tget z.chains s.args.i = some { ch with inFlight := ch.inFlight.map fun x =>
          if x.n == s.args.j then
            { x with chunks := s.args.k :: x.chunks, fetched := x.fetched.filter (·.1 != s.args.k) } else x } ∧
        sameBytes (engineWrites s (groupWrites (putBytes segs d.bytes) [] d.poisoned false)) z)) ∧
  -- REMOTE_OUTBOUND_SEND
  (∀ s o, s.outbound.find? (·.dest == s.args.i) = some o → reachable s o.dest = true →
    homesOpen s .queue ((accessStart o.entry.access).toList.map fun x => ⟨0, 1, x.1, x.2⟩) = true →
    Happens .remoteOutboundSend s fun z => Performed s (pageIdOf s o.cell) o.entry z ∧ Follows s (pageIdOf s o.cell) o.entry z ∧
      z.outbound = (s.outbound.erase o).map fun q =>
        if q.cell == o.cell && q.task == o.task then { q with entry := ownEntry (marksMade s o.entry) o.entry q.entry } else q) ∧
  -- RELEASE_COMPLETE
  (∀ s c t fr l, tget s.cells s.args.i = some c → tget s.tasks (s.args.i, s.args.j) = some t → t.firing = some fr →
    fr.relLevel = some l →
    (∀ m, m < blockLen c fr.block → m ∈ fr.done ∨ ∀ k, moOf (insWord c fr.block m) = some k → fr.relMo ≤ k) →
    (∀ e, e ∈ (if l ≤ 5 then t.pending.filter fun e => !isOrder e else unperformed s (s.args.i, s.args.j)) →
      t.firings ≤ e.firing ∧ fr.relMo ≤ e.mo) →
    Happens .releaseComplete s fun z =>
      tget z.tasks (s.args.i, s.args.j) = some { t with firing := some { fr with relDone := true } } ∧ sameBytes s z) ∧
  -- TRANSLATION_WALK: the translation that the walk of the context's tables finds is held, unless the die holds one of that address;
  -- the entry that covers the address is, where there is one.
  (∀ s x, dieFitted s s.args.i = true → tget s.contexts s.args.asid = some x →
    let v := s.args.j % 2 ^ 57
    let held (y : Xlate) : Prop := y.die = s.args.i ∧ y.asid = s.args.asid ∧ y.vbase ≤ v ∧ v < y.vbase + y.size
    Happens .translationWalk s fun z => sameBytes s z ∧ z.tasks = s.tasks ∧
      (∀ y ∈ s.xlates, y ∈ z.xlates) ∧
      (∀ m, inWindow v = false → inSymbols v = false → (∀ h ∈ s.rangeHeld, ¬(h.die = s.args.i ∧ h.asid = s.args.asid ∧ covers v h.entry)) →
        (∀ e ∈ x.ranges, covers v e = false) → (∀ y ∈ s.xlates, ¬held y) → walkFrom s v 5 (ctxPtRoot x.word) = some m →
        (⟨s.args.i, s.args.asid, m.vbase, m.size, m.pbase, m.readable, m.writable⟩ : Xlate) ∈ z.xlates) ∧
      (∀ e, inWindow v = false → inSymbols v = false → (∀ h ∈ s.rangeHeld, ¬(h.die = s.args.i ∧ h.asid = s.args.asid ∧ covers v h.entry)) →
        x.ranges.find? (covers v) = some e → (⟨s.args.i, s.args.asid, e⟩ : RangeHeld) ∈ z.rangeHeld) ∧
      ∀ y ∈ z.xlates, y ∈ s.xlates ∨ (y.die = s.args.i ∧ y.asid = s.args.asid)) ∧
  -- TRAP_RECORD_WRITE
  (∀ s x r l, tget s.contexts s.args.asid = some x → x.trapsDue = r :: l →
    (x.traps.wr - x.traps.rd).toNat + recordLen r ≤ 1024 →
    Happens .trapRecordWrite s fun z => ∃ y, tget z.contexts s.args.asid = some y ∧ y.trapsDue = l ∧
      y.traps.wr = x.traps.wr + BitVec.ofNat 64 (recordLen r) ∧ y.traps.nextSeq = x.traps.nextSeq + 1 ∧
      tget y.traps.slots (x.traps.wr.toNat % 1024) = some { r with seqn := x.traps.nextSeq } ∧ z.pkg.notify.getLsbD 1 = true)

/-- 07 R199-R209, 10 R291-R298, 13 R361-R366, 16 R410: stream slots take commands, send tokens, gather, write and co-iterate; chains
issue and complete jobs; numbers execute and finish in order. -/
def Obligations.StreamAndJobEvents : Prop :=
  -- STREAM_COMMAND_ACCEPT
  (∀ s c s1 k m q, tget s.cells s.args.i = some c → c.kind = .t → s.args.j < 4 → cellRuns s s.args.i = true →
    (slotAt c s.args.j).state = .idle → takeHead s s.args.i s.args.j = .some s1 k (.command m q) → cmdArrived s1 m c.page = true →
    let bad := (m.write ∧ m.eos ∨ m.join) ∧ arcsFrom s s.args.i s.args.j = [] ∨ m.indirect ∧ arcsFrom s s.args.i m.idxSlot ≠ []
    Happens .streamCommandAccept s fun z => ∃ d, tget z.cells s.args.i = some d ∧ (slotAt d s.args.j).cmd.isSome = true ∧
      (bad → (slotAt d s.args.j).state = .faulted) ∧
      (¬bad → m.join = false → (0 < m.len ∨ m.eos = true) → slotAt d s.args.j =
        { slotAt c s.args.j with
          state := .running, cmd := some m, n := 0, done := 0, toks := 0, prevKey := none, endDue := m.eos, index := []
          fill := [], wrote := 0 }) ∧
      (¬bad → m.join = true → joinPartner c s.args.j m = false → (slotAt d s.args.j).state = .waiting)) ∧
  -- STREAM_READ_TOKEN_SEND
  (∀ s c m, tget s.cells s.args.i = some c → s.args.j < 4 → (slotAt c s.args.j).cmd = some m → (slotAt c s.args.j).state = .running →
    cellRuns s s.args.i = true → slotRoom s s.args.i c s.args.j = true →
    (slotFinished (slotAt c s.args.j) = false → m.write = false → m.join = false → m.indirect = false →
      ∀ v words sc,
      let p := streamParty s s.args.i m
      let g := streamFmt s p m
      let x := slotAt c s.args.j
      let k := min (streamWidth g) (m.len - x.n)
      let made := madeNow s x (words ++ sc)
      StreamFormed s s.args.i s.args.j c m g ((List.range k).map fun i => (i, ((x.n + i : Nat) : Int) * m.stride, x.n + i)) v words
        sc →
      (made.1.length = made.2.length → accessWaits s (tilePort s.args.i) (allSegs made.1) = false →
        Happens .streamReadTokenSend s fun z => TokenLeft s z s.args.i s.args.j x k k
          (readToken s g (streamMask g k) (scaleNow s x.fill sc) m.poison x.fill (words ++ sc))) ∧
      (made.1.length ≠ made.2.length → accessWaits s (tilePort s.args.i) (allSegs made.1) = false →
        Happens .streamReadTokenSend s fun z => z.arcs = s.arcs ∧ sameBytes s z ∧ ∃ d, tget z.cells s.args.i = some d ∧
          slotAt d s.args.j = { x with fill := x.fill ++ made.1.map fun r => ⟨r.pos, (homeRead s r.segs).1, (homeRead s r.segs).2⟩ })) ∧
    -- a codebook token goes ahead of the first data token of another codebook on each copy of the arc (04 R98, 12 R319)
    (slotFinished (slotAt c s.args.j) = false → m.write = false → m.join = false → m.indirect = false →
      ∀ ka a words sc t cb segs,
      let p := streamParty s s.args.i m
      let g := streamFmt s p m
      let x := slotAt c s.args.j
      let k := min (streamWidth g) (m.len - x.n)
      let v := (elemPlace (if g == Fmt.keyval then Fmt.uint32 else g) m.base ((x.n : Int) * m.stride)).1
      elemReads s p m g x.fill ((List.range k).map fun i => (i, ((x.n + i : Nat) : Int) * m.stride, x.n + i)) = .ok words →
      scaleReads s p (some v) = .ok sc → outArc s s.args.i s.args.j = some (ka, a) → tget s.arcs ka = some a →
      codebookDue s p g v (tget x.lastCb ka) = some (.ok (t, cb, segs)) → accessWaits s (tilePort s.args.i) segs = false →
      Happens .streamReadTokenSend s fun z =>
        (∃ d, tget z.cells s.args.i = some d ∧ (slotAt d s.args.j).n = x.n ∧ (slotAt d s.args.j).toks = x.toks ∧
          tget (slotAt d s.args.j).lastCb ka = some cb) ∧
        ∃ b, tget z.arcs ka = some b ∧ b.queue = a.queue ++ [⟨(portStamp a (.data t)).1, false, none, .good⟩]) ∧
    (slotFinished (slotAt c s.args.j) = true → (slotAt c s.args.j).endDue = true →
      Happens .streamReadTokenSend s fun z => (∃ d, tget z.cells s.args.i = some d ∧ (slotAt d s.args.j).endDue = false) ∧
        ∀ ka a, outArc s s.args.i s.args.j = some (ka, a) → tget s.arcs ka = some a →
          ∃ b, tget z.arcs ka = some b ∧ b.queue = a.queue ++
            [⟨(portStamp a (.data (endToken (slotAt c s.args.j).toks))).1, false, if m.write then some 7 else none, .good⟩])) ∧
  -- INDIRECT_STREAM_GATHER
  (∀ s c m t r, tget s.cells s.args.i = some c → s.args.j < 4 → (slotAt c s.args.j).cmd = some m → (slotAt c s.args.j).index = t :: r →
    (slotAt c s.args.j).state = .running → m.indirect = true → slotFinished (slotAt c s.args.j) = false → cellRuns s s.args.i = true →
    slotRoom s s.args.i c s.args.j = true →
    (¬(t.kind = 0 ∧ (t.fmt = Fmt.int32 ∨ t.fmt = Fmt.uint32)) → Happens .indirectStreamGather s fun z =>
      ∃ d, tget z.cells s.args.i = some d ∧ (slotAt d s.args.j).state = .faulted) ∧
    (t.kind = 0 → (t.fmt = Fmt.int32 ∨ t.fmt = Fmt.uint32) → ∀ v words sc,
      let p := streamParty s s.args.i m
      let g := streamFmt s p m
      let x := slotAt c s.args.j
      let two := isPair g || g == Fmt.keyval
      let idx := (List.range (if two then 8 else 16)).filter (validAt t)
      let w := if two then 1 else perLane g
      let lane (i : Nat) : Nat := if isPair g then i / 2 else if g == Fmt.keyval then i % 8 else i
      let made := madeNow s x (words ++ sc)
      StreamFormed s s.args.i s.args.j c m g (idx.map fun i => (i * w, indexAt t i * m.stride, 16 * x.n + i)) v words sc →
      made.1.length = made.2.length → accessWaits s (tilePort s.args.i) (allSegs made.1) = false →
      Happens .indirectStreamGather s fun z => TokenLeft s z s.args.i s.args.j x 1 idx.length
          (readToken s g (BitVec.ofFnLE fun i => idx.contains (lane i.val)) (scaleNow s x.fill sc) m.poison x.fill (words ++ sc)) ∧
        ∃ d, tget z.cells s.args.i = some d ∧ ((slotAt d s.args.j).state = .running → (slotAt d s.args.j).index = r))) ∧
  -- STREAM_PUSH_TAKE
  (∀ s c m s1 k t l, tget s.cells s.args.i = some c → s.args.j < 4 → (slotAt c s.args.j).cmd = some m →
    (slotAt c s.args.j).state = .running → m.write = true → slotFinished (slotAt c s.args.j) = false → cellRuns s s.args.i = true →
    takeHead s s.args.i (s.args.j + 4) = .some s1 k (.data t) → t.kind = 0 →
    let p := streamParty s s.args.i m
    let g := if m.fmt ≠ Fmt.fromOperand then m.fmt else match entryAt s p m.base with | some e => rgFmt e | none => t.fmt
    let n := (slotAt c s.args.j).n
    let todo := (groupWrites (l.flatMap (pushPuts g t)) [] (t.poison || m.poison) false).drop (slotAt c s.args.j).wrote
    let now := if s.args.l = 1 then todo.take 1 else todo
    t.fmt = g → pushSpans s p m g (pushedElems g t n m.len) = .ok l → accessWaits s1 (tilePort s.args.i) (writeSegs now) = false →
    Happens .streamPushTake s fun z => sameBytes (applyWrites s1 now) z ∧
      ∃ d, tget z.cells s.args.i = some d ∧
        (now.length = todo.length → (slotAt d s.args.j).n = n + streamWidth g ∧ (slotAt d s.args.j).wrote = 0 ∧
          (slotAt d s.args.j).done = (slotAt c s.args.j).done + l.length ∧ (slotAt d s.args.j).toks = (slotAt c s.args.j).toks + 1) ∧
        (now.length ≠ todo.length → slotAt d s.args.j = { slotAt c s.args.j with wrote := (slotAt c s.args.j).wrote + 1 })) ∧
  -- COITERATION_STEP: a whole step, or the next read of a key (LOG 33, DESIGN CHOICE)
  (∀ s c m w, tget s.cells s.args.i = some c → s.args.j < 4 → m.part < 4 → (slotAt c s.args.j).cmd = some m →
    (slotAt c m.part).cmd = some w → m.join = true → w.join = true → w.part = s.args.j → m.part ≠ s.args.j →
    (slotAt c s.args.j).state = .running → (slotAt c m.part).state = .running → cellRuns s s.args.i = true →
    slotRoom s s.args.i c s.args.j = true → slotRoom s s.args.i c m.part = true →
    ((slotAt c s.args.j).n < m.len ∨ (slotAt c m.part).n < w.len) →
    let da : JoinSide := ⟨streamParty s s.args.i m, m, (slotAt c s.args.j).fill⟩
    let db : JoinSide := ⟨streamParty s s.args.i w, w, (slotAt c m.part).fill⟩
    let r := joinStep s (s.args.l == 1) da db 8 0 ⟨(slotAt c s.args.j).n, (slotAt c s.args.j).prevKey, 0, (slotAt c s.args.j).n⟩
      ⟨(slotAt c m.part).n, (slotAt c m.part).prevKey, 0, (slotAt c m.part).n⟩ [] []
    let left (d : JoinSide) (t : Taken) (l : List ElemRead) : List ElemRead :=
      l.filter fun e => !(laneFill t d.fill l).any (·.pos == e.pos)
    (∀ x y ta tb ra rb, r = .ok (x, y, ta, tb) → joinReads s da ta = .ok ra → joinReads s db tb = .ok rb → s.args.l ≠ 1 →
      accessWaits s (tilePort s.args.i) (allSegs (seenReads s da (slotAt c s.args.j).n x ++ left da ta ra ++
        seenReads s db (slotAt c m.part).n y ++ left db tb rb)) = false →
      Happens .coiterationStep s fun z => ∃ d, tget z.cells s.args.i = some d ∧
        (slotAt d s.args.j).n = x.n ∧ (slotAt d m.part).n = y.n ∧
        (slotAt d s.args.j).prevKey = x.prev ∧ (slotAt d m.part).prevKey = y.prev ∧
        (slotAt d s.args.j).toks = (slotAt c s.args.j).toks + 1 ∧ (slotAt d m.part).toks = (slotAt c m.part).toks + 1) ∧
    ∀ second n, r = .error (second, .need n) →
      let k := if second then m.part else s.args.j
      let e := if second then db else da
      let now := nextAccess ((keyReads s e 16 n).filter fun r => !e.fill.any (·.pos == r.pos))
      accessWaits s (tilePort s.args.i) (allSegs now) = false →
      Happens .coiterationStep s fun z => z.arcs = s.arcs ∧ sameBytes s z ∧ ∃ d, tget z.cells s.args.i = some d ∧
        slotAt d k = { slotAt c k with
          fill := (slotAt c k).fill ++ now.map fun r => ⟨r.pos, (homeRead s r.segs).1, (homeRead s r.segs).2⟩ }) ∧
  -- CHAIN_JOB_ISSUE
  (∀ s ch, tget s.chains s.args.i = some ch → ch.stopped = false → cellRuns s ch.cell = true → ch.issued < ch.t →
    accessWaits s (.chain s.args.i) ((cardSegs s ch ch.issued).getD []) = false →
    let card := cardAt s ch ch.issued
    let c := parseCard card
    (malformed s ch c = true → Happens .chainJobIssue s fun z => ∃ d, tget z.chains s.args.i = some d ∧ d.stopped = true) ∧
    (malformed s ch c = false → edgesHold ch c = false → enginesBusy s ch c = false → c.eng ≠ 4 →
      (c.pop = true → (fifoOf s (asidOf s ch.cell) c.qf).resPop < (fifoOf s (asidOf s ch.cell) c.qf).count ∧
        popGranted s (asidOf s ch.cell) c.qf (chainKey s ch) = true) →
      Happens .chainJobIssue s fun z => tget z.chains s.args.i =
        some { ch with issued := ch.issued + 1, inFlight := ch.inFlight ++ [⟨ch.issued, card, [], [], false, false⟩] })) ∧
  -- ENGINE_JOB_COMPLETE
  (∀ s ch j, tget s.chains s.args.i = some ch → ch.inFlight.find? (·.n == s.args.j) = some j → jobDone j = true →
    (∀ segs, sequenceSegs s ch = .ok segs → accessWaits s (.chain s.args.i) segs = false) →
    ((parseCard j.card).push = true → (parseCard j.card).eng ≠ 4 →
      (fifoOf s (asidOf s ch.cell) (parseCard j.card).pf).count + (fifoOf s (asidOf s ch.cell) (parseCard j.card).pf).resPush < 64) →
    Happens .engineJobComplete s fun z => ∃ d, tget z.chains s.args.i = some d ∧ d.inFlight = ch.inFlight.filter (fun x => x.n != j.n) ∧
      ch.q ≤ d.q ∧ (∀ n, ch.q ≤ n → n < d.q → n ∈ j.n :: ch.finished) ∧ d.q ∉ j.n :: ch.finished) ∧
  -- FIFO_PENDING_PUSH: the oldest push due; the collective job that it belongs to has pushed.
  (∀ s x job rest, tget s.contexts s.args.asid = some x → (h : s.args.i < 16) → x.fifos[s.args.i].duePushes = job :: rest →
    x.fifos[s.args.i].count + x.fifos[s.args.i].resPush < 64 →
    Happens .fifoPendingPush s fun z => (∃ y, tget z.contexts s.args.asid = some y ∧
        y.fifos[s.args.i] = { x.fifos[s.args.i] with count := x.fifos[s.args.i].count + 1, duePushes := rest }) ∧
      ∀ id n ch, job = some (id, n) → tget s.chains id = some ch → tget z.chains id = some { ch with
        inFlight := ch.inFlight.map fun j => if j.n == n then { j with pushed := true } else j }) ∧
  -- COLLECTIVE_EXECUTE: the whole of it, or the next read of an input (LOG 33, DESIGN CHOICE)
  (∀ s l (good : List HereAt), nextNum s.collective = some l → l.state = .announced → l.go = true → l.cancelNotice = false →
    l.failNotice = false → l.part.outs = none → (membersHere s l).length = l.members.length →
    (∀ h ∈ membersHere s l, hereWaits s h = false) →
    (membersHere s l).map (fun h => (h, hereInput s h)) = good.map (fun x => (x.1, .ok x.2)) →
    let left := (good.flatMap (·.2.1)).drop l.part.reads.length
    (∀ inputs, s.args.l ≠ 1 → l.part.wrote = 0 →
      allInputs (((membersHere s l).head?.map (·.size)).getD 0)
        (splitReads good (l.part.reads ++ left.map fun g => homeRead s [g])) s.args.others = some inputs →
      accessWaits s .collective (left ++ good.flatMap (·.2.2)) = false →
      Happens .collectiveExecute s fun z => (∃ n, localNum z l.number = some n ∧ n.state = .executing) ∧
        sameBytes (engineWrites s ((good.zip (givenOutputs inputs s.args.flag s.free good)).flatMap fun x =>
          outputWrites x.1.2.2 x.2)) z) ∧
    ∀ g r, s.args.l = 1 → left = g :: r → accessWaits s .collective [g] = false →
      Happens .collectiveExecute s fun z => sameBytes s z ∧ ∃ n, localNum z l.number = some n ∧
        n.part = { l.part with reads := l.part.reads ++ [homeRead s [g]] }) ∧
  -- COLLECTIVE_FINISH
  (∀ s l st, nextNum s.collective = some l →
    (l.failNotice = true ∧ st = .failed ∨ l.failNotice = false ∧ l.state = .executing ∧ st = .complete ∨
      l.failNotice = false ∧ l.state ≠ .executing ∧ l.cancelNotice = true ∧ st = .cancelled) →
    Happens .collectiveFinish s fun z => z.collective.lastFinished = some l.number ∧
      ∃ n, localNum z l.number = some n ∧ n.state = st)

/-! ### Events of the pod's collectives (13 R356-R370, 16 R428) -/

namespace Sys2Proof.Claims

/-- What the sequencer here leaves of a request of its own package (R358, R359): its records, and its answer on the channel. -/
def Answered (s z : State) (q : SeqReq) (r : SeqRecords) (l : List SeqMsg) : Prop :=
  z.collective.records = { r with waiting := s.collective.records.waiting.erase q } ∧
  z.collective.channel = s.collective.channel ++ l

/-- A request of the package that holds the sequencer arrives there, and a standby has recorded what it changes (R367). -/
structure Arrives (s : State) (q : SeqReq) : Prop where
  here : onPrimary s = true
  own : q.pkg = ownPackage s
  told : s.args.req = some q
  known : s.collective.standby = none ∨ s.args.flag = true

/-- A new number lies 2^30 or more ahead of one that a package has not finished, or that has neither go nor cancellation (R360). -/
def TooFar (s : State) : Prop :=
  ∃ n ∈ s.collective.records.numbers, ahead n.number s.collective.records.next = false ∧
    ((s.args.k = 1 ∧ n.number = s.args.n32) ∨ (∃ l ∈ s.collective.numbers, numDone l = false ∧ l.number = n.number) ∨
      n.go = false ∧ n.cancelled = false ∧ n.failed = false)

end Sys2Proof.Claims

/-- 13 R356-R369, 16 R428: the sequencer's handling of a number, a joining, a leaving, a cancellation, a post and a query, what a
package is then told, and what becomes of a lost sequencer, member or link. The choice among duties that arrive together is LOG 1, DESIGN CHOICE. -/
def Obligations.SequencerEvents : Prop :=
  -- SEQ_NUMBER_REQUEST: the first asker takes the next number and every member's package is told; a later asker takes the same.
  (∀ s q site inst, Arrives s q → q.kind = .number site inst →
    let R := s.collective.records
    let g := seqGroup R q.group
    groupFormed g = true →
    (groupHas g q.pkg q.asid = false → Happens .seqNumberRequest s fun z => Answered s z q R [.refuse q.cell q.task q.ins]) ∧
    (groupHas g q.pkg q.asid = true → (∀ k ∈ R.keys, ¬(k.group = q.group ∧ k.site = site ∧ k.inst = inst)) →
      R.keys.length < 65536 → ¬TooFar s → q.pkg ∈ groupPkgs g →
      Happens .seqNumberRequest s fun z => z.collective.records.next = R.next + 1 ∧
        z.collective.records.numbers = R.numbers.filter (·.number != R.next) ++ [⟨R.next, q.group, [], false, false, false⟩] ∧
        .answer q.cell q.task q.ins R.next ∈ z.collective.channel ∧ .announce R.next q.group false ∈ z.collective.channel) ∧
    (groupHas g q.pkg q.asid = true → (∀ k ∈ R.keys, ¬(k.group = q.group ∧ k.site = site ∧ k.inst = inst)) → TooFar s →
      Happens .seqNumberRequest s fun z => z.collective.records.next = R.next ∧ z.collective.channel = s.collective.channel) ∧
    (∀ k, groupHas g q.pkg q.asid = true →
      R.keys.find? (fun k => k.group == q.group && k.site == site && k.inst == inst) = some k →
      Happens .seqNumberRequest s fun z => z.collective.records.next = R.next ∧
        z.collective.channel = s.collective.channel ++ [.answer q.cell q.task q.ins k.number])) ∧
  -- SEQ_JOIN_REQUEST
  (∀ s q m p, Arrives s q → q.kind = .join m p →
    let R := s.collective.records
    let g := seqGroup R q.group
    let good := 2 ≤ p ∧ p ≤ 4096 ∧ m < p ∧ (g.size = 0 ∨ g.size = p) ∧ (∀ x ∈ g.members, x.1 ≠ m) ∧
      groupHas g q.pkg q.asid = false ∧ groupFormed g = false
    (good → Happens .seqJoinRequest s fun z =>
      seqGroup z.collective.records q.group = ⟨p, g.members ++ [(m, q.pkg, q.asid)]⟩ ∧
      z.collective.channel = s.collective.channel ++ [.answer q.cell q.task q.ins 0]) ∧
    (¬good → Happens .seqJoinRequest s fun z => Answered s z q R [.refuse q.cell q.task q.ins])) ∧
  -- SEQ_LEAVE_REQUEST: the group's numbers without a go are cancelled and its keys discarded.
  (∀ s q, Arrives s q → q.kind = .leave → groupHas (seqGroup s.collective.records q.group) q.pkg q.asid = true →
    Happens .seqLeaveRequest s fun z =>
      groupHas (seqGroup z.collective.records q.group) q.pkg q.asid = false ∧
      (∀ k ∈ z.collective.records.keys, k.group ≠ q.group) ∧
      (∀ n ∈ z.collective.records.numbers, n.group = q.group → n.go = false → n.cancelled = true) ∧
      z.collective.channel = s.collective.channel ++ [.answer q.cell q.task q.ins 0]) ∧
  -- SEQ_CANCEL_REQUEST: accepted before the go, from a member.
  (∀ s q n, Arrives s q → q.kind = .cancel n → Happens .seqCancelRequest s fun z =>
    z.collective.records.numbers = s.collective.records.numbers.map fun x =>
      if x.number = n ∧ x.go = false ∧ groupHas (seqGroup s.collective.records x.group) q.pkg q.asid = true
      then { x with cancelled := true } else x) ∧
  -- SEQ_POST_NOTICE: the post is recorded, and the number goes once each member of its formed group has posted.
  (∀ s q n card, Arrives s q → q.kind = .post n card → Happens .seqPostNotice s fun z =>
    z.collective.records.numbers = s.collective.records.numbers.map fun x =>
      if x.number ≠ n ∨ x.cancelled = true ∨ x.failed = true ∨ (∃ p ∈ x.posts, p.1 = q.pkg ∧ p.2.1 = q.asid) then x
      else { x with
        posts := x.posts ++ [(q.pkg, q.asid, card)]
        go := groupFormed (seqGroup s.collective.records x.group) &&
          decide ((seqGroup s.collective.records x.group).size ≤ x.posts.length + 1) }) ∧
  -- SEQ_QUERY_REQUEST
  (∀ s q k, Arrives s q → q.kind = .query k → Happens .seqQueryRequest s fun z =>
    let R := s.collective.records
    let g := seqGroup R q.group
    Answered s z q R [.answer q.cell q.task q.ins (match k with
      | 0 => R.next
      | 1 => BitVec.ofNat 32 g.members.length
      | 2 => if groupFormed g then 1 else 0
      | _ => R.takeovers)]) ∧
  -- COLLECTIVE_ANNOUNCE: the ordered channel's next message is taken; a number that finished before numbers came round is new.
  (∀ s n g bad r, onPrimary s = true → s.collective.channel = .announce n g bad :: r →
    (∀ l, localNum s n = some l → numDone l = true ∧ ∃ f, s.collective.lastFinished = some f ∧ ahead f n = true) →
    Happens .collectiveAnnounce s fun z => z.collective.channel = r ∧
      ∃ l, localNum z n = some l ∧ l.group = g ∧ l.state = .announced ∧ l.go = false ∧ l.failNotice = bad ∧ l.posted = [] ∧
        ∀ a m p, (a, m, p) ∈ l.members ↔ ∃ x, (a, x) ∈ s.contexts ∧ x.joined.find? (·.1 == g) = some (g, m, p)) ∧
  (∀ s cell task ins v r q t fr, onPrimary s = true → s.collective.channel = .answer cell task ins v :: r →
    s.collective.requests.find? (fun q => sameAsker q cell task ins) = some q → tget s.tasks (cell, task) = some t →
    t.firing = some fr → ins ∈ fr.asked → q.late = false →
    Happens .collectiveAnnounce s fun z => z.collective.channel = r ∧ z.collective.requests = s.collective.requests.erase q ∧
      tget z.tasks (cell, task) = some { t with firing := some { fr with answers := fr.answers ++ [(ins, some v)] } }) ∧
  -- COLLECTIVE_GO, COLLECTIVE_CANCEL_NOTICE
  (∀ s x l, onPrimary s = true → s.collective.records.numbers.find? (·.number == s.args.n32) = some x → x.go = true →
    localNum s s.args.n32 = some l → numDone l = false → l.cancelNotice = false →
    Happens .collectiveGo s fun z => ∃ y, localNum z s.args.n32 = some y ∧ y.go = true ∧ y.state = l.state ∧
      (y.failNotice = true ↔ l.failNotice = true ∨ ∃ p ∈ x.posts, ∃ q ∈ x.posts, cardsAgree p.2.2 q.2.2 = false)) ∧
  (∀ s l, onPrimary s = true → (∃ x ∈ s.collective.records.numbers, x.number = s.args.n32 ∧ x.cancelled = true) →
    localNum s s.args.n32 = some l → numDone l = false →
    Happens .collectiveCancelNotice s fun z => ∃ y, localNum z s.args.n32 = some y ∧ y.go = l.go ∧
      y.cancelNotice = (l.cancelNotice || !l.go)) ∧
  -- STANDBY_TAKEOVER, TAKEOVER_NOTICE: the numbers of the gap are cancelled.
  (∀ s, onStandby s = true → onPrimary s = false → 100000 ≤ (s.pkg.aocnt - s.collective.lastHeard).toNat →
    Happens .standbyTakeover s fun z => z.collective.primary = s.collective.standby ∧ z.collective.standby = none ∧
      z.collective.records.next = s.collective.copy.next - 1 + 2 ^ 20 ∧
      z.collective.records.takeovers = s.collective.copy.takeovers + 1 ∧ z.collective.records.groups = s.collective.copy.groups ∧
      (∀ q n card, q ∈ s.collective.sent → q.kind = .post n card → (∃ l ∈ z.collective.numbers, l.number = n ∧ l.go = false ∧
        l.cancelNotice = false ∧ l.failNotice = false ∧ numDone l = false) → q ∈ z.collective.requests) ∧
      ∀ l ∈ z.collective.numbers, numDone l = false → (l.number - s.collective.copy.next).toNat < 2 ^ 20 - 1 → l.cancelNotice = true) ∧
  (∀ s p, s.collective.standby = some p → onStandby s = false →
    Happens .takeoverNotice s fun z => z.collective.primary = some p ∧ z.collective.standby = none ∧
      ∀ l ∈ z.collective.numbers, numDone l = false → (l.number - (s.args.n32 + 1)).toNat < 2 ^ 20 - 1 → l.cancelNotice = true) ∧
  -- SEQUENCER_FAIL_NO_STANDBY: what waited for an answer is refused.
  (∀ s, s.collective.primary.isSome = true → s.collective.standby = none →
    Happens .sequencerFailNoStandby s fun z => z.collective.primary = none ∧
      (∀ q ∈ z.collective.requests, classOf q ≠ .number ∧ classOf q ≠ .join ∧ classOf q ≠ .leave) ∧
      ∀ q t fr, q ∈ s.collective.requests → (classOf q = .number ∨ classOf q = .join ∨ classOf q = .leave) →
        tget s.tasks (q.cell, q.task) = some t → t.firing = some fr → q.ins ∈ fr.asked →
        ∃ y fy, tget z.tasks (q.cell, q.task) = some y ∧ y.firing = some fy ∧ (q.ins, none) ∈ fy.answers) ∧
  -- MEMBER_UNREACHABLE, REACH_LINK_FAIL
  (∀ s, onPrimary s = true → Happens .memberUnreachable s fun z => s.args.i ∈ z.pkg.unreachable ∧
    (∀ g, (∃ q, (g, q) ∈ s.collective.records.groups ∧ ∃ m ∈ q.members, m.2.1 = s.args.i) →
      (∀ m ∈ (seqGroup z.collective.records g).members, m.2.1 ≠ s.args.i) ∧
      (∀ n ∈ z.collective.records.numbers, n.group = g → n.failed = true) ∧
      ∀ l ∈ z.collective.numbers, l.group = g → numDone l = false → l.failNotice = true) ∧
    ∀ n g bad, .announce n g bad ∈ z.collective.channel → (∃ q, (g, q) ∈ s.collective.records.groups ∧
      ∃ m ∈ q.members, m.2.1 = s.args.i) → bad = true) ∧
  (∀ s, s.args.i < 12 → Happens .reachLinkFail s fun z => s.args.i ∈ z.pkg.linksDown ∧ (∀ k ∈ s.pkg.linksDown, k ∈ z.pkg.linksDown) ∧
    z.collective = s.collective)

/-! ### Events of errors, cuts, silence, stages and ends (12 R321-R331, 13 R341-R348, 15 R391, 16 R404-R427, 18 R449) -/

/-- 16 R404-R427: a storage error, the relocation of a faulty page, a freeze's end, the order, saving and completion of a cut, and
a rollback. -/
def Obligations.ErrorAndCutEvents : Prop :=
  -- UNCORRECTABLE_ERROR: no byte changes; a lasting one poisons what it struck, or makes the frame faulty.
  (∀ s e, s.args.site = some e → Happens .uncorrectableError s fun z => sameBytes s z ∧
    (∀ g, e = .memory g → s.args.flag = true → poisonAt z.phys (64 * g) = true) ∧
    (∀ page g p f, e = .tile page g → s.args.flag = true → tget s.pages page = some p → p.frame = some f →
      (frameAt z f).faulty = true ∧ (frameAt z f).exposed = false ∧
        ∃ q, tget z.pages page = some q ∧ poisonAt q.window (64 * g) = true ∧ q.faults.length = p.faults.length + 1) ∧
    (∀ page g p, e = .saved (.tile page g) → s.args.flag = true → tget s.pages page = some p → p.frozen = true → p.returned = false →
      z.pkg = s.pkg ∧ ∃ q, tget z.pages page = some q ∧ poisonAt q.window (64 * g) = true ∧ q.faults = p.faults) ∧
    (∀ cell task k t x, e = .sreg cell task k → s.args.flag = true → tget s.tasks (cell, task) = some t → (h : k < 16) →
      t.sregs[k] = some x → ∃ u, tget z.tasks (cell, task) = some u ∧ u.sregs[k] = some { x with poison := true }) ∧
    (∀ cell task w t, (e, w) ∈ [(.modeWord cell task, TaskWord.mode), (.flagState cell task, .flags), (.accumulator cell task, .acc)] →
      s.args.flag = true → tget s.tasks (cell, task) = some t → ∃ u, tget z.tasks (cell, task) = some u ∧ w ∈ u.spoilt) ∧
    (∀ cell task k t x, e = .release cell task k → tget s.tasks (cell, task) = some t → t.relq[k]? = some x →
      ∃ u, tget z.tasks (cell, task) = some u ∧ u.relq = t.relq.set k (x.1, { x.2.1 with poison := true }, x.2.2)) ∧
    (∀ cell b c, (e = .codebook cell b ∨ e = .plane cell false) → s.args.flag = true → tget s.cells cell = some c →
      ∃ d, tget z.cells cell = some d ∧ d.mat.active.poison = true) ∧
    (∀ page p, e = .cutBuffer page → s.args.flag = true → tget s.pages page = some p →
      ∃ q, tget z.pages page = some q ∧ (∀ g ∈ q.images, g.poisoned = true) ∧ q.images.length = p.images.length ∧
        (p.frame.isSome = true → q.faults.length = p.faults.length + 1)) ∧
    (∀ page g p, e = .tile page g → s.args.flag = false → tget s.pages page = some p →
      ∃ q, tget z.pages page = some q ∧ q.transients = p.transients + 1 ∧ q.faults = p.faults)) ∧
  -- FAULTY_PAGE_RELOCATE: each fault of the page is recorded, with `AUTO` where the page finds a frame.
  (∀ s p e r, tget s.pages s.args.i = some p → p.faults = e :: r → p.frozen = true →
    let recorded (auto : Bool) (z : State) : Prop := ∀ d ∈ p.faults, (tget s.contexts (asidOf s d.cell)).isSome = true →
      ∃ x, tget z.contexts (asidOf s d.cell) = some x ∧ ∃ w ∈ x.trapsDue, w.cell = d.cell ∧ w.task = d.task ∧ w.ins = BitVec.ofNat 8 d.ins ∧
        (auto = true → w.auto = true ∧ w.info = d.info)
    (∀ f l, freeFrames s = f :: l → Happens .faultyPageRelocate s fun z => recorded true z ∧ ∃ q, tget z.pages s.args.i = some q ∧
      q.frame = some f ∧ q.frozen = false ∧ q.faults = [] ∧ q.window = p.window ∧ q.resumptions = p.resumptions + 1) ∧
    (∀ t, freeFrames s = [] → tget s.tasks (e.cell, e.task) = some t → t.state ≠ .trapped → Happens .faultyPageRelocate s fun z =>
      recorded false z ∧ tget z.tasks (e.cell, e.task) = some { t with
        state := .trapped, firing := none, firings := t.firings + 1, frozen := false
        pending := keptPending (tget s.cells e.cell) t e.ins } ∧
      ∃ q, tget z.pages s.args.i = some q ∧ q.frozen = true)) ∧
  -- FREEZE_COMPLETE
  (∀ s n r, freezeDone s [] s.freezes = some (n, r) → Happens .freezeComplete s fun z => z.freezes = s.freezes.eraseIdx n ∧
    (∀ k p, k ∈ r.pages → tget s.pages k = some p → ∃ q, tget z.pages k = some q ∧ q.frozen = true ∧ q.lines = []) ∧
    (r.byMailbox = true → z.pkg.mailbox.stat = 0 ∧ z.pkg.notify.getLsbD 3 = true)) ∧
  -- CUT_ORDER
  (∀ s i, tget s.instances s.args.n32 = some i → i.cutNow = 0 → i.ended = none →
    (i.cutOrdered = true ∨ i.markInterval ≠ 0 ∧
      (i.markInterval ≤ i.sinceCut ∨ ∃ kp ∈ pagesOf s s.args.n32, undoHigh kp.2 = true)) →
    Happens .cutOrder s fun z =>
      tget z.instances s.args.n32 = some { i with cutNow := i.lastCut + 1, cutOrdered := false, sinceCut := 0 } ∧
      ∀ k p, tget s.pages k = some p → p.inst = s.args.n32 → p.sourcePage = true → pageRuns s k = true →
        ∃ q, tget z.pages k = some q ∧ q.saved = i.lastCut + 1) ∧
  -- PAGE_CUT_SAVE
  (∀ s p i, tget s.pages s.args.i = some p → tget s.instances p.inst = some i → i.cutNow ≠ 0 → p.saved < i.cutNow →
    pageRuns s s.args.i = true → (p.sourcePage = true ∨ aligned s s.args.i = true) →
    (p.sourcePage = false → mixedMarkers s s.args.i i.cutNow = true →
      exec .pageCutSave s = .next (if p.mixed = i.cutNow then s else
        takeTrap (setPage s s.args.i { p with mixed := i.cutNow }) (firstTask s s.args.i).1 (firstTask s s.args.i).2
          ⟨.cutFail, 0, 4, 0, 0⟩ 0xFF)) ∧
    (p.sourcePage = true ∨ mixedMarkers s s.args.i i.cutNow = false → Happens .pageCutSave s fun z =>
      ∃ q g, tget z.pages s.args.i = some q ∧ q.saved = i.cutNow ∧ q.images.head? = some g ∧ g.cut = i.cutNow ∧ q.window = p.window)) ∧
  -- CUT_COMPLETE
  (∀ s i, tget s.instances s.args.n32 = some i → i.cutNow ≠ 0 →
    (∀ kp ∈ pagesOf s s.args.n32, kp.2.returned = true ∨ i.cutNow ≤ kp.2.saved) →
    (∀ k a, (k, a) ∈ s.arcs → a.inst = s.args.n32 → a.back = true → backDone a i.cutNow = true) →
    Happens .cutComplete s fun z =>
      (∃ j, tget z.instances s.args.n32 = some j ∧ j.lastCut = i.cutNow ∧ j.cutNow = 0 ∧ j.causes = []) ∧
      ∀ k p, tget s.pages k = some p → p.inst = s.args.n32 → p.returned = false →
        ∃ q, tget z.pages k = some q ∧ q.images = p.images.filter (·.cut == i.cutNow) ∧
          q.undo = p.undo.filter (fun e => decide (i.cutNow ≤ e.1))) ∧
  -- ROLLBACK
  (∀ s i, tget s.instances s.args.n32 = some i → i.rollbackDue ≠ [] →
    (∀ k, noRollback s s.args.n32 i = some k → Happens .rollback s fun z =>
      tget z.instances s.args.n32 = some { i with rollbackDue := [] } ∧ z.tasks = s.tasks ∧
      ∀ d ∈ i.rollbackDue, (tget s.contexts (asidOf s d.1)).isSome = true → ∃ x, tget z.contexts (asidOf s d.1) = some x ∧
        ∃ r ∈ x.trapsDue, r.info = ⟨.cutFail, 0, k, 0, 0⟩ ∧ r.cell = d.1 ∧ r.task = d.2.1) ∧
    (noRollback s s.args.n32 i = none →
      (∀ kp ∈ pagesOf s s.args.n32, kp.2.returned = true ∨ kp.2.frozen = true) → Happens .rollback s fun z =>
      (∃ j, tget z.instances s.args.n32 = some j ∧ j.rollbackDue = [] ∧ j.rollbacks = i.rollbacks + 1 ∧ j.lastCut = i.lastCut ∧
        j.cutNow = 0) ∧
      ∀ k p, tget s.pages k = some p → p.inst = s.args.n32 → p.returned = false →
        ∃ q, tget z.pages k = some q ∧ q.window = undoWindow p.window i.lastCut p.undo ∧ q.saved = i.lastCut ∧ q.undo = [] ∧
          (placedWell s p = true → q.frozen = false)) ∧
    (noRollback s s.args.n32 i = none →
      let todo := ((pagesOf s s.args.n32).filter fun kp => !kp.2.returned && !kp.2.frozen && !kp.2.freezing).map (·.1)
      todo ≠ [] → freezesMeet s.freezes todo = false →
      Happens .rollback s fun z => z.freezes = s.freezes ++ [⟨i.asid, todo, false⟩]))

/-- 12 R321-R331, 13 R341-R348, 15 R391, 18 R449: silence of a context and of a page, the balancer's interval, a drained replica, a
page's return, an instance's end and its record. How quiet is measured and what a page's return waits for are also the model's
reading (LOG 24, DEDUCED), as is what a task that is not Waiting is when it is Parked (LOG 30, DEDUCED). -/
def Obligations.SilenceAndEndEvents : Prop :=
  -- CONTEXT_SILENT: every waiting task is Trapped `STUCK` and the pages freeze.
  (∀ s x, tget s.contexts s.args.asid = some x → x.balanceKept = true → x.launched = true →
    4000 ≤ (s.pkg.aocnt - x.lastActive).toNat → contextBusy s s.args.asid x = false →
    (∀ k a, (k, a) ∈ s.arcs → arcInContext s s.args.asid a = true → a.armed = false) →
    (∀ k ∈ contextPages s s.args.asid, pageRuns s k = true) →
    ((((s.arcs.filter fun ka => arcInContext s s.args.asid ka.2).filter fun ka => insideParked s ka.2).map
      fun ka => tokensOn s ka.1 ka.2).sum : Int) < x.balance →
    Happens .contextSilent s fun z =>
      (∀ k t, tget s.tasks k = some t → pageIdOf s k.1 ∈ contextPages s s.args.asid → t.state = .waiting → t.frozen = false →
        tget z.tasks k = some { t with state := .trapped, stuck := true }) ∧
      z.freezes = s.freezes ++ [⟨s.args.asid, contextPages s s.args.asid, false⟩]) ∧
  -- PAGE_SILENT: a free Spillway queue extends the smallest stalled edge; else the pages are stuck.
  (∀ s p x, tget s.pages s.args.i = some p → tget s.contexts p.asid = some x → x.balanceKept = false → x.launched = true →
    4000 ≤ (s.pkg.aocnt - p.lastActive).toNat → pageBusy s s.args.i p.asid x = false → watchSuspended s s.args.i = false →
    let stalled := (arcsAt s s.args.i).filter fun ka => stalledEdge s ka.1 ka.2
    stalled ≠ [] →
    (∀ k a q, extensionIdle s s.args.i = false →
      leastEdge (stalled.filter fun ka => (spillOf s ka.1 ka.2).isNone) = some (k, a) → freeQueue s p.asid = some q → (h : q < 16) →
      Happens .pageSilent s fun z => z.tasks = s.tasks ∧ ∃ y, tget z.contexts p.asid = some y ∧ y.spill[q] = ⟨some k, true, false, []⟩) ∧
    (extensionIdle s s.args.i = true → Happens .pageSilent s fun z =>
      ∀ k t, tget s.tasks k = some t → pageIdOf s k.1 = s.args.i → t.state = .waiting → t.frozen = false →
        tget z.tasks k = some { t with state := .trapped, stuck := true })) ∧
  -- BALANCER_INTERVAL
  (∀ s i st, tget s.instances s.args.n32 = some i → i.stages.find? (fun st => st.stage == s.args.i) = some st → i.ended = none →
    st.nextAt.toNat ≤ s.pkg.aocnt.toNat →
    (stageCluster s s.args.n32 st.stage).isSome = true →
    let t := (s.pkg.aocnt - (st.nextAt - BitVec.ofNat 64 i.interval)).toNat
    let load := stageLoad s s.args.n32 i st.stage t
    Happens .balancerInterval s fun z => ∃ j u, tget z.instances s.args.n32 = some j ∧
      j.stages.find? (fun st => st.stage == s.args.i) = some u ∧ u.nextAt = s.pkg.aocnt + BitVec.ofNat 64 i.interval ∧
      u.underfed = (if load.2.1 then st.underfed + 1 else 0) ∧
      (∀ r, load.1 = true → load.2.2 = false → activeCount st < st.maxReplicas → nextReplica st = some r → r ∈ u.active)) ∧
  -- REPLICA_PARKED
  (∀ s i, tget s.instances s.args.n32 = some i → (∃ st ∈ i.stages, st.stage = s.args.i ∧ st.draining = some s.args.j) →
    let mine (cell : Nat) : Bool := (pageOf s cell).any fun p =>
      p.inst == s.args.n32 && p.stage == some s.args.i && p.replica == s.args.j
    (∀ ka ∈ stageIncoming s s.args.n32 s.args.i, mine ka.2.cCell = true → ownedQueue s ka.1 ka.2 = [] ∧ ka.2.reserved = 0) →
    (∀ kt ∈ s.tasks, mine kt.1.1 = true → kt.2.firing = none) →
    Happens .replicaParked s fun z =>
      (∃ j, tget z.instances s.args.n32 = some j ∧ ∀ st ∈ j.stages, st.stage = s.args.i → s.args.j ∉ st.active ∧ st.draining = none) ∧
      ∀ k t, tget s.tasks k = some t → mine k.1 = true →
        (t.state = .drained → tget z.tasks k = some t) ∧
        (t.state ≠ .drained → tget z.tasks k = some { t with
          state := .parked, stuck := false, brkExit := none
          block := if t.state = .finished then t.entry else t.brkExit.getD t.block })) ∧
  -- PAGE_RETURN: the frame is scrubbed and the local window lost.
  (∀ s p, tget s.pages s.args.i = some p → p.returned = false → pageIdle s s.args.i p = true → Happens .pageReturn s fun z =>
    (∃ q, tget z.pages s.args.i = some q ∧ q.returned = true ∧ q.frame = none) ∧
    (∀ k t, tget s.tasks k = some t → pageIdOf s k.1 = s.args.i → ∃ u, tget z.tasks k = some u ∧
      u.sregs = Vector.replicate 16 none ∧ u.flags = noFlags ∧ u.relq = []) ∧
    (∀ a, byteOf z (.window s.args.i) a = 0) ∧ ∀ f, p.frame = some f → (frameAt z f).scrubbing = true) ∧
  -- INSTANCE_END, END_RECORD_WRITE
  (∀ s i, tget s.instances s.args.n32 = some i → i.ended = none → instanceIdle s s.args.n32 i = true →
    Happens .instanceEnd s fun z => (∃ j, tget z.instances s.args.n32 = some j ∧ j.ended = some (if i.ending then 1 else 0)) ∧
      z.pkg.endDue = s.pkg.endDue ++ [⟨s.pkg.aocnt, s.args.n32, i.asid, if i.ending then 1 else 0⟩] ∧
      ∀ k t, tget s.tasks k = some t → t.inst = s.args.n32 → t.state = .finished → ∃ u, tget z.tasks k = some u ∧ u.state = .drained) ∧
  (∀ s r l, s.pkg.endDue = r :: l → (s.pkg.endwr - s.pkg.endrd).toNat < 256 → Happens .endRecordWrite s fun z =>
    z.pkg.endDue = l ∧ z.pkg.endwr = s.pkg.endwr + 1 ∧ tget z.pkg.endRing (s.pkg.endwr.toNat % 256) = some r ∧
    z.pkg.notify.getLsbD 2 = true)

/-! ### Events of system software, power and the surroundings (15 R375-R396, 16 R424-R439, 18 R445-R458) -/

namespace Sys2Proof.Claims

/-- The mailbox takes a command: none runs, and the package is not held. -/
def MbReady (s : State) : Prop := s.pkg.mailbox.stat ≠ 1 ∧ s.pkg.bfail = false

/-- The command ends at once with a status, and the notification of its end is raised (18 R447, R449). -/
def MbEnds (e : Instr) (s : State) (st : BitVec 8) (p : State → Prop) : Prop :=
  Happens e s fun z => z.pkg.mailbox.stat = st ∧ z.pkg.notify.getLsbD 3 = true ∧ p z

/-- The state in which a command runs: accepted, with an acquire, on the arguments that stand (18 R446, R447). -/
def mbRunning (s : State) (code : BitVec 8) : State :=
  acceptAcquire { mbSet s fun x => { x with cmd := code ++ 0#48 ++ s.args.asid, stat := 1 } with
    args := { s.args with w0 := s.pkg.mailbox.arg0, w1 := s.pkg.mailbox.arg1 } }

/-- Every task of an instance is Drained without a firing, and the instance is ending (12 R331). -/
def InstanceStopped (s z : State) (n : BitVec 32) : Prop :=
  (∃ j, tget z.instances n = some j ∧ j.ending = true) ∧
  ∀ k t, tget s.tasks k = some t → t.inst = n → ∃ u, tget z.tasks k = some u ∧ u.state = .drained ∧ u.firing = none

/-- The record that a trap action names is there, open, and its task's last (16 R432). -/
structure Names (s : State) (x : Context) (r : TrapRec) : Prop where
  ctx : tget s.contexts s.args.asid = some x
  found : recordNumbered x (s.pkg.mailbox.arg0.setWidth 32) = some r
  auto : r.auto = false
  last : recordStale x r = false
  still : recordOpen s r = true

/-- An instance that a command may name: of its context and running. -/
def Running (s : State) (i : Instance) : Prop :=
  tget s.instances (s.pkg.mailbox.arg0.setWidth 32) = some i ∧ i.asid = s.args.asid ∧ i.ended = none ∧ i.ending = false

/-- 18 R447: the commands by their code, with what `MBARG0` and `MBARG1` say of the three codes that have several. -/
def commandOf (s : State) (code : Nat) : Option Instr :=
  let m := s.pkg.mailbox
  match code with
  | 0x01 => some .mbCreateContext
  | 0x02 => some .mbEndContext
  | 0x03 => some .mbLaunch
  | 0x04 => some .mbEndInstance
  | 0x05 => [Instr.mbTrapRetry, .mbTrapContinue, .mbTrapRollback, .mbTrapEnd][(m.arg1.toNat % 4)]?
  | 0x06 => some .mbInvalidateTranslation
  | 0x07 => some (if m.arg1.toNat / 256 % 2 = 1 then .mbSluiceOpen else .mbSluiceArm)
  | 0x08 => some .mbFreeze
  | 0x09 => some .mbResume
  | 0x0A => some .mbCut
  | 0x0B => some .mbSetTime
  | 0x0C => some (if m.arg0.toNat / 2 ^ 32 % 2 = 1 then .mbSequencerTakeover else .mbSequencerDesignate)
  | 0x0D => some .mbAddImageKey
  | 0x0E => some .mbFullService
  | _ => none

/-- 00 R2, 01 R17, 18 R445-R457: what some registers of management space read as, by their offset. -/
def registersOf (s : State) : List (Nat × Nat) :=
  let p := s.pkg
  [(0x100000, p.level.toNat), (0x100008, p.aocnt.toNat), (0x100010, p.capw.toNat + 2 ^ 31 * p.sched.toNat + 2 ^ 32 * p.capin.toNat),
    (0x100018, p.pwrnow.toNat), (0x100020, p.domid.toNat), (0x100028, p.bfail.toNat + 2 ^ 8 * p.bstage.toNat),
    (0x100040, p.mailbox.cmd.toNat), (0x100048, p.mailbox.arg0.toNat), (0x100050, p.mailbox.arg1.toNat),
    (0x100058, p.mailbox.stat.toNat), (0x100060, p.notify.toNat), (0x100068, p.endrd.toNat), (0x100070, p.endwr.toNat),
    (0x100030, 0)] ++
  (List.finRange 4).flatMap fun n =>
    let d := p.dies[n]
    [(0x10000 * n.val, if d.fitted then d.orient.toNat else 2 ^ 64 - 1),
      (0x10000 * n.val + 8, if d.fitted then d.busy.toNat + 2 * d.gated.toNat + 4 * d.mode.toNat + 16 * d.ref.toNat else 0xE),
      (0x10000 * n.val + 16, 0)]

/-- 18 R445: an offset of registers: of the dies' blocks, of the I/O dies, or of a context's ring indexes. -/
def ofRegisters (o : Nat) : Prop :=
  o < 0x40000 ∨ 0x100000 ≤ o ∧ o < 0x110000 ∨
    ∃ a k, a < 256 ∧ k < 0x20 ∧ o = 0x10000000 + a * 0x40000 + 0x30000 + k

/-- 18 R453: an entry of the schedule whose time has come. -/
def entryDue (p : Package) (k : Nat) : Prop :=
  ∃ h : k < 64, p.pschedTau[k] ≠ 0 ∧ p.pschedTau[k].toNat ≤ p.aocnt.toNat

/-- 18 R457: both signatures of a stage or an update verify against the fused root key hashes, and its version is not too old. -/
def Sound (s : State) : Prop :=
  Config.ecdsaVerified s.args.data s.pkg.rootHashes = true ∧ Config.lmsVerified s.args.data s.pkg.rootHashes = true ∧
    s.pkg.rollbackCount ≤ s.args.i

/-- 18 R453: the cap in force is `CAPW`, or under `SCHED` that of the due entry with the greatest time. -/
def CapFollows (p : Package) : Prop :=
  (p.sched = false ∨ (∀ k, ¬entryDue p k) → p.capin = p.capw) ∧
  (p.sched = true → (∃ k, entryDue p k) → ∃ k, ∃ h : k < 64, entryDue p k ∧ p.capin = p.pschedW[k] ∧
    ∀ j, (hj : j < 64) → entryDue p j → p.pschedTau[j].toNat ≤ p.pschedTau[k].toNat)

end Sys2Proof.Claims

/-- 15 R375, R377, R389, 16 R424-R439, 18 R447-R458: the mailbox commands. What a command that names nothing answers, and the frames
that a resume takes, are also the model's choice (LOG 7, DESIGN CHOICE, LOG 27, DESIGN CHOICE); LOG 20 and LOG 25 read when FIFOs are
emptied and what an ending context waits for. -/
def Obligations.MailboxCommands : Prop :=
  -- MB_CREATE_CONTEXT, MB_END_CONTEXT, MB_END_INSTANCE
  (∀ s, MbReady s →
    (s.contexts.length < 256 → tget s.contexts (s.pkg.mailbox.arg0.setWidth 8) = none → MbEnds .mbCreateContext s 0 fun z =>
      ∃ x, tget z.contexts (s.pkg.mailbox.arg0.setWidth 8) = some x ∧ x.word = s.pkg.mailbox.arg0 &&& 0x000FFFFFFFFFF1FF ∧ x.launched = false ∧
        x.balanceKept = true ∧ x.balance = 0) ∧
    (256 ≤ s.contexts.length ∨ (tget s.contexts (s.pkg.mailbox.arg0.setWidth 8)).isSome = true →
      MbEnds .mbCreateContext s 2 fun z => z.contexts = s.contexts)) ∧
  (∀ s x, MbReady s → tget s.contexts s.args.asid = some x →
    ((∀ n i, (n, i) ∈ s.instances → i.asid = s.args.asid → i.ended.isSome = true) → x.posts = [] →
      (∀ k p, (k, p) ∈ s.pages → p.asid = s.args.asid → p.returned = false → p.frame = none) → scrubbed s s.args.asid = true →
      MbEnds .mbEndContext s 0 fun z => tget z.contexts s.args.asid = none ∧ (∀ k p, (k, p) ∈ z.pages → p.asid ≠ s.args.asid) ∧
        ∀ t ∈ z.xlates, t.asid ≠ s.args.asid) ∧
    -- its frames are scrubbed before it ends
    (∀ k p f, (∀ n i, (n, i) ∈ s.instances → i.asid = s.args.asid → i.ended.isSome = true) → x.posts = [] →
      tget s.pages k = some p → p.asid = s.args.asid → p.returned = false → p.frame = some f →
      Happens .mbEndContext s fun z => z.pkg.mailbox.stat = 1 ∧ (frameAt z f).scrubbing = true ∧
        ∃ y, tget z.contexts s.args.asid = some y ∧ y.ending = true ∧ y.joined = []) ∧
    -- it leaves its groups, and waits for the numbers that it has posted (13 R356, R357; LOG 25)
    ((∀ n i, (n, i) ∈ s.instances → i.asid = s.args.asid → i.ended.isSome = true) → x.posts ≠ [] →
      Happens .mbEndContext s fun z => z.pkg.mailbox.stat = 1 ∧ z.tasks = s.tasks ∧
        (∀ k p, tget s.pages k = some p → ∃ q, tget z.pages k = some q ∧ q.frame = p.frame ∧ q.returned = p.returned) ∧
        (∃ y, tget z.contexts s.args.asid = some y ∧ y.ending = true ∧ y.joined = [] ∧ y.posts = x.posts) ∧
        (s.collective.primary.isSome = true → ∀ g q, (g, q) ∈ x.joined → ∃ r ∈ z.collective.requests,
          r.kind = .leave ∧ r.group = g ∧ r.asid = s.args.asid)) ∧
    ((∃ n i, (n, i) ∈ s.instances ∧ i.asid = s.args.asid ∧ i.ended = none) →
      MbEnds .mbEndContext s 2 fun z => z.contexts = s.contexts ∧ z.tasks = s.tasks)) ∧
  (∀ s x i, MbReady s → tget s.contexts s.args.asid = some x → Running s i → MbEnds .mbEndInstance s 0 fun z =>
    InstanceStopped s z (s.pkg.mailbox.arg0.setWidth 32)) ∧
  -- MB_LAUNCH
  (∀ s x, MbReady s → tget s.contexts s.args.asid = some x →
    let m := mbRunning s 0x03
    let r := requestAt m s.pkg.mailbox.arg0.toNat
    let here := physExists m s.pkg.mailbox.arg0.toNat = true ∧ packageOf s.pkg.mailbox.arg0.toNat = ownPackage m
    (¬here → MbEnds .mbLaunch s 3 fun z => z.instances = s.instances ∧ z.tasks = s.tasks) ∧
    (here → requestOk r = false → MbEnds .mbLaunch s 5 fun z => z.instances = s.instances ∧ z.tasks = s.tasks) ∧
    (∀ native sect src, here → requestOk r = true → chooseSection m (readBytes m.phys r.img r.len) = .ok (native, sect) →
      Config.readGraph (readBytes m.phys r.img r.len) native = some src → evalGraph src r.overrides = none →
      MbEnds .mbLaunch s 5 fun z => z.instances = s.instances ∧ z.tasks = s.tasks) ∧
    ∀ native sect src g shared places, here → requestOk r = true →
      chooseSection m (readBytes m.phys r.img r.len) = .ok (native, sect) →
      Config.readGraph (readBytes m.phys r.img r.len) native = some src → evalGraph src r.overrides = some g →
      let n := numberFrom m (m.instances.length + m.pkg.endDue.length + 2) m.pkg.nextInst
      graphErr m x g (Config.imageByLoader (readBytes m.phys r.img r.len)) r.overrides n.toNat sect = none →
      sharePages m x s.args.asid g r.shared = some shared → tablePlaces x g = some places →
      sharedTwice g shared = false → sharedCrowded x g shared = false →
      ((newPages g shared).length ≤ (freeFrames m).length → MbEnds .mbLaunch s 0 fun z =>
        z.pkg.mailbox.arg0.setWidth 32 = n ∧ z.pkg.mailbox.arg0 >>> 32 = s.pkg.mailbox.arg0 >>> 32 ∧ z.pkg.nextInst = n + 1 ∧
        (∃ j, tget z.instances n = some j ∧ j.asid = s.args.asid ∧ j.ended = none ∧ j.lastCut = 0) ∧
        ∃ y, tget z.contexts s.args.asid = some y ∧ y.launched = true ∧
          -- the FIFOs are empty at launch, but where another instance of the context runs (10 R289; LOG 20)
          ((∀ k i, (k, i) ∈ s.instances → i.asid = s.args.asid → k = n ∨ i.ended.isSome = true) →
            ∀ q, (h : q < 16) → y.fifos[q].count = 0 ∧ y.fifos[q].duePushes = [])) ∧
      ((freeFrames m).length < (newPages g shared).length → MbEnds .mbLaunch s 6 fun z =>
        z.pkg.mailbox.arg0.setWidth 16 = BitVec.ofNat 16 ((newPages g shared).length - (freeFrames m).length) ∧
        z.pkg.mailbox.arg0 >>> 16 = s.pkg.mailbox.arg0 >>> 16 ∧
        z.instances = s.instances ∧ z.tasks = s.tasks)) ∧
  -- MB_TRAP_RETRY, MB_TRAP_CONTINUE, MB_TRAP_ROLLBACK, MB_TRAP_END
  (∀ s x r t, MbReady s → Names s x r → r.info.code ≠ .stuck → tget s.tasks (r.cell, r.task) = some t →
    let code := s.pkg.mailbox.arg1.toNat % 4
    let even (b : Nat) : Prop := ∀ c, tget s.cells r.cell = some c → countMismatch s r.cell c { t with block := b } = none
    (code = 0 → even t.block → r.info.code ≠ .seqGap → r.info.code ≠ .brk → MbEnds .mbTrapRetry s 0 fun z => tget z.tasks (r.cell, r.task) =
      some { t with state := .waiting, brkExit := none, stuck := false, frozen := !pageRuns s (pageIdOf s r.cell) }) ∧
    (code = 0 → (r.info.code = .seqGap ∨ r.info.code = .brk) → MbEnds .mbTrapRetry s 2 fun z => z.tasks = s.tasks) ∧
    (code = 1 → r.info.code ≠ .brk → MbEnds .mbTrapContinue s 2 fun z => z.tasks = s.tasks) ∧
    (code = 1 → r.info.code = .brk →
      (∀ a, t.brkExit = some a → even a → MbEnds .mbTrapContinue s 0 fun z => tget z.tasks (r.cell, r.task) =
        some { t with state := .waiting, block := a, brkExit := none, frozen := !pageRuns s (pageIdOf s r.cell) }) ∧
      (t.brkExit = none → t.restart = false → MbEnds .mbTrapContinue s 0 fun z =>
        tget z.tasks (r.cell, r.task) = some { t with state := .finished, firing := none, frozen := false })) ∧
    (∀ i, tget s.instances t.inst = some i →
      (code = 2 → MbEnds .mbTrapRollback s 0 fun z => z.tasks = s.tasks ∧
        tget z.instances t.inst = some { i with rollbackDue := i.rollbackDue ++ [(r.cell, r.task, r.ins.toNat)] }) ∧
      (code = 3 → MbEnds .mbTrapEnd s 0 fun z => InstanceStopped s z t.inst))) ∧
  (∀ s x r, MbReady s → Names s x r → r.info.code = .stuck → s.pkg.mailbox.arg1.toNat % 4 = 0 →
    (∀ k ∈ r.pages, ∀ p, tget s.pages k = some p → p.frozen = true) → MbEnds .mbTrapRetry s 0 fun z =>
    (∀ k ∈ r.pages, ∀ p, tget s.pages k = some p → ∃ q, tget z.pages k = some q ∧ q.frozen = false) ∧
    ∀ k t, tget s.tasks k = some t → t.stuck = true → pageIdOf s k.1 ∈ r.pages → ∃ u, tget z.tasks k = some u ∧ u.stuck = false) ∧
  -- MB_INVALIDATE_TRANSLATION, INVALIDATION_COMPLETE
  (∀ s x, MbReady s → tget s.contexts s.args.asid = some x → Happens .mbInvalidateTranslation s fun z =>
    z.pkg.mailbox.stat = 1 ∧ z.invalidation = some ⟨s.args.asid, s.pkg.mailbox.arg0.toNat, s.pkg.mailbox.arg1.toNat⟩ ∧ z.xlates = s.xlates) ∧
  (∀ s v, s.invalidation = some v → (∀ kt ∈ s.tasks, asidOf s kt.1.1 = v.asid → unperformed s kt.1 = []) →
    MbEnds .invalidationComplete s 0 fun z => z.invalidation = none ∧
      ∀ t, t ∈ z.xlates ↔ t ∈ s.xlates ∧ ¬(t.asid = v.asid ∧ t.vbase < v.base + v.length ∧ v.base < t.vbase + t.size)) ∧
  -- MB_SLUICE_ARM, MB_SLUICE_OPEN, MB_CUT
  (∀ s x i d arm, MbReady s → tget s.contexts s.args.asid = some x → Running s i →
    i.sluices[s.pkg.mailbox.arg1.toNat % 256]? = some d → s.pkg.mailbox.arg1.getLsbD 8 = !arm →
    MbEnds (if arm then .mbSluiceArm else .mbSluiceOpen) s 0 fun z => ∀ k, tget z.arcs k = (tget s.arcs k).map fun a =>
      if a.inst = s.pkg.mailbox.arg0.setWidth 32 ∧ a.decl = d then { a with armed := arm } else a) ∧
  (∀ s x i, MbReady s → tget s.contexts s.args.asid = some x → Running s i → MbEnds .mbCut s 0 fun z =>
    tget z.instances (s.pkg.mailbox.arg0.setWidth 32) = some (if i.cutNow = 0 then { i with cutOrdered := true } else i)) ∧
  -- MB_FREEZE, MB_RESUME
  (∀ s x l, MbReady s → tget s.contexts s.args.asid = some x → pageList s x s.pkg.mailbox.arg0.toNat = some l →
    let m := mbRunning s 0x09
    ((∀ k ∈ l, ∃ p, tget s.pages k = some p ∧ p.returned = false) → Happens .mbFreeze s fun z =>
      z.pkg.mailbox.stat = 1 ∧ z.freezes = s.freezes ++ [⟨s.args.asid, l, true⟩]) ∧
    ((∀ k ∈ l, ∃ p, tget s.pages k = some p ∧ p.frozen = true ∧ p.returned = false) →
      (l.length ≤ (freeFrames m).length → MbEnds .mbResume s 0 fun z => ∀ k ∈ l, ∃ q, tget z.pages k = some q ∧ q.frozen = false ∧
        ∃ f ∈ freeFrames m, q.frame = some f) ∧
      ((freeFrames m).length < l.length → MbEnds .mbResume s 6 fun z => ∀ k p, tget s.pages k = some p →
        ∃ q, tget z.pages k = some q ∧ q.frame = p.frame ∧ q.frozen = p.frozen))) ∧
  -- MB_SET_TIME
  (∀ s, MbReady s → (s.contexts = [] → MbEnds .mbSetTime s 0 fun z => z.pkg.aocnt = s.pkg.mailbox.arg0) ∧
    (s.contexts ≠ [] → MbEnds .mbSetTime s 2 fun z => z.pkg.aocnt = s.pkg.aocnt)) ∧
  -- MB_SEQUENCER_DESIGNATE, MB_SEQUENCER_TAKEOVER
  (∀ s, MbReady s →
    let p := (s.pkg.mailbox.arg0.extractLsb' 0 16).toNat
    let b := (s.pkg.mailbox.arg0.extractLsb' 16 16).toNat
    let force := s.pkg.mailbox.arg0.getLsbD 32
    (force = false → p ≠ b → s.collective.primary = none → MbEnds .mbSequencerDesignate s 0 fun z =>
      z.collective.primary = some p ∧ z.collective.standby = some b ∧ z.collective.records = SeqRecords.empty ∧
      z.collective.lastFinished = none) ∧
    (force = false → p ≠ b → s.collective.primary = some p → MbEnds .mbSequencerDesignate s 0 fun z =>
      z.collective.primary = some p ∧ z.collective.standby = some b ∧ z.collective.records = s.collective.records ∧
      -- a new standby takes over the primary's records (13 R368): its own package is told them
      (s.collective.standby ≠ some b → p = ownPackage s → z.collective.copy = s.collective.records) ∧
      (s.collective.standby ≠ some b → b = ownPackage s → z.collective.copy = s.args.records)) ∧
    (force = true → p ≠ b → s.collective.primary = some p → b = ownPackage s → MbEnds .mbSequencerTakeover s 0 fun z =>
      z.collective.primary = some b ∧ z.collective.standby = none ∧
      z.collective.records.takeovers =
        (if s.collective.standby = some b then s.collective.copy else s.args.records).takeovers + 1)) ∧
  -- MB_ADD_IMAGE_KEY
  (∀ s, MbReady s → physExists s s.pkg.mailbox.arg0.toNat = true → packageOf s.pkg.mailbox.arg0.toNat = ownPackage s →
    let r := keyRecordAt s s.pkg.mailbox.arg0.toNat
    (keySigned s r = false → MbEnds .mbAddImageKey s 4 fun z => z.pkg.keys = s.pkg.keys ∧ z.pkg.ownerKey = s.pkg.ownerKey) ∧
    (keySigned s r = true → s.pkg.ownerKey = none → s.pkg.keys = [] → MbEnds .mbAddImageKey s 0 fun z =>
      z.pkg.ownerKey = some r ∧ z.pkg.keys = []) ∧
    (keySigned s r = true → (s.pkg.ownerKey ≠ none ∨ s.pkg.keys ≠ []) → s.pkg.keys.length < 8 → MbEnds .mbAddImageKey s 0 fun z =>
      z.pkg.keys = s.pkg.keys ++ [r]) ∧
    (keySigned s r = true → 8 ≤ s.pkg.keys.length → MbEnds .mbAddImageKey s 2 fun z => z.pkg.keys = s.pkg.keys)) ∧
  -- MB_FULL_SERVICE
  (∀ s, MbReady s →
    ((∀ f ∈ allFrames s, (frameAt s f).tested = true) → MbEnds .mbFullService s 0 fun z => z.pkg.level = 2) ∧
    ((∃ f ∈ allFrames s, (frameAt s f).tested = false) → MbEnds .mbFullService s 2 fun z => z.pkg.level = s.pkg.level))

/-- 18 R445-R457: power, the management registers, the host's accesses, reset, self-test, scrubs, boot and updates. What a reset keeps,
how far demands fall under the cap, the cleared `REF` of an accepted `MODE` write, status 0x02 for a code without a command, and a
read of a whole record, are the model's choice (LOG 28, DESIGN CHOICE). -/
def Obligations.PowerAndSurroundEvents : Prop :=
  -- POWER_CAP_CONTROL
  (∀ s, let w := s.args.w0.setWidth 12
    (w.toNat ≤ s.pkg.capin.toNat → Happens .powerCapControl s fun z => z.pkg.pwrnow = w ∧ z.pkg.idleChoices = false ∧
      ∀ f, tget z.pkg.frames f = (tget s.pkg.frames f).map fun x => { x with millivolts := min 950 (x.millivolts + 10) }) ∧
    (∀ m, s.pkg.capin.toNat < w.toNat → s.pkg.frames.any (fun fx => lowerable s m fx.1 fx.2) = true →
      (m = 0 ∨ m = 1 ∧ s.pkg.frames.any (fun fx => lowerable s 0 fx.1 fx.2) = false) →
      Happens .powerCapControl s fun z => z.pkg.pwrnow = w ∧ ∀ f, tget z.pkg.frames f = (tget s.pkg.frames f).map fun x =>
        if dieMode s f.die = m ∧ 450 < regionMv s f x then { x with millivolts := max 450 (regionMv s f x - 10) } else x) ∧
    (s.pkg.capin.toNat < w.toNat → s.pkg.frames.any (fun fx => lowerable s 0 fx.1 fx.2 || lowerable s 1 fx.1 fx.2) = false →
      Happens .powerCapControl s fun z => z.pkg.pwrnow = w ∧ z.pkg.idleChoices = true ∧ z.pkg.frames = s.pkg.frames)) ∧
  -- PWRCAP_WRITE, SCHEDULE_ENTRY_COMMIT, SCHEDULE_ENTRY_DUE
  (∀ s, Happens .pwrcapWrite s fun z => CapFollows z.pkg ∧ z.pkg.sched = s.args.w0.getLsbD 31 ∧
    z.pkg.capw.toNat = max 350 (min 3000 (s.args.w0.toNat % 4096)) ∧ z.pkg.aocnt = s.pkg.aocnt ∧ z.tasks = s.tasks) ∧
  (∀ s, (h : s.args.i < 64) → Happens .scheduleEntryCommit s fun z => CapFollows z.pkg ∧
    z.pkg.pschedTau[s.args.i] = s.pkg.pschedNew[s.args.i] ∧ z.pkg.pschedW[s.args.i] = s.args.w0.setWidth 12 ∧
    ∀ k, (hk : k < 64) → k ≠ s.args.i → z.pkg.pschedTau[k] = s.pkg.pschedTau[k] ∧ z.pkg.pschedW[k] = s.pkg.pschedW[k]) ∧
  (∀ s, s.pkg.sched = true → entryDue s.pkg s.args.i → Happens .scheduleEntryDue s fun z => CapFollows z.pkg ∧
    z.pkg.capw = s.pkg.capw ∧ z.pkg.pschedTau = s.pkg.pschedTau ∧ z.pkg.pschedW = s.pkg.pschedW) ∧
  (∀ s n, CapFollows (elapse s n).pkg ∧ (elapse s n).pkg.aocnt = s.pkg.aocnt + BitVec.ofNat 64 n) ∧
  -- DIEPWR_FULL, DIEPWR_BALANCED, DIEPWR_NEAR_THRESHOLD, DIEPWR_GATE, DIEPWR_REF_CLEAR, DIEPWR_CHANGE_DONE
  (∀ s e (m : BitVec 2), (h : s.args.i < 4) → dieFitted s s.args.i = true →
    (e = .diepwrFull ∧ m = 0 ∨ e = .diepwrBalanced ∧ m = 1 ∨ e = .diepwrNearThreshold ∧ m = 2 ∨
      e = .diepwrGate ∧ m = 3 ∧ dieInUse s s.args.i = false) →
    Happens e s fun z => z.pkg.dies[s.args.i] = { s.pkg.dies[s.args.i] with mode := m, busy := true, ref := false }) ∧
  (∀ s, (h : s.args.i < 4) → dieFitted s s.args.i = true →
    (dieInUse s s.args.i = true → Happens .diepwrGate s fun z =>
      z.pkg.dies[s.args.i] = { s.pkg.dies[s.args.i] with ref := true }) ∧
    Happens .diepwrRefClear s fun z => z.pkg.dies[s.args.i] = { s.pkg.dies[s.args.i] with ref := false }) ∧
  (∀ s, (h : s.args.i < 4) → s.pkg.dies[s.args.i].busy = true → Happens .diepwrChangeDone s fun z =>
    z.pkg.dies[s.args.i] = { s.pkg.dies[s.args.i] with busy := false, gated := s.pkg.dies[s.args.i].mode == 3 }) ∧
  -- NOTIFY_CLEAR, END_RING_READ_INDEX_WRITE, CONTEXT_RING_READ_INDEX_WRITE
  (∀ s, Happens .notifyClear s fun z => z.pkg = { s.pkg with notify := s.pkg.notify &&& ~~~(s.args.w0.setWidth 4) }) ∧
  (∀ s, Happens .endRingReadIndexWrite s fun z => z.pkg = { s.pkg with endrd := s.args.w0.setWidth 32 }) ∧
  (∀ s x, tget s.contexts s.args.asid = some x → Happens .contextRingReadIndexWrite s fun z =>
    ∃ y, tget z.contexts s.args.asid = some y ∧
      (s.args.flag = true → y.traps.rd = s.args.w0 ∧ y.events = x.events) ∧
      (s.args.flag = false → y.events.rd = s.args.w0 ∧ y.traps = x.traps)) ∧
  -- REGISTER_WRITE
  (∀ s, s.args.j = 8 →
    (s.args.i = 0x100020 → s.contexts = [] → Happens .registerWrite s fun z =>
      z.pkg = { s.pkg with domid := s.args.w0 &&& 0xF0F }) ∧
    (∀ c, s.args.i = 0x100040 → commandOf s (s.args.w0.toNat / 2 ^ 56) = some c →
      exec .registerWrite s = exec c { s with args := { s.args with asid := s.args.w0.setWidth 8 } }) ∧
    (s.args.i = 0x100040 → commandOf s (s.args.w0.toNat / 2 ^ 56) = none → MbReady s →
      MbEnds .registerWrite s 2 fun z => z.tasks = s.tasks ∧ z.contexts = s.contexts) ∧
    (s.args.i = 0x100048 → Happens .registerWrite s fun z => z.pkg.mailbox = { s.pkg.mailbox with arg0 := s.args.w0 }) ∧
    (s.args.i = 0x100050 → Happens .registerWrite s fun z => z.pkg.mailbox = { s.pkg.mailbox with arg1 := s.args.w0 }) ∧
    ∀ k, (h : k < 64) → s.args.i = 0x100100 + 16 * k → Happens .registerWrite s fun z => z.pkg.pschedNew[k] = s.args.w0 ∧
      z.pkg.pschedTau = s.pkg.pschedTau) ∧
  -- HOST_MEMORY_ACCESS
  (∀ s, s.memOk = true → s.pkg.bfail = false → s.args.flag = true →
    let l := s.args.data.take s.args.j
    packageOf s.args.i = ownPackage s → (∀ k, k < l.length → physExists s (s.args.i + k) = true ∧ packageOf (s.args.i + k) = ownPackage s) →
    s.args.i % 2 ^ 48 < 2 ^ 44 → accessWaits s .host (hostSegs s.args.i l.length) = false →
    Happens .hostMemoryAccess s fun z =>
      (∀ k, (h : k < l.length) → byteOf z .phys (s.args.i + k) = l[k]) ∧
      (∀ a, a < s.args.i ∨ s.args.i + l.length ≤ a → byteOf z .phys a = byteOf s .phys a) ∧ z.tasks = s.tasks ∧ z.pages = s.pages) ∧
  (∀ s, s.args.flag = false → packageOf s.args.i = ownPackage s →
    (s.pkg.bfail = false → s.args.i % 2 ^ 48 < 2 ^ 44 → accessWaits s .host (hostSegs s.args.i s.args.j) = false →
      (∀ k, k < s.args.j → physExists s (s.args.i + k) = true ∧ packageOf (s.args.i + k) = ownPackage s) →
      Happens .hostMemoryAccess s fun z => sameBytes s z ∧ z.tasks = s.tasks ∧
        z.pkg.hostRead = (List.range s.args.j).map fun k => byteOf s .phys (s.args.i + k)) ∧
    ∀ o, s.args.i % 2 ^ 48 = 2 ^ 44 + o →
      (∀ w, s.args.j = 8 → (o, w) ∈ registersOf s → exec .hostMemoryAccess s = .next (hostReads s (natLe 8 w))) ∧
      (s.args.j ≠ 8 ∨ o % 8 ≠ 0 → (∀ k, k < s.args.j → ofRegisters (o + k)) →
        exec .hostMemoryAccess s = .next (hostReads s (List.replicate s.args.j 0))) ∧
      -- a record of the end ring
      ∀ k r, k < 256 → tget s.pkg.endRing k = some r → o = 0x200000 + 16 * k → s.args.j = 16 →
        exec .hostMemoryAccess s = .next (hostReads s (natLe 8 r.time.toNat ++ natLe 4 r.inst.toNat ++ [r.asid, r.how, 0, 0]))) ∧
  -- PACKAGE_RESET
  (∀ s, Happens .packageReset s fun z => z.phys = s.phys ∧ z.contexts = [] ∧ z.instances = [] ∧ z.pages = [] ∧ z.tasks = [] ∧
    z.pkg.aocnt = 0 ∧ z.pkg.notify = 0 ∧ z.pkg.bfail = false ∧ z.pkg.bstage = 0 ∧ z.pkg.frames = [] ∧ z.collective.primary = none ∧
    z.pkg.keys = s.pkg.keys ∧ z.pkg.rollbackCount = s.pkg.rollbackCount ∧
    ∀ n, (h : n < 4) → z.pkg.dies[n].orient = s.pkg.dies[n].orient ∧ z.pkg.dies[n].fitted = s.pkg.dies[n].fitted ∧
      z.pkg.dies[n].mode = 1) ∧
  -- FRAME_SELF_TEST_DONE, FRAME_SCRUB_COMPLETE
  (∀ s, let f : FrameId := ⟨s.args.i, s.args.j, s.args.k⟩
    (isFrame s f = true → (frameAt s f).tested = false → Happens .frameSelfTestDone s fun z =>
      (frameAt z f).tested = true ∧ (frameAt z f).passed = s.args.flag ∧
      ((frameAt z f).exposed = true ↔ s.args.flag = true ∧ exposedOn s f.die < exposable s f.die)) ∧
    ((frameAt s f).scrubbing = true → Happens .frameScrubComplete s fun z => (frameAt z f).scrubbing = false ∧
      (s.args.flag = true → (frameAt z f).faulty = true ∧ (frameAt z f).exposed = false ∧
        -- the context that held it logs the lasting error (16 R405, R406)
        ∀ a x, (frameAt s f).lastCtx = some a → tget s.contexts a = some x → x.ending = false → (x.events.wr - x.events.rd).toNat < 4096 →
          ∃ y r, tget z.contexts a = some y ∧ tget y.events.slots (x.events.wr.toNat % 4096) = some r ∧ r.code = 0xF009 ∧
            r.time = s.pkg.aocnt) ∧
      (s.args.flag = false → (frameAt z f).exposed = (frameAt s f).exposed)) ∧
    -- a context that waits to end does so with the last of its frames (15 R377)
    (∀ a x, (frameAt s f).scrubbing = true → (frameAt s f).lastCtx = some a → tget s.contexts a = some x → x.ending = true → x.posts = [] →
      scrubbed (setFrame s f { frameAt s f with scrubbing := false }) a = true →
      MbEnds .frameScrubComplete s 0 fun z => tget z.contexts a = none)) ∧
  -- BOOT_STAGE_VERIFY, FIRMWARE_UPDATE
  (∀ s, s.pkg.bfail = false →
    (Sound s → Happens .bootStageVerify s fun z => z.pkg = { s.pkg with bstage := s.args.w0.setWidth 8 }) ∧
    (¬Sound s → Happens .bootStageVerify s fun z =>
      z.pkg = { s.pkg with bfail := true })) ∧
  (∀ s, (Sound s → Happens .firmwareUpdate s fun z => z.pkg = { s.pkg with build := s.args.j }) ∧
    (¬Sound s → exec .firmwareUpdate s = .next s))
end

