-- ==== Sys2Proof/Laws/Elements.lean ====
section
/-! SUPPORT. Elements of tokens: what is packed into a lane reads back from it. -/

namespace Sys2Proof.Machine

theorem packSubs_lt (w : Nat) (l : List Nat) : packSubs w l < 2 ^ (w * l.length) := by
  induction l with
  | nil => simp [packSubs]
  | cons e r ih =>
    have h1 : e % 2 ^ w < 2 ^ w := Nat.mod_lt _ (Nat.two_pow_pos w)
    have h2 : 2 ^ (w * (r.length + 1)) = 2 ^ w * 2 ^ (w * r.length) := by rw [← pow_add]; congr 1; ring
    simp only [packSubs, List.length_cons, h2]
    nlinarith [Nat.two_pow_pos w]

/-- Sub-element `j` of a packed lane is the `j`-th packed, within its width. -/
theorem packSubs_sub (w : Nat) (l : List Nat) (j : Nat) (h : j < l.length) :
    packSubs w l / 2 ^ (w * j) % 2 ^ w = l[j] % 2 ^ w := by
  induction l generalizing j with
  | nil => simp at h
  | cons e r ih =>
    cases j with
    | zero => simp [packSubs]
    | succ j =>
      have hp : (2 : Nat) ^ (w * (j + 1)) = 2 ^ w * 2 ^ (w * j) := by rw [← pow_add]; congr 1; ring
      have hd : packSubs w (e :: r) / 2 ^ w = packSubs w r := by
        rw [packSubs, Nat.add_mul_div_left _ _ (Nat.two_pow_pos w), Nat.div_eq_of_lt (Nat.mod_lt _ (Nat.two_pow_pos w)), Nat.zero_add]
      rw [hp, ← Nat.div_div_eq_div_mul, hd, ih j (by simpa using h)]
      rfl

/-- Every format's sub-elements fit their lane. -/
theorem lane_fits (m : Fmt) (h : isPair m = false) (hb : m ≠ Fmt.bitmap) : fmtWidth m * perLane m ≤ 32 := by
  revert h hb; revert m; decide

theorem perLane_pos (m : Fmt) : 0 < perLane m := by revert m; decide

theorem fmtWidth_pos (m : Fmt) : 0 < fmtWidth m := by revert m; decide

/-- A lane of an element-by-element result holds, in sub-element `j`, what the operation gives there. -/
theorem subAt_elemWise (m : Fmt) (v : BitVec 16) (op : Nat → Nat → Nat × LaneFlags) (i : Fin 16) (j : Nat)
    (hp : isPair m = false) (hb : m ≠ Fmt.bitmap) (hv : v.getLsbD i.val = true) (hj : j < perLane m) :
    subAt m (lanesOf (elemWise m v op))[i] j = (op i.val j).1 % 2 ^ fmtWidth m := by
  have hl : packSubs (fmtWidth m) ((List.range (perLane m)).map fun j => (op i.val j).1) < 2 ^ 32 := by
    refine Nat.lt_of_lt_of_le (packSubs_lt _ _) (Nat.pow_le_pow_right (by decide) ?_)
    simpa using lane_fits m hp hb
  have := packSubs_sub (fmtWidth m) ((List.range (perLane m)).map fun j => (op i.val j).1) j (by simpa using hj)
  simp only [List.getElem_map, List.getElem_range] at this
  simp only [subAt, lanesOf, elemWise, Fin.getElem_fin, Vector.getElem_ofFn, hv, hp, Bool.not_true, Bool.false_eq_true, if_false,
    List.map_map, Function.comp_def, BitVec.toNat_ofNat, Nat.mod_eq_of_lt hl]
  exact this

/-- A pair of a two-lane result holds what the operation gives at its even lane, where it gives the same at both. -/
theorem pair_elemWise (m : Fmt) (v : BitVec 16) (op : Nat → Nat → Nat × LaneFlags) (k : Nat) (hk : k < 8) (hp : isPair m = true)
    (h0 : v.getLsbD (2 * k) = true) (h1 : v.getLsbD (2 * k + 1) = true) (hs : (op (2 * k + 1) 0).1 = (op (2 * k) 0).1) :
    ((lanesOf (elemWise m v op))[2 * k]).toNat + 2 ^ 32 * ((lanesOf (elemWise m v op))[2 * k + 1]).toNat
      = (op (2 * k) 0).1 % 2 ^ 64 := by
  simp only [lanesOf, elemWise, Fin.getElem_fin, Vector.getElem_ofFn, h0, h1, hp, Bool.not_true, Bool.false_eq_true, if_false, if_true,
    BitVec.toNat_ofNat, hs, Nat.mul_mod_right, show (2 * k + 1) % 2 = 1 by omega, Nat.mul_zero, Nat.mul_one, pow_zero, Nat.div_one]
  omega

/-- An invalid lane of a result is zero and raises nothing. -/
theorem elemWise_invalid (m : Fmt) (v : BitVec 16) (op : Nat → Nat → Nat × LaneFlags) (i : Fin 16) (hv : v.getLsbD i.val = false) :
    (elemWise m v op)[i] = (0, 0) := by
  have hv' : ¬ v[i.val] = true := by simpa [BitVec.getLsbD_eq_getElem] using hv
  simp [elemWise, hv']

/-! ### Tokens as they are emitted -/

@[simp] theorem normal_valid (t : Token) : (normal t).valid = pairValid t.fmt t.valid := rfl
@[simp] theorem normal_fmt (t : Token) : (normal t).fmt = t.fmt := rfl
@[simp] theorem normal_kind (t : Token) : (normal t).kind = t.kind := rfl
@[simp] theorem normal_poison (t : Token) : (normal t).poison = t.poison := rfl
@[simp] theorem normal_scale (t : Token) : (normal t).scale = t.scale := rfl
@[simp] theorem normal_tag (t : Token) : (normal t).tag = t.tag := rfl
@[simp] theorem normal_seq (t : Token) : (normal t).seq = t.seq := rfl

/-- A lane of an emitted token: zero where it is invalid. -/
theorem normal_lane (t : Token) (i : Fin 16) :
    (normal t).lanes[i] = if (pairValid t.fmt t.valid).getLsbD i.val then t.lanes[i] &&& spareMask t.fmt else 0 := by
  simp [normal]

@[simp] theorem result_kind (a : Token) (g : Fmt) (l : Vector Lane 16) (v : BitVec 16) (p : Bool) : (result a g l v p).kind = 0 := rfl
@[simp] theorem result_fmt (a : Token) (g : Fmt) (l : Vector Lane 16) (v : BitVec 16) (p : Bool) : (result a g l v p).fmt = g := rfl
@[simp] theorem result_tag (a : Token) (g : Fmt) (l : Vector Lane 16) (v : BitVec 16) (p : Bool) : (result a g l v p).tag = a.tag := rfl
@[simp] theorem result_poison (a : Token) (g : Fmt) (l : Vector Lane 16) (v : BitVec 16) (p : Bool) : (result a g l v p).poison = p := rfl
@[simp] theorem result_valid (a : Token) (g : Fmt) (l : Vector Lane 16) (v : BitVec 16) (p : Bool) :
    (result a g l v p).valid = pairValid g v := rfl
@[simp] theorem result_scale (a : Token) (g : Fmt) (l : Vector Lane 16) (v : BitVec 16) (p : Bool) :
    (result a g l v p).scale = if burstScaled g then a.scale else 0x7F := rfl

/-- The pair rule, applied twice, is the pair rule. -/
theorem pairValid_idem (m : Fmt) (v : BitVec 16) : pairValid m (pairValid m v) = pairValid m v := by
  have h : ∀ i : Fin 16, (pairValid m (pairValid m v)).getLsbD i.val = (pairValid m v).getLsbD i.val := by
    intro i
    simp only [pairValid]
    split
    · fin_cases i <;> simp [BitVec.getLsbD_ofFnLE]
    · split
      · fin_cases i <;> simp [BitVec.getLsbD_ofFnLE]
      · rfl
  exact BitVec.eq_of_getLsbD_eq fun i hi => h ⟨i, hi⟩

end Sys2Proof.Machine
end

