-- ==== Sys2Proof/Laws/State.lean ====
section
/-! SUPPORT. What each named update of the state gives for each field: one rewriting law per field per update. -/

namespace Sys2Proof.Machine

/-! ### setTask, modTask -/

@[simp] theorem setTask_agenda (s : State) (k : Nat × Nat) (x : Task) : (setTask s k x).agenda = s.agenda := rfl
@[simp] theorem modTask_agenda (s : State) (k : Nat × Nat) (g : Task → Task) : (modTask s k g).agenda = s.agenda := rfl
@[simp] theorem setTask_free (s : State) (k : Nat × Nat) (x : Task) : (setTask s k x).free = s.free := rfl
@[simp] theorem modTask_free (s : State) (k : Nat × Nat) (g : Task → Task) : (modTask s k g).free = s.free := rfl
@[simp] theorem setTask_focus (s : State) (k : Nat × Nat) (x : Task) : (setTask s k x).focus = s.focus := rfl
@[simp] theorem modTask_focus (s : State) (k : Nat × Nat) (g : Task → Task) : (modTask s k g).focus = s.focus := rfl
@[simp] theorem setTask_args (s : State) (k : Nat × Nat) (x : Task) : (setTask s k x).args = s.args := rfl
@[simp] theorem modTask_args (s : State) (k : Nat × Nat) (g : Task → Task) : (modTask s k g).args = s.args := rfl
@[simp] theorem setTask_pkg (s : State) (k : Nat × Nat) (x : Task) : (setTask s k x).pkg = s.pkg := rfl
@[simp] theorem modTask_pkg (s : State) (k : Nat × Nat) (g : Task → Task) : (modTask s k g).pkg = s.pkg := rfl
@[simp] theorem setTask_phys (s : State) (k : Nat × Nat) (x : Task) : (setTask s k x).phys = s.phys := rfl
@[simp] theorem modTask_phys (s : State) (k : Nat × Nat) (g : Task → Task) : (modTask s k g).phys = s.phys := rfl
@[simp] theorem setTask_outbound (s : State) (k : Nat × Nat) (x : Task) : (setTask s k x).outbound = s.outbound := rfl
@[simp] theorem modTask_outbound (s : State) (k : Nat × Nat) (g : Task → Task) : (modTask s k g).outbound = s.outbound := rfl
@[simp] theorem setTask_contexts (s : State) (k : Nat × Nat) (x : Task) : (setTask s k x).contexts = s.contexts := rfl
@[simp] theorem modTask_contexts (s : State) (k : Nat × Nat) (g : Task → Task) : (modTask s k g).contexts = s.contexts := rfl
@[simp] theorem setTask_instances (s : State) (k : Nat × Nat) (x : Task) : (setTask s k x).instances = s.instances := rfl
@[simp] theorem modTask_instances (s : State) (k : Nat × Nat) (g : Task → Task) : (modTask s k g).instances = s.instances := rfl
@[simp] theorem setTask_pages (s : State) (k : Nat × Nat) (x : Task) : (setTask s k x).pages = s.pages := rfl
@[simp] theorem modTask_pages (s : State) (k : Nat × Nat) (g : Task → Task) : (modTask s k g).pages = s.pages := rfl
@[simp] theorem setTask_cells (s : State) (k : Nat × Nat) (x : Task) : (setTask s k x).cells = s.cells := rfl
@[simp] theorem modTask_cells (s : State) (k : Nat × Nat) (g : Task → Task) : (modTask s k g).cells = s.cells := rfl
@[simp] theorem setTask_tasks (s : State) (k : Nat × Nat) (x : Task) : (setTask s k x).tasks = tput s.tasks k x := rfl
@[simp] theorem modTask_tasks (s : State) (k : Nat × Nat) (g : Task → Task) : (modTask s k g).tasks = tmod s.tasks k g := rfl
@[simp] theorem setTask_arcs (s : State) (k : Nat × Nat) (x : Task) : (setTask s k x).arcs = s.arcs := rfl
@[simp] theorem modTask_arcs (s : State) (k : Nat × Nat) (g : Task → Task) : (modTask s k g).arcs = s.arcs := rfl
@[simp] theorem setTask_banks (s : State) (k : Nat × Nat) (x : Task) : (setTask s k x).banks = s.banks := rfl
@[simp] theorem modTask_banks (s : State) (k : Nat × Nat) (g : Task → Task) : (modTask s k g).banks = s.banks := rfl
@[simp] theorem setTask_chains (s : State) (k : Nat × Nat) (x : Task) : (setTask s k x).chains = s.chains := rfl
@[simp] theorem modTask_chains (s : State) (k : Nat × Nat) (g : Task → Task) : (modTask s k g).chains = s.chains := rfl
@[simp] theorem setTask_xlates (s : State) (k : Nat × Nat) (x : Task) : (setTask s k x).xlates = s.xlates := rfl
@[simp] theorem modTask_xlates (s : State) (k : Nat × Nat) (g : Task → Task) : (modTask s k g).xlates = s.xlates := rfl
@[simp] theorem setTask_rangeHeld (s : State) (k : Nat × Nat) (x : Task) : (setTask s k x).rangeHeld = s.rangeHeld := rfl
@[simp] theorem modTask_rangeHeld (s : State) (k : Nat × Nat) (g : Task → Task) : (modTask s k g).rangeHeld = s.rangeHeld := rfl
@[simp] theorem setTask_invalidation (s : State) (k : Nat × Nat) (x : Task) : (setTask s k x).invalidation = s.invalidation := rfl
@[simp] theorem modTask_invalidation (s : State) (k : Nat × Nat) (g : Task → Task) : (modTask s k g).invalidation = s.invalidation := rfl
@[simp] theorem setTask_spawns (s : State) (k : Nat × Nat) (x : Task) : (setTask s k x).spawns = s.spawns := rfl
@[simp] theorem modTask_spawns (s : State) (k : Nat × Nat) (g : Task → Task) : (modTask s k g).spawns = s.spawns := rfl
@[simp] theorem setTask_freezes (s : State) (k : Nat × Nat) (x : Task) : (setTask s k x).freezes = s.freezes := rfl
@[simp] theorem modTask_freezes (s : State) (k : Nat × Nat) (g : Task → Task) : (modTask s k g).freezes = s.freezes := rfl
@[simp] theorem setTask_collective (s : State) (k : Nat × Nat) (x : Task) : (setTask s k x).collective = s.collective := rfl
@[simp] theorem modTask_collective (s : State) (k : Nat × Nat) (g : Task → Task) : (modTask s k g).collective = s.collective := rfl

/-! ### setCell, modCell -/

@[simp] theorem setCell_agenda (s : State) (k : Nat) (x : Cell) : (setCell s k x).agenda = s.agenda := rfl
@[simp] theorem modCell_agenda (s : State) (k : Nat) (g : Cell → Cell) : (modCell s k g).agenda = s.agenda := rfl
@[simp] theorem setCell_free (s : State) (k : Nat) (x : Cell) : (setCell s k x).free = s.free := rfl
@[simp] theorem modCell_free (s : State) (k : Nat) (g : Cell → Cell) : (modCell s k g).free = s.free := rfl
@[simp] theorem setCell_focus (s : State) (k : Nat) (x : Cell) : (setCell s k x).focus = s.focus := rfl
@[simp] theorem modCell_focus (s : State) (k : Nat) (g : Cell → Cell) : (modCell s k g).focus = s.focus := rfl
@[simp] theorem setCell_args (s : State) (k : Nat) (x : Cell) : (setCell s k x).args = s.args := rfl
@[simp] theorem modCell_args (s : State) (k : Nat) (g : Cell → Cell) : (modCell s k g).args = s.args := rfl
@[simp] theorem setCell_pkg (s : State) (k : Nat) (x : Cell) : (setCell s k x).pkg = s.pkg := rfl
@[simp] theorem modCell_pkg (s : State) (k : Nat) (g : Cell → Cell) : (modCell s k g).pkg = s.pkg := rfl
@[simp] theorem setCell_phys (s : State) (k : Nat) (x : Cell) : (setCell s k x).phys = s.phys := rfl
@[simp] theorem modCell_phys (s : State) (k : Nat) (g : Cell → Cell) : (modCell s k g).phys = s.phys := rfl
@[simp] theorem setCell_outbound (s : State) (k : Nat) (x : Cell) : (setCell s k x).outbound = s.outbound := rfl
@[simp] theorem modCell_outbound (s : State) (k : Nat) (g : Cell → Cell) : (modCell s k g).outbound = s.outbound := rfl
@[simp] theorem setCell_contexts (s : State) (k : Nat) (x : Cell) : (setCell s k x).contexts = s.contexts := rfl
@[simp] theorem modCell_contexts (s : State) (k : Nat) (g : Cell → Cell) : (modCell s k g).contexts = s.contexts := rfl
@[simp] theorem setCell_instances (s : State) (k : Nat) (x : Cell) : (setCell s k x).instances = s.instances := rfl
@[simp] theorem modCell_instances (s : State) (k : Nat) (g : Cell → Cell) : (modCell s k g).instances = s.instances := rfl
@[simp] theorem setCell_pages (s : State) (k : Nat) (x : Cell) : (setCell s k x).pages = s.pages := rfl
@[simp] theorem modCell_pages (s : State) (k : Nat) (g : Cell → Cell) : (modCell s k g).pages = s.pages := rfl
@[simp] theorem setCell_cells (s : State) (k : Nat) (x : Cell) : (setCell s k x).cells = tput s.cells k x := rfl
@[simp] theorem modCell_cells (s : State) (k : Nat) (g : Cell → Cell) : (modCell s k g).cells = tmod s.cells k g := rfl
@[simp] theorem setCell_tasks (s : State) (k : Nat) (x : Cell) : (setCell s k x).tasks = s.tasks := rfl
@[simp] theorem modCell_tasks (s : State) (k : Nat) (g : Cell → Cell) : (modCell s k g).tasks = s.tasks := rfl
@[simp] theorem setCell_arcs (s : State) (k : Nat) (x : Cell) : (setCell s k x).arcs = s.arcs := rfl
@[simp] theorem modCell_arcs (s : State) (k : Nat) (g : Cell → Cell) : (modCell s k g).arcs = s.arcs := rfl
@[simp] theorem setCell_banks (s : State) (k : Nat) (x : Cell) : (setCell s k x).banks = s.banks := rfl
@[simp] theorem modCell_banks (s : State) (k : Nat) (g : Cell → Cell) : (modCell s k g).banks = s.banks := rfl
@[simp] theorem setCell_chains (s : State) (k : Nat) (x : Cell) : (setCell s k x).chains = s.chains := rfl
@[simp] theorem modCell_chains (s : State) (k : Nat) (g : Cell → Cell) : (modCell s k g).chains = s.chains := rfl
@[simp] theorem setCell_xlates (s : State) (k : Nat) (x : Cell) : (setCell s k x).xlates = s.xlates := rfl
@[simp] theorem modCell_xlates (s : State) (k : Nat) (g : Cell → Cell) : (modCell s k g).xlates = s.xlates := rfl
@[simp] theorem setCell_rangeHeld (s : State) (k : Nat) (x : Cell) : (setCell s k x).rangeHeld = s.rangeHeld := rfl
@[simp] theorem modCell_rangeHeld (s : State) (k : Nat) (g : Cell → Cell) : (modCell s k g).rangeHeld = s.rangeHeld := rfl
@[simp] theorem setCell_invalidation (s : State) (k : Nat) (x : Cell) : (setCell s k x).invalidation = s.invalidation := rfl
@[simp] theorem modCell_invalidation (s : State) (k : Nat) (g : Cell → Cell) : (modCell s k g).invalidation = s.invalidation := rfl
@[simp] theorem setCell_spawns (s : State) (k : Nat) (x : Cell) : (setCell s k x).spawns = s.spawns := rfl
@[simp] theorem modCell_spawns (s : State) (k : Nat) (g : Cell → Cell) : (modCell s k g).spawns = s.spawns := rfl
@[simp] theorem setCell_freezes (s : State) (k : Nat) (x : Cell) : (setCell s k x).freezes = s.freezes := rfl
@[simp] theorem modCell_freezes (s : State) (k : Nat) (g : Cell → Cell) : (modCell s k g).freezes = s.freezes := rfl
@[simp] theorem setCell_collective (s : State) (k : Nat) (x : Cell) : (setCell s k x).collective = s.collective := rfl
@[simp] theorem modCell_collective (s : State) (k : Nat) (g : Cell → Cell) : (modCell s k g).collective = s.collective := rfl

/-! ### setPage, modPage -/

@[simp] theorem setPage_agenda (s : State) (k : Nat) (x : Page) : (setPage s k x).agenda = s.agenda := rfl
@[simp] theorem modPage_agenda (s : State) (k : Nat) (g : Page → Page) : (modPage s k g).agenda = s.agenda := rfl
@[simp] theorem setPage_free (s : State) (k : Nat) (x : Page) : (setPage s k x).free = s.free := rfl
@[simp] theorem modPage_free (s : State) (k : Nat) (g : Page → Page) : (modPage s k g).free = s.free := rfl
@[simp] theorem setPage_focus (s : State) (k : Nat) (x : Page) : (setPage s k x).focus = s.focus := rfl
@[simp] theorem modPage_focus (s : State) (k : Nat) (g : Page → Page) : (modPage s k g).focus = s.focus := rfl
@[simp] theorem setPage_args (s : State) (k : Nat) (x : Page) : (setPage s k x).args = s.args := rfl
@[simp] theorem modPage_args (s : State) (k : Nat) (g : Page → Page) : (modPage s k g).args = s.args := rfl
@[simp] theorem setPage_pkg (s : State) (k : Nat) (x : Page) : (setPage s k x).pkg = s.pkg := rfl
@[simp] theorem modPage_pkg (s : State) (k : Nat) (g : Page → Page) : (modPage s k g).pkg = s.pkg := rfl
@[simp] theorem setPage_phys (s : State) (k : Nat) (x : Page) : (setPage s k x).phys = s.phys := rfl
@[simp] theorem modPage_phys (s : State) (k : Nat) (g : Page → Page) : (modPage s k g).phys = s.phys := rfl
@[simp] theorem setPage_outbound (s : State) (k : Nat) (x : Page) : (setPage s k x).outbound = s.outbound := rfl
@[simp] theorem modPage_outbound (s : State) (k : Nat) (g : Page → Page) : (modPage s k g).outbound = s.outbound := rfl
@[simp] theorem setPage_contexts (s : State) (k : Nat) (x : Page) : (setPage s k x).contexts = s.contexts := rfl
@[simp] theorem modPage_contexts (s : State) (k : Nat) (g : Page → Page) : (modPage s k g).contexts = s.contexts := rfl
@[simp] theorem setPage_instances (s : State) (k : Nat) (x : Page) : (setPage s k x).instances = s.instances := rfl
@[simp] theorem modPage_instances (s : State) (k : Nat) (g : Page → Page) : (modPage s k g).instances = s.instances := rfl
@[simp] theorem setPage_pages (s : State) (k : Nat) (x : Page) : (setPage s k x).pages = tput s.pages k x := rfl
@[simp] theorem modPage_pages (s : State) (k : Nat) (g : Page → Page) : (modPage s k g).pages = tmod s.pages k g := rfl
@[simp] theorem setPage_cells (s : State) (k : Nat) (x : Page) : (setPage s k x).cells = s.cells := rfl
@[simp] theorem modPage_cells (s : State) (k : Nat) (g : Page → Page) : (modPage s k g).cells = s.cells := rfl
@[simp] theorem setPage_tasks (s : State) (k : Nat) (x : Page) : (setPage s k x).tasks = s.tasks := rfl
@[simp] theorem modPage_tasks (s : State) (k : Nat) (g : Page → Page) : (modPage s k g).tasks = s.tasks := rfl
@[simp] theorem setPage_arcs (s : State) (k : Nat) (x : Page) : (setPage s k x).arcs = s.arcs := rfl
@[simp] theorem modPage_arcs (s : State) (k : Nat) (g : Page → Page) : (modPage s k g).arcs = s.arcs := rfl
@[simp] theorem setPage_banks (s : State) (k : Nat) (x : Page) : (setPage s k x).banks = s.banks := rfl
@[simp] theorem modPage_banks (s : State) (k : Nat) (g : Page → Page) : (modPage s k g).banks = s.banks := rfl
@[simp] theorem setPage_chains (s : State) (k : Nat) (x : Page) : (setPage s k x).chains = s.chains := rfl
@[simp] theorem modPage_chains (s : State) (k : Nat) (g : Page → Page) : (modPage s k g).chains = s.chains := rfl
@[simp] theorem setPage_xlates (s : State) (k : Nat) (x : Page) : (setPage s k x).xlates = s.xlates := rfl
@[simp] theorem modPage_xlates (s : State) (k : Nat) (g : Page → Page) : (modPage s k g).xlates = s.xlates := rfl
@[simp] theorem setPage_rangeHeld (s : State) (k : Nat) (x : Page) : (setPage s k x).rangeHeld = s.rangeHeld := rfl
@[simp] theorem modPage_rangeHeld (s : State) (k : Nat) (g : Page → Page) : (modPage s k g).rangeHeld = s.rangeHeld := rfl
@[simp] theorem setPage_invalidation (s : State) (k : Nat) (x : Page) : (setPage s k x).invalidation = s.invalidation := rfl
@[simp] theorem modPage_invalidation (s : State) (k : Nat) (g : Page → Page) : (modPage s k g).invalidation = s.invalidation := rfl
@[simp] theorem setPage_spawns (s : State) (k : Nat) (x : Page) : (setPage s k x).spawns = s.spawns := rfl
@[simp] theorem modPage_spawns (s : State) (k : Nat) (g : Page → Page) : (modPage s k g).spawns = s.spawns := rfl
@[simp] theorem setPage_freezes (s : State) (k : Nat) (x : Page) : (setPage s k x).freezes = s.freezes := rfl
@[simp] theorem modPage_freezes (s : State) (k : Nat) (g : Page → Page) : (modPage s k g).freezes = s.freezes := rfl
@[simp] theorem setPage_collective (s : State) (k : Nat) (x : Page) : (setPage s k x).collective = s.collective := rfl
@[simp] theorem modPage_collective (s : State) (k : Nat) (g : Page → Page) : (modPage s k g).collective = s.collective := rfl

/-! ### setArc, modArc -/

@[simp] theorem setArc_agenda (s : State) (k : Nat) (x : Arc) : (setArc s k x).agenda = s.agenda := rfl
@[simp] theorem modArc_agenda (s : State) (k : Nat) (g : Arc → Arc) : (modArc s k g).agenda = s.agenda := rfl
@[simp] theorem setArc_free (s : State) (k : Nat) (x : Arc) : (setArc s k x).free = s.free := rfl
@[simp] theorem modArc_free (s : State) (k : Nat) (g : Arc → Arc) : (modArc s k g).free = s.free := rfl
@[simp] theorem setArc_focus (s : State) (k : Nat) (x : Arc) : (setArc s k x).focus = s.focus := rfl
@[simp] theorem modArc_focus (s : State) (k : Nat) (g : Arc → Arc) : (modArc s k g).focus = s.focus := rfl
@[simp] theorem setArc_args (s : State) (k : Nat) (x : Arc) : (setArc s k x).args = s.args := rfl
@[simp] theorem modArc_args (s : State) (k : Nat) (g : Arc → Arc) : (modArc s k g).args = s.args := rfl
@[simp] theorem setArc_pkg (s : State) (k : Nat) (x : Arc) : (setArc s k x).pkg = s.pkg := rfl
@[simp] theorem modArc_pkg (s : State) (k : Nat) (g : Arc → Arc) : (modArc s k g).pkg = s.pkg := rfl
@[simp] theorem setArc_phys (s : State) (k : Nat) (x : Arc) : (setArc s k x).phys = s.phys := rfl
@[simp] theorem modArc_phys (s : State) (k : Nat) (g : Arc → Arc) : (modArc s k g).phys = s.phys := rfl
@[simp] theorem setArc_outbound (s : State) (k : Nat) (x : Arc) : (setArc s k x).outbound = s.outbound := rfl
@[simp] theorem modArc_outbound (s : State) (k : Nat) (g : Arc → Arc) : (modArc s k g).outbound = s.outbound := rfl
@[simp] theorem setArc_contexts (s : State) (k : Nat) (x : Arc) : (setArc s k x).contexts = s.contexts := rfl
@[simp] theorem modArc_contexts (s : State) (k : Nat) (g : Arc → Arc) : (modArc s k g).contexts = s.contexts := rfl
@[simp] theorem setArc_instances (s : State) (k : Nat) (x : Arc) : (setArc s k x).instances = s.instances := rfl
@[simp] theorem modArc_instances (s : State) (k : Nat) (g : Arc → Arc) : (modArc s k g).instances = s.instances := rfl
@[simp] theorem setArc_pages (s : State) (k : Nat) (x : Arc) : (setArc s k x).pages = s.pages := rfl
@[simp] theorem modArc_pages (s : State) (k : Nat) (g : Arc → Arc) : (modArc s k g).pages = s.pages := rfl
@[simp] theorem setArc_cells (s : State) (k : Nat) (x : Arc) : (setArc s k x).cells = s.cells := rfl
@[simp] theorem modArc_cells (s : State) (k : Nat) (g : Arc → Arc) : (modArc s k g).cells = s.cells := rfl
@[simp] theorem setArc_tasks (s : State) (k : Nat) (x : Arc) : (setArc s k x).tasks = s.tasks := rfl
@[simp] theorem modArc_tasks (s : State) (k : Nat) (g : Arc → Arc) : (modArc s k g).tasks = s.tasks := rfl
@[simp] theorem setArc_arcs (s : State) (k : Nat) (x : Arc) : (setArc s k x).arcs = tput s.arcs k x := rfl
@[simp] theorem modArc_arcs (s : State) (k : Nat) (g : Arc → Arc) : (modArc s k g).arcs = tmod s.arcs k g := rfl
@[simp] theorem setArc_banks (s : State) (k : Nat) (x : Arc) : (setArc s k x).banks = s.banks := rfl
@[simp] theorem modArc_banks (s : State) (k : Nat) (g : Arc → Arc) : (modArc s k g).banks = s.banks := rfl
@[simp] theorem setArc_chains (s : State) (k : Nat) (x : Arc) : (setArc s k x).chains = s.chains := rfl
@[simp] theorem modArc_chains (s : State) (k : Nat) (g : Arc → Arc) : (modArc s k g).chains = s.chains := rfl
@[simp] theorem setArc_xlates (s : State) (k : Nat) (x : Arc) : (setArc s k x).xlates = s.xlates := rfl
@[simp] theorem modArc_xlates (s : State) (k : Nat) (g : Arc → Arc) : (modArc s k g).xlates = s.xlates := rfl
@[simp] theorem setArc_rangeHeld (s : State) (k : Nat) (x : Arc) : (setArc s k x).rangeHeld = s.rangeHeld := rfl
@[simp] theorem modArc_rangeHeld (s : State) (k : Nat) (g : Arc → Arc) : (modArc s k g).rangeHeld = s.rangeHeld := rfl
@[simp] theorem setArc_invalidation (s : State) (k : Nat) (x : Arc) : (setArc s k x).invalidation = s.invalidation := rfl
@[simp] theorem modArc_invalidation (s : State) (k : Nat) (g : Arc → Arc) : (modArc s k g).invalidation = s.invalidation := rfl
@[simp] theorem setArc_spawns (s : State) (k : Nat) (x : Arc) : (setArc s k x).spawns = s.spawns := rfl
@[simp] theorem modArc_spawns (s : State) (k : Nat) (g : Arc → Arc) : (modArc s k g).spawns = s.spawns := rfl
@[simp] theorem setArc_freezes (s : State) (k : Nat) (x : Arc) : (setArc s k x).freezes = s.freezes := rfl
@[simp] theorem modArc_freezes (s : State) (k : Nat) (g : Arc → Arc) : (modArc s k g).freezes = s.freezes := rfl
@[simp] theorem setArc_collective (s : State) (k : Nat) (x : Arc) : (setArc s k x).collective = s.collective := rfl
@[simp] theorem modArc_collective (s : State) (k : Nat) (g : Arc → Arc) : (modArc s k g).collective = s.collective := rfl

/-! ### setCtx, modCtx -/

@[simp] theorem setCtx_agenda (s : State) (k : BitVec 8) (x : Context) : (setCtx s k x).agenda = s.agenda := rfl
@[simp] theorem modCtx_agenda (s : State) (k : BitVec 8) (g : Context → Context) : (modCtx s k g).agenda = s.agenda := rfl
@[simp] theorem setCtx_free (s : State) (k : BitVec 8) (x : Context) : (setCtx s k x).free = s.free := rfl
@[simp] theorem modCtx_free (s : State) (k : BitVec 8) (g : Context → Context) : (modCtx s k g).free = s.free := rfl
@[simp] theorem setCtx_focus (s : State) (k : BitVec 8) (x : Context) : (setCtx s k x).focus = s.focus := rfl
@[simp] theorem modCtx_focus (s : State) (k : BitVec 8) (g : Context → Context) : (modCtx s k g).focus = s.focus := rfl
@[simp] theorem setCtx_args (s : State) (k : BitVec 8) (x : Context) : (setCtx s k x).args = s.args := rfl
@[simp] theorem modCtx_args (s : State) (k : BitVec 8) (g : Context → Context) : (modCtx s k g).args = s.args := rfl
@[simp] theorem setCtx_pkg (s : State) (k : BitVec 8) (x : Context) : (setCtx s k x).pkg = s.pkg := rfl
@[simp] theorem modCtx_pkg (s : State) (k : BitVec 8) (g : Context → Context) : (modCtx s k g).pkg = s.pkg := rfl
@[simp] theorem setCtx_phys (s : State) (k : BitVec 8) (x : Context) : (setCtx s k x).phys = s.phys := rfl
@[simp] theorem modCtx_phys (s : State) (k : BitVec 8) (g : Context → Context) : (modCtx s k g).phys = s.phys := rfl
@[simp] theorem setCtx_outbound (s : State) (k : BitVec 8) (x : Context) : (setCtx s k x).outbound = s.outbound := rfl
@[simp] theorem modCtx_outbound (s : State) (k : BitVec 8) (g : Context → Context) : (modCtx s k g).outbound = s.outbound := rfl
@[simp] theorem setCtx_contexts (s : State) (k : BitVec 8) (x : Context) : (setCtx s k x).contexts = tput s.contexts k x := rfl
@[simp] theorem modCtx_contexts (s : State) (k : BitVec 8) (g : Context → Context) : (modCtx s k g).contexts = tmod s.contexts k g := rfl
@[simp] theorem setCtx_instances (s : State) (k : BitVec 8) (x : Context) : (setCtx s k x).instances = s.instances := rfl
@[simp] theorem modCtx_instances (s : State) (k : BitVec 8) (g : Context → Context) : (modCtx s k g).instances = s.instances := rfl
@[simp] theorem setCtx_pages (s : State) (k : BitVec 8) (x : Context) : (setCtx s k x).pages = s.pages := rfl
@[simp] theorem modCtx_pages (s : State) (k : BitVec 8) (g : Context → Context) : (modCtx s k g).pages = s.pages := rfl
@[simp] theorem setCtx_cells (s : State) (k : BitVec 8) (x : Context) : (setCtx s k x).cells = s.cells := rfl
@[simp] theorem modCtx_cells (s : State) (k : BitVec 8) (g : Context → Context) : (modCtx s k g).cells = s.cells := rfl
@[simp] theorem setCtx_tasks (s : State) (k : BitVec 8) (x : Context) : (setCtx s k x).tasks = s.tasks := rfl
@[simp] theorem modCtx_tasks (s : State) (k : BitVec 8) (g : Context → Context) : (modCtx s k g).tasks = s.tasks := rfl
@[simp] theorem setCtx_arcs (s : State) (k : BitVec 8) (x : Context) : (setCtx s k x).arcs = s.arcs := rfl
@[simp] theorem modCtx_arcs (s : State) (k : BitVec 8) (g : Context → Context) : (modCtx s k g).arcs = s.arcs := rfl
@[simp] theorem setCtx_banks (s : State) (k : BitVec 8) (x : Context) : (setCtx s k x).banks = s.banks := rfl
@[simp] theorem modCtx_banks (s : State) (k : BitVec 8) (g : Context → Context) : (modCtx s k g).banks = s.banks := rfl
@[simp] theorem setCtx_chains (s : State) (k : BitVec 8) (x : Context) : (setCtx s k x).chains = s.chains := rfl
@[simp] theorem modCtx_chains (s : State) (k : BitVec 8) (g : Context → Context) : (modCtx s k g).chains = s.chains := rfl
@[simp] theorem setCtx_xlates (s : State) (k : BitVec 8) (x : Context) : (setCtx s k x).xlates = s.xlates := rfl
@[simp] theorem modCtx_xlates (s : State) (k : BitVec 8) (g : Context → Context) : (modCtx s k g).xlates = s.xlates := rfl
@[simp] theorem setCtx_rangeHeld (s : State) (k : BitVec 8) (x : Context) : (setCtx s k x).rangeHeld = s.rangeHeld := rfl
@[simp] theorem modCtx_rangeHeld (s : State) (k : BitVec 8) (g : Context → Context) : (modCtx s k g).rangeHeld = s.rangeHeld := rfl
@[simp] theorem setCtx_invalidation (s : State) (k : BitVec 8) (x : Context) : (setCtx s k x).invalidation = s.invalidation := rfl
@[simp] theorem modCtx_invalidation (s : State) (k : BitVec 8) (g : Context → Context) : (modCtx s k g).invalidation = s.invalidation := rfl
@[simp] theorem setCtx_spawns (s : State) (k : BitVec 8) (x : Context) : (setCtx s k x).spawns = s.spawns := rfl
@[simp] theorem modCtx_spawns (s : State) (k : BitVec 8) (g : Context → Context) : (modCtx s k g).spawns = s.spawns := rfl
@[simp] theorem setCtx_freezes (s : State) (k : BitVec 8) (x : Context) : (setCtx s k x).freezes = s.freezes := rfl
@[simp] theorem modCtx_freezes (s : State) (k : BitVec 8) (g : Context → Context) : (modCtx s k g).freezes = s.freezes := rfl
@[simp] theorem setCtx_collective (s : State) (k : BitVec 8) (x : Context) : (setCtx s k x).collective = s.collective := rfl
@[simp] theorem modCtx_collective (s : State) (k : BitVec 8) (g : Context → Context) : (modCtx s k g).collective = s.collective := rfl

/-! ### setInst, modInst -/

@[simp] theorem setInst_agenda (s : State) (k : BitVec 32) (x : Instance) : (setInst s k x).agenda = s.agenda := rfl
@[simp] theorem modInst_agenda (s : State) (k : BitVec 32) (g : Instance → Instance) : (modInst s k g).agenda = s.agenda := rfl
@[simp] theorem setInst_free (s : State) (k : BitVec 32) (x : Instance) : (setInst s k x).free = s.free := rfl
@[simp] theorem modInst_free (s : State) (k : BitVec 32) (g : Instance → Instance) : (modInst s k g).free = s.free := rfl
@[simp] theorem setInst_focus (s : State) (k : BitVec 32) (x : Instance) : (setInst s k x).focus = s.focus := rfl
@[simp] theorem modInst_focus (s : State) (k : BitVec 32) (g : Instance → Instance) : (modInst s k g).focus = s.focus := rfl
@[simp] theorem setInst_args (s : State) (k : BitVec 32) (x : Instance) : (setInst s k x).args = s.args := rfl
@[simp] theorem modInst_args (s : State) (k : BitVec 32) (g : Instance → Instance) : (modInst s k g).args = s.args := rfl
@[simp] theorem setInst_pkg (s : State) (k : BitVec 32) (x : Instance) : (setInst s k x).pkg = s.pkg := rfl
@[simp] theorem modInst_pkg (s : State) (k : BitVec 32) (g : Instance → Instance) : (modInst s k g).pkg = s.pkg := rfl
@[simp] theorem setInst_phys (s : State) (k : BitVec 32) (x : Instance) : (setInst s k x).phys = s.phys := rfl
@[simp] theorem modInst_phys (s : State) (k : BitVec 32) (g : Instance → Instance) : (modInst s k g).phys = s.phys := rfl
@[simp] theorem setInst_outbound (s : State) (k : BitVec 32) (x : Instance) : (setInst s k x).outbound = s.outbound := rfl
@[simp] theorem modInst_outbound (s : State) (k : BitVec 32) (g : Instance → Instance) : (modInst s k g).outbound = s.outbound := rfl
@[simp] theorem setInst_contexts (s : State) (k : BitVec 32) (x : Instance) : (setInst s k x).contexts = s.contexts := rfl
@[simp] theorem modInst_contexts (s : State) (k : BitVec 32) (g : Instance → Instance) : (modInst s k g).contexts = s.contexts := rfl
@[simp] theorem setInst_instances (s : State) (k : BitVec 32) (x : Instance) : (setInst s k x).instances = tput s.instances k x := rfl
@[simp] theorem modInst_instances (s : State) (k : BitVec 32) (g : Instance → Instance) : (modInst s k g).instances = tmod s.instances k g := rfl
@[simp] theorem setInst_pages (s : State) (k : BitVec 32) (x : Instance) : (setInst s k x).pages = s.pages := rfl
@[simp] theorem modInst_pages (s : State) (k : BitVec 32) (g : Instance → Instance) : (modInst s k g).pages = s.pages := rfl
@[simp] theorem setInst_cells (s : State) (k : BitVec 32) (x : Instance) : (setInst s k x).cells = s.cells := rfl
@[simp] theorem modInst_cells (s : State) (k : BitVec 32) (g : Instance → Instance) : (modInst s k g).cells = s.cells := rfl
@[simp] theorem setInst_tasks (s : State) (k : BitVec 32) (x : Instance) : (setInst s k x).tasks = s.tasks := rfl
@[simp] theorem modInst_tasks (s : State) (k : BitVec 32) (g : Instance → Instance) : (modInst s k g).tasks = s.tasks := rfl
@[simp] theorem setInst_arcs (s : State) (k : BitVec 32) (x : Instance) : (setInst s k x).arcs = s.arcs := rfl
@[simp] theorem modInst_arcs (s : State) (k : BitVec 32) (g : Instance → Instance) : (modInst s k g).arcs = s.arcs := rfl
@[simp] theorem setInst_banks (s : State) (k : BitVec 32) (x : Instance) : (setInst s k x).banks = s.banks := rfl
@[simp] theorem modInst_banks (s : State) (k : BitVec 32) (g : Instance → Instance) : (modInst s k g).banks = s.banks := rfl
@[simp] theorem setInst_chains (s : State) (k : BitVec 32) (x : Instance) : (setInst s k x).chains = s.chains := rfl
@[simp] theorem modInst_chains (s : State) (k : BitVec 32) (g : Instance → Instance) : (modInst s k g).chains = s.chains := rfl
@[simp] theorem setInst_xlates (s : State) (k : BitVec 32) (x : Instance) : (setInst s k x).xlates = s.xlates := rfl
@[simp] theorem modInst_xlates (s : State) (k : BitVec 32) (g : Instance → Instance) : (modInst s k g).xlates = s.xlates := rfl
@[simp] theorem setInst_rangeHeld (s : State) (k : BitVec 32) (x : Instance) : (setInst s k x).rangeHeld = s.rangeHeld := rfl
@[simp] theorem modInst_rangeHeld (s : State) (k : BitVec 32) (g : Instance → Instance) : (modInst s k g).rangeHeld = s.rangeHeld := rfl
@[simp] theorem setInst_invalidation (s : State) (k : BitVec 32) (x : Instance) : (setInst s k x).invalidation = s.invalidation := rfl
@[simp] theorem modInst_invalidation (s : State) (k : BitVec 32) (g : Instance → Instance) : (modInst s k g).invalidation = s.invalidation := rfl
@[simp] theorem setInst_spawns (s : State) (k : BitVec 32) (x : Instance) : (setInst s k x).spawns = s.spawns := rfl
@[simp] theorem modInst_spawns (s : State) (k : BitVec 32) (g : Instance → Instance) : (modInst s k g).spawns = s.spawns := rfl
@[simp] theorem setInst_freezes (s : State) (k : BitVec 32) (x : Instance) : (setInst s k x).freezes = s.freezes := rfl
@[simp] theorem modInst_freezes (s : State) (k : BitVec 32) (g : Instance → Instance) : (modInst s k g).freezes = s.freezes := rfl
@[simp] theorem setInst_collective (s : State) (k : BitVec 32) (x : Instance) : (setInst s k x).collective = s.collective := rfl
@[simp] theorem modInst_collective (s : State) (k : BitVec 32) (g : Instance → Instance) : (modInst s k g).collective = s.collective := rfl

/-! ### setBank, modBank -/

@[simp] theorem setBank_agenda (s : State) (k : Nat × Nat) (x : Bank) : (setBank s k x).agenda = s.agenda := rfl
@[simp] theorem modBank_agenda (s : State) (k : Nat × Nat) (g : Bank → Bank) : (modBank s k g).agenda = s.agenda := rfl
@[simp] theorem setBank_free (s : State) (k : Nat × Nat) (x : Bank) : (setBank s k x).free = s.free := rfl
@[simp] theorem modBank_free (s : State) (k : Nat × Nat) (g : Bank → Bank) : (modBank s k g).free = s.free := rfl
@[simp] theorem setBank_focus (s : State) (k : Nat × Nat) (x : Bank) : (setBank s k x).focus = s.focus := rfl
@[simp] theorem modBank_focus (s : State) (k : Nat × Nat) (g : Bank → Bank) : (modBank s k g).focus = s.focus := rfl
@[simp] theorem setBank_args (s : State) (k : Nat × Nat) (x : Bank) : (setBank s k x).args = s.args := rfl
@[simp] theorem modBank_args (s : State) (k : Nat × Nat) (g : Bank → Bank) : (modBank s k g).args = s.args := rfl
@[simp] theorem setBank_pkg (s : State) (k : Nat × Nat) (x : Bank) : (setBank s k x).pkg = s.pkg := rfl
@[simp] theorem modBank_pkg (s : State) (k : Nat × Nat) (g : Bank → Bank) : (modBank s k g).pkg = s.pkg := rfl
@[simp] theorem setBank_phys (s : State) (k : Nat × Nat) (x : Bank) : (setBank s k x).phys = s.phys := rfl
@[simp] theorem modBank_phys (s : State) (k : Nat × Nat) (g : Bank → Bank) : (modBank s k g).phys = s.phys := rfl
@[simp] theorem setBank_outbound (s : State) (k : Nat × Nat) (x : Bank) : (setBank s k x).outbound = s.outbound := rfl
@[simp] theorem modBank_outbound (s : State) (k : Nat × Nat) (g : Bank → Bank) : (modBank s k g).outbound = s.outbound := rfl
@[simp] theorem setBank_contexts (s : State) (k : Nat × Nat) (x : Bank) : (setBank s k x).contexts = s.contexts := rfl
@[simp] theorem modBank_contexts (s : State) (k : Nat × Nat) (g : Bank → Bank) : (modBank s k g).contexts = s.contexts := rfl
@[simp] theorem setBank_instances (s : State) (k : Nat × Nat) (x : Bank) : (setBank s k x).instances = s.instances := rfl
@[simp] theorem modBank_instances (s : State) (k : Nat × Nat) (g : Bank → Bank) : (modBank s k g).instances = s.instances := rfl
@[simp] theorem setBank_pages (s : State) (k : Nat × Nat) (x : Bank) : (setBank s k x).pages = s.pages := rfl
@[simp] theorem modBank_pages (s : State) (k : Nat × Nat) (g : Bank → Bank) : (modBank s k g).pages = s.pages := rfl
@[simp] theorem setBank_cells (s : State) (k : Nat × Nat) (x : Bank) : (setBank s k x).cells = s.cells := rfl
@[simp] theorem modBank_cells (s : State) (k : Nat × Nat) (g : Bank → Bank) : (modBank s k g).cells = s.cells := rfl
@[simp] theorem setBank_tasks (s : State) (k : Nat × Nat) (x : Bank) : (setBank s k x).tasks = s.tasks := rfl
@[simp] theorem modBank_tasks (s : State) (k : Nat × Nat) (g : Bank → Bank) : (modBank s k g).tasks = s.tasks := rfl
@[simp] theorem setBank_arcs (s : State) (k : Nat × Nat) (x : Bank) : (setBank s k x).arcs = s.arcs := rfl
@[simp] theorem modBank_arcs (s : State) (k : Nat × Nat) (g : Bank → Bank) : (modBank s k g).arcs = s.arcs := rfl
@[simp] theorem setBank_banks (s : State) (k : Nat × Nat) (x : Bank) : (setBank s k x).banks = tput s.banks k x := rfl
@[simp] theorem modBank_banks (s : State) (k : Nat × Nat) (g : Bank → Bank) : (modBank s k g).banks = tmod s.banks k g := rfl
@[simp] theorem setBank_chains (s : State) (k : Nat × Nat) (x : Bank) : (setBank s k x).chains = s.chains := rfl
@[simp] theorem modBank_chains (s : State) (k : Nat × Nat) (g : Bank → Bank) : (modBank s k g).chains = s.chains := rfl
@[simp] theorem setBank_xlates (s : State) (k : Nat × Nat) (x : Bank) : (setBank s k x).xlates = s.xlates := rfl
@[simp] theorem modBank_xlates (s : State) (k : Nat × Nat) (g : Bank → Bank) : (modBank s k g).xlates = s.xlates := rfl
@[simp] theorem setBank_rangeHeld (s : State) (k : Nat × Nat) (x : Bank) : (setBank s k x).rangeHeld = s.rangeHeld := rfl
@[simp] theorem modBank_rangeHeld (s : State) (k : Nat × Nat) (g : Bank → Bank) : (modBank s k g).rangeHeld = s.rangeHeld := rfl
@[simp] theorem setBank_invalidation (s : State) (k : Nat × Nat) (x : Bank) : (setBank s k x).invalidation = s.invalidation := rfl
@[simp] theorem modBank_invalidation (s : State) (k : Nat × Nat) (g : Bank → Bank) : (modBank s k g).invalidation = s.invalidation := rfl
@[simp] theorem setBank_spawns (s : State) (k : Nat × Nat) (x : Bank) : (setBank s k x).spawns = s.spawns := rfl
@[simp] theorem modBank_spawns (s : State) (k : Nat × Nat) (g : Bank → Bank) : (modBank s k g).spawns = s.spawns := rfl
@[simp] theorem setBank_freezes (s : State) (k : Nat × Nat) (x : Bank) : (setBank s k x).freezes = s.freezes := rfl
@[simp] theorem modBank_freezes (s : State) (k : Nat × Nat) (g : Bank → Bank) : (modBank s k g).freezes = s.freezes := rfl
@[simp] theorem setBank_collective (s : State) (k : Nat × Nat) (x : Bank) : (setBank s k x).collective = s.collective := rfl
@[simp] theorem modBank_collective (s : State) (k : Nat × Nat) (g : Bank → Bank) : (modBank s k g).collective = s.collective := rfl

/-! ### setChain, modChain -/

@[simp] theorem setChain_agenda (s : State) (k : Nat) (x : Chain) : (setChain s k x).agenda = s.agenda := rfl
@[simp] theorem modChain_agenda (s : State) (k : Nat) (g : Chain → Chain) : (modChain s k g).agenda = s.agenda := rfl
@[simp] theorem setChain_free (s : State) (k : Nat) (x : Chain) : (setChain s k x).free = s.free := rfl
@[simp] theorem modChain_free (s : State) (k : Nat) (g : Chain → Chain) : (modChain s k g).free = s.free := rfl
@[simp] theorem setChain_focus (s : State) (k : Nat) (x : Chain) : (setChain s k x).focus = s.focus := rfl
@[simp] theorem modChain_focus (s : State) (k : Nat) (g : Chain → Chain) : (modChain s k g).focus = s.focus := rfl
@[simp] theorem setChain_args (s : State) (k : Nat) (x : Chain) : (setChain s k x).args = s.args := rfl
@[simp] theorem modChain_args (s : State) (k : Nat) (g : Chain → Chain) : (modChain s k g).args = s.args := rfl
@[simp] theorem setChain_pkg (s : State) (k : Nat) (x : Chain) : (setChain s k x).pkg = s.pkg := rfl
@[simp] theorem modChain_pkg (s : State) (k : Nat) (g : Chain → Chain) : (modChain s k g).pkg = s.pkg := rfl
@[simp] theorem setChain_phys (s : State) (k : Nat) (x : Chain) : (setChain s k x).phys = s.phys := rfl
@[simp] theorem modChain_phys (s : State) (k : Nat) (g : Chain → Chain) : (modChain s k g).phys = s.phys := rfl
@[simp] theorem setChain_outbound (s : State) (k : Nat) (x : Chain) : (setChain s k x).outbound = s.outbound := rfl
@[simp] theorem modChain_outbound (s : State) (k : Nat) (g : Chain → Chain) : (modChain s k g).outbound = s.outbound := rfl
@[simp] theorem setChain_contexts (s : State) (k : Nat) (x : Chain) : (setChain s k x).contexts = s.contexts := rfl
@[simp] theorem modChain_contexts (s : State) (k : Nat) (g : Chain → Chain) : (modChain s k g).contexts = s.contexts := rfl
@[simp] theorem setChain_instances (s : State) (k : Nat) (x : Chain) : (setChain s k x).instances = s.instances := rfl
@[simp] theorem modChain_instances (s : State) (k : Nat) (g : Chain → Chain) : (modChain s k g).instances = s.instances := rfl
@[simp] theorem setChain_pages (s : State) (k : Nat) (x : Chain) : (setChain s k x).pages = s.pages := rfl
@[simp] theorem modChain_pages (s : State) (k : Nat) (g : Chain → Chain) : (modChain s k g).pages = s.pages := rfl
@[simp] theorem setChain_cells (s : State) (k : Nat) (x : Chain) : (setChain s k x).cells = s.cells := rfl
@[simp] theorem modChain_cells (s : State) (k : Nat) (g : Chain → Chain) : (modChain s k g).cells = s.cells := rfl
@[simp] theorem setChain_tasks (s : State) (k : Nat) (x : Chain) : (setChain s k x).tasks = s.tasks := rfl
@[simp] theorem modChain_tasks (s : State) (k : Nat) (g : Chain → Chain) : (modChain s k g).tasks = s.tasks := rfl
@[simp] theorem setChain_arcs (s : State) (k : Nat) (x : Chain) : (setChain s k x).arcs = s.arcs := rfl
@[simp] theorem modChain_arcs (s : State) (k : Nat) (g : Chain → Chain) : (modChain s k g).arcs = s.arcs := rfl
@[simp] theorem setChain_banks (s : State) (k : Nat) (x : Chain) : (setChain s k x).banks = s.banks := rfl
@[simp] theorem modChain_banks (s : State) (k : Nat) (g : Chain → Chain) : (modChain s k g).banks = s.banks := rfl
@[simp] theorem setChain_chains (s : State) (k : Nat) (x : Chain) : (setChain s k x).chains = tput s.chains k x := rfl
@[simp] theorem modChain_chains (s : State) (k : Nat) (g : Chain → Chain) : (modChain s k g).chains = tmod s.chains k g := rfl
@[simp] theorem setChain_xlates (s : State) (k : Nat) (x : Chain) : (setChain s k x).xlates = s.xlates := rfl
@[simp] theorem modChain_xlates (s : State) (k : Nat) (g : Chain → Chain) : (modChain s k g).xlates = s.xlates := rfl
@[simp] theorem setChain_rangeHeld (s : State) (k : Nat) (x : Chain) : (setChain s k x).rangeHeld = s.rangeHeld := rfl
@[simp] theorem modChain_rangeHeld (s : State) (k : Nat) (g : Chain → Chain) : (modChain s k g).rangeHeld = s.rangeHeld := rfl
@[simp] theorem setChain_invalidation (s : State) (k : Nat) (x : Chain) : (setChain s k x).invalidation = s.invalidation := rfl
@[simp] theorem modChain_invalidation (s : State) (k : Nat) (g : Chain → Chain) : (modChain s k g).invalidation = s.invalidation := rfl
@[simp] theorem setChain_spawns (s : State) (k : Nat) (x : Chain) : (setChain s k x).spawns = s.spawns := rfl
@[simp] theorem modChain_spawns (s : State) (k : Nat) (g : Chain → Chain) : (modChain s k g).spawns = s.spawns := rfl
@[simp] theorem setChain_freezes (s : State) (k : Nat) (x : Chain) : (setChain s k x).freezes = s.freezes := rfl
@[simp] theorem modChain_freezes (s : State) (k : Nat) (g : Chain → Chain) : (modChain s k g).freezes = s.freezes := rfl
@[simp] theorem setChain_collective (s : State) (k : Nat) (x : Chain) : (setChain s k x).collective = s.collective := rfl
@[simp] theorem modChain_collective (s : State) (k : Nat) (g : Chain → Chain) : (modChain s k g).collective = s.collective := rfl

/-! ### modFiring, focusOn, eventState, withWord -/

@[simp] theorem modFiring_agenda (s : State) (k : Nat × Nat) (g : Firing → Firing) : (modFiring s k g).agenda = s.agenda := rfl
@[simp] theorem modFiring_free (s : State) (k : Nat × Nat) (g : Firing → Firing) : (modFiring s k g).free = s.free := rfl
@[simp] theorem modFiring_focus (s : State) (k : Nat × Nat) (g : Firing → Firing) : (modFiring s k g).focus = s.focus := rfl
@[simp] theorem modFiring_args (s : State) (k : Nat × Nat) (g : Firing → Firing) : (modFiring s k g).args = s.args := rfl
@[simp] theorem modFiring_pkg (s : State) (k : Nat × Nat) (g : Firing → Firing) : (modFiring s k g).pkg = s.pkg := rfl
@[simp] theorem modFiring_phys (s : State) (k : Nat × Nat) (g : Firing → Firing) : (modFiring s k g).phys = s.phys := rfl
@[simp] theorem modFiring_outbound (s : State) (k : Nat × Nat) (g : Firing → Firing) : (modFiring s k g).outbound = s.outbound := rfl
@[simp] theorem modFiring_contexts (s : State) (k : Nat × Nat) (g : Firing → Firing) : (modFiring s k g).contexts = s.contexts := rfl
@[simp] theorem modFiring_instances (s : State) (k : Nat × Nat) (g : Firing → Firing) : (modFiring s k g).instances = s.instances := rfl
@[simp] theorem modFiring_pages (s : State) (k : Nat × Nat) (g : Firing → Firing) : (modFiring s k g).pages = s.pages := rfl
@[simp] theorem modFiring_cells (s : State) (k : Nat × Nat) (g : Firing → Firing) : (modFiring s k g).cells = s.cells := rfl
@[simp] theorem modFiring_tasks (s : State) (k : Nat × Nat) (g : Firing → Firing) :
    (modFiring s k g).tasks = tmod s.tasks k fun t => { t with firing := t.firing.map g } := rfl
@[simp] theorem modFiring_arcs (s : State) (k : Nat × Nat) (g : Firing → Firing) : (modFiring s k g).arcs = s.arcs := rfl
@[simp] theorem modFiring_banks (s : State) (k : Nat × Nat) (g : Firing → Firing) : (modFiring s k g).banks = s.banks := rfl
@[simp] theorem modFiring_chains (s : State) (k : Nat × Nat) (g : Firing → Firing) : (modFiring s k g).chains = s.chains := rfl
@[simp] theorem modFiring_xlates (s : State) (k : Nat × Nat) (g : Firing → Firing) : (modFiring s k g).xlates = s.xlates := rfl
@[simp] theorem modFiring_rangeHeld (s : State) (k : Nat × Nat) (g : Firing → Firing) : (modFiring s k g).rangeHeld = s.rangeHeld := rfl
@[simp] theorem modFiring_invalidation (s : State) (k : Nat × Nat) (g : Firing → Firing) : (modFiring s k g).invalidation = s.invalidation := rfl
@[simp] theorem modFiring_spawns (s : State) (k : Nat × Nat) (g : Firing → Firing) : (modFiring s k g).spawns = s.spawns := rfl
@[simp] theorem modFiring_freezes (s : State) (k : Nat × Nat) (g : Firing → Firing) : (modFiring s k g).freezes = s.freezes := rfl
@[simp] theorem modFiring_collective (s : State) (k : Nat × Nat) (g : Firing → Firing) : (modFiring s k g).collective = s.collective := rfl
@[simp] theorem focusOn_agenda (s : State) (c t i : Nat) (h : GuardHit) : (focusOn s c t i h).agenda = s.agenda := rfl
@[simp] theorem focusOn_free (s : State) (c t i : Nat) (h : GuardHit) : (focusOn s c t i h).free = s.free := rfl
@[simp] theorem focusOn_focus (s : State) (c t i : Nat) (h : GuardHit) : (focusOn s c t i h).focus = some ⟨c, t, i, h⟩ := rfl
@[simp] theorem focusOn_args (s : State) (c t i : Nat) (h : GuardHit) : (focusOn s c t i h).args = s.args := rfl
@[simp] theorem focusOn_pkg (s : State) (c t i : Nat) (h : GuardHit) : (focusOn s c t i h).pkg = s.pkg := rfl
@[simp] theorem focusOn_phys (s : State) (c t i : Nat) (h : GuardHit) : (focusOn s c t i h).phys = s.phys := rfl
@[simp] theorem focusOn_outbound (s : State) (c t i : Nat) (h : GuardHit) : (focusOn s c t i h).outbound = s.outbound := rfl
@[simp] theorem focusOn_contexts (s : State) (c t i : Nat) (h : GuardHit) : (focusOn s c t i h).contexts = s.contexts := rfl
@[simp] theorem focusOn_instances (s : State) (c t i : Nat) (h : GuardHit) : (focusOn s c t i h).instances = s.instances := rfl
@[simp] theorem focusOn_pages (s : State) (c t i : Nat) (h : GuardHit) : (focusOn s c t i h).pages = s.pages := rfl
@[simp] theorem focusOn_cells (s : State) (c t i : Nat) (h : GuardHit) : (focusOn s c t i h).cells = s.cells := rfl
@[simp] theorem focusOn_tasks (s : State) (c t i : Nat) (h : GuardHit) : (focusOn s c t i h).tasks = s.tasks := rfl
@[simp] theorem focusOn_arcs (s : State) (c t i : Nat) (h : GuardHit) : (focusOn s c t i h).arcs = s.arcs := rfl
@[simp] theorem focusOn_banks (s : State) (c t i : Nat) (h : GuardHit) : (focusOn s c t i h).banks = s.banks := rfl
@[simp] theorem focusOn_chains (s : State) (c t i : Nat) (h : GuardHit) : (focusOn s c t i h).chains = s.chains := rfl
@[simp] theorem focusOn_xlates (s : State) (c t i : Nat) (h : GuardHit) : (focusOn s c t i h).xlates = s.xlates := rfl
@[simp] theorem focusOn_rangeHeld (s : State) (c t i : Nat) (h : GuardHit) : (focusOn s c t i h).rangeHeld = s.rangeHeld := rfl
@[simp] theorem focusOn_invalidation (s : State) (c t i : Nat) (h : GuardHit) : (focusOn s c t i h).invalidation = s.invalidation := rfl
@[simp] theorem focusOn_spawns (s : State) (c t i : Nat) (h : GuardHit) : (focusOn s c t i h).spawns = s.spawns := rfl
@[simp] theorem focusOn_freezes (s : State) (c t i : Nat) (h : GuardHit) : (focusOn s c t i h).freezes = s.freezes := rfl
@[simp] theorem focusOn_collective (s : State) (c t i : Nat) (h : GuardHit) : (focusOn s c t i h).collective = s.collective := rfl
@[simp] theorem eventState_agenda (s : State) (a : Args) : (eventState s a).agenda = s.agenda := rfl
@[simp] theorem eventState_free (s : State) (a : Args) : (eventState s a).free = s.free := rfl
@[simp] theorem eventState_focus (s : State) (a : Args) : (eventState s a).focus = none := rfl
@[simp] theorem eventState_args (s : State) (a : Args) : (eventState s a).args = a := rfl
@[simp] theorem eventState_pkg (s : State) (a : Args) : (eventState s a).pkg = s.pkg := rfl
@[simp] theorem eventState_phys (s : State) (a : Args) : (eventState s a).phys = s.phys := rfl
@[simp] theorem eventState_outbound (s : State) (a : Args) : (eventState s a).outbound = s.outbound := rfl
@[simp] theorem eventState_contexts (s : State) (a : Args) : (eventState s a).contexts = s.contexts := rfl
@[simp] theorem eventState_instances (s : State) (a : Args) : (eventState s a).instances = s.instances := rfl
@[simp] theorem eventState_pages (s : State) (a : Args) : (eventState s a).pages = s.pages := rfl
@[simp] theorem eventState_cells (s : State) (a : Args) : (eventState s a).cells = s.cells := rfl
@[simp] theorem eventState_tasks (s : State) (a : Args) : (eventState s a).tasks = s.tasks := rfl
@[simp] theorem eventState_arcs (s : State) (a : Args) : (eventState s a).arcs = s.arcs := rfl
@[simp] theorem eventState_banks (s : State) (a : Args) : (eventState s a).banks = s.banks := rfl
@[simp] theorem eventState_chains (s : State) (a : Args) : (eventState s a).chains = s.chains := rfl
@[simp] theorem eventState_xlates (s : State) (a : Args) : (eventState s a).xlates = s.xlates := rfl
@[simp] theorem eventState_rangeHeld (s : State) (a : Args) : (eventState s a).rangeHeld = s.rangeHeld := rfl
@[simp] theorem eventState_invalidation (s : State) (a : Args) : (eventState s a).invalidation = s.invalidation := rfl
@[simp] theorem eventState_spawns (s : State) (a : Args) : (eventState s a).spawns = s.spawns := rfl
@[simp] theorem eventState_freezes (s : State) (a : Args) : (eventState s a).freezes = s.freezes := rfl
@[simp] theorem eventState_collective (s : State) (a : Args) : (eventState s a).collective = s.collective := rfl

end Sys2Proof.Machine
end

