-- ==== Sys2Proof/Laws/Table.lean ====
section
/-! SUPPORT. Looking up after a change of a table. -/

namespace Sys2Proof.Machine

variable {κ α : Type} [DecidableEq κ]

@[simp] theorem tget_nil (q : κ) : tget ([] : Table κ α) q = none := rfl

theorem tget_cons (k : κ) (v : α) (r : Table κ α) (q : κ) : tget ((k, v) :: r) q = if k = q then some v else tget r q := rfl

/-- The key written reads as the value written. -/
@[simp] theorem tget_tput_self (t : Table κ α) (q : κ) (w : α) : tget (tput t q w) q = some w := by
  induction t with
  | nil => simp [tput, tget]
  | cons kv r ih =>
    obtain ⟨k, v⟩ := kv
    simp only [tput]
    split <;> simp_all [tget]

/-- Every other key reads as before. -/
theorem tget_tput_ne (t : Table κ α) {q p : κ} (w : α) (h : p ≠ q) : tget (tput t q w) p = tget t p := by
  induction t with
  | nil => simp [tput, tget, h.symm]
  | cons kv r ih =>
    obtain ⟨k, v⟩ := kv
    simp only [tput]
    split
    · next hk => subst hk; simp [tget, h.symm]
    · simp only [tget, ih]

theorem tget_tput (t : Table κ α) (q p : κ) (w : α) : tget (tput t q w) p = if p = q then some w else tget t p := by
  split
  · next h => subst h; simp
  · next h => exact tget_tput_ne t w h

theorem tget_tmod (t : Table κ α) (q p : κ) (g : α → α) :
    tget (tmod t q g) p = if p = q then (tget t p).map g else tget t p := by
  unfold tmod
  cases h : tget t q with
  | none => split <;> simp_all
  | some v => rw [tget_tput]; split <;> simp_all

@[simp] theorem tget_tmod_self (t : Table κ α) (q : κ) (g : α → α) : tget (tmod t q g) q = (tget t q).map g := by
  simp [tget_tmod]

theorem tget_tmod_ne (t : Table κ α) {q p : κ} (g : α → α) (h : p ≠ q) : tget (tmod t q g) p = tget t p := by
  simp [tget_tmod, h]

/-- A change of a value that is not there changes nothing. -/
theorem tmod_absent (t : Table κ α) (q : κ) (g : α → α) (h : tget t q = none) : tmod t q g = t := by
  simp [tmod, h]

/-- Two changes of one value are one. -/
theorem tmod_tmod (t : Table κ α) (q : κ) (g h : α → α) : tmod (tmod t q g) q h = tmod t q fun v => h (g v) := by
  cases hq : tget t q with
  | none => simp [tmod, hq]
  | some v =>
    have : ∀ (t : Table κ α) (a b : α), tput (tput t q a) q b = tput t q b := by
      intro t a b
      induction t with
      | nil => simp [tput]
      | cons kv r ih => obtain ⟨k, v⟩ := kv; simp only [tput]; split <;> simp_all [tput]
    simp [tmod, hq, this]

/-- Every key's value changed. -/
theorem tget_tmap (t : Table κ α) (g : κ → α → α) (q : κ) : tget (tmap t g) q = (tget t q).map (g q) := by
  induction t with
  | nil => rfl
  | cons kv r ih =>
    obtain ⟨k, v⟩ := kv
    simp only [tmap, tget, ih]
    split
    · next h => subst h; rfl
    · rfl

@[simp] theorem tget_tdel_self (t : Table κ α) (q : κ) : tget (tdel t q) q = none := by
  induction t with
  | nil => rfl
  | cons kv r ih => obtain ⟨k, v⟩ := kv; simp only [tdel]; split <;> simp_all [tget]

theorem tget_tdel_ne (t : Table κ α) {q p : κ} (h : p ≠ q) : tget (tdel t q) p = tget t p := by
  induction t with
  | nil => rfl
  | cons kv r ih =>
    obtain ⟨k, v⟩ := kv
    simp only [tdel]
    split
    · next hk => subst hk; simp [tget, h.symm, ih]
    · simp [tget, ih]

/-- A property of every value of a table is kept by writing a value that has it. -/
theorem all_tput (p : α → Bool) (t : Table κ α) (q : κ) (w : α) (h : t.all (fun x => p x.2)) (hw : p w) :
    (tput t q w).all (fun x => p x.2) := by
  induction t with
  | nil => simpa [tput] using hw
  | cons kv r ih =>
    obtain ⟨k, v⟩ := kv
    simp only [List.all_cons, Bool.and_eq_true] at h
    simp only [tput]
    split
    · simp only [List.all_cons, Bool.and_eq_true]; exact ⟨hw, h.2⟩
    · simp only [List.all_cons, Bool.and_eq_true]; exact ⟨h.1, ih h.2⟩

theorem of_all_tget (p : α → Bool) (t : Table κ α) (q : κ) {v : α} (h : t.all (fun x => p x.2)) (hv : tget t q = some v) : p v := by
  induction t with
  | nil => simp at hv
  | cons kv r ih =>
    obtain ⟨k, x⟩ := kv
    simp only [List.all_cons, Bool.and_eq_true] at h
    simp only [tget] at hv
    split at hv
    · cases hv; exact h.1
    · exact ih h.2 hv

/-- A property of every value is kept by a change that keeps it. -/
theorem all_tmod (p : α → Bool) (t : Table κ α) (q : κ) (g : α → α) (h : t.all (fun x => p x.2))
    (hg : ∀ v, p v = true → p (g v) = true) : (tmod t q g).all (fun x => p x.2) := by
  unfold tmod
  split
  · exact h
  · next v hv => exact all_tput p t q _ h (hg v (of_all_tget p t q h hv))

omit [DecidableEq κ] in
theorem all_tmap (p : α → Bool) (t : Table κ α) (g : κ → α → α) (h : t.all (fun x => p x.2))
    (hg : ∀ k v, p v = true → p (g k v) = true) : (tmap t g).all (fun x => p x.2) := by
  induction t with
  | nil => rfl
  | cons kv r ih =>
    obtain ⟨k, x⟩ := kv
    simp only [List.all_cons, Bool.and_eq_true] at h
    simp only [tmap, List.all_cons, Bool.and_eq_true]
    exact ⟨hg k x h.1, ih h.2⟩

theorem all_tdel (p : α → Bool) (t : Table κ α) (q : κ) (h : t.all (fun x => p x.2)) : (tdel t q).all (fun x => p x.2) := by
  induction t with
  | nil => rfl
  | cons kv r ih =>
    obtain ⟨k, x⟩ := kv
    simp only [List.all_cons, Bool.and_eq_true] at h
    simp only [tdel]
    split
    · exact ih h.2
    · simp only [List.all_cons, Bool.and_eq_true]; exact ⟨h.1, ih h.2⟩

end Sys2Proof.Machine
end

