-- ==== Sys2Proof/Laws/Gate.lean ====
section
/-! SUPPORT. Everything that the gate of an instruction can do, said once. -/

namespace Sys2Proof.Machine

/-- What the gate has found once an instruction is to act. -/
theorem runIns_awaits {code : Nat} {rule : NullRule} {f : Fields} {s : State} {u : Cur} {r : OpRow}
    (h : Awaits code f s u) (hr : rowOf code = some r) (body : State → Cur → Opnds → Act) :
    runIns code rule f s body =
      if slotsNull rule (readSlot u 0) (readSlot u 1) (readSlot u 3) then retireIns s u (nullAll f) noFlags
      else
        match readPred f (readSlot u 2) with
        | .null => retireIns s u (nullAll f) noFlags
        | .bad tag => .next (trapped s u (fmtTrap 2 tag))
        | .always => runBody s u f false ⟨slotToken (readSlot u 0), slotToken (readSlot u 1), slotToken (readSlot u 3), none⟩ body
        | .is p =>
          if p.poison then .next (controlUse s u)
          else if !prExecutes f p then retireIns s u (nullAll f) noFlags
          else runBody s u f p.scalar ⟨slotToken (readSlot u 0), slotToken (readSlot u 1), slotToken (readSlot u 3), some p⟩ body := by
  unfold runIns
  rw [h.focus, hr]
  dsimp only
  have hg : mayGoOn s u = true := by simp [mayGoOn, h.awake]
  rw [hg, h.once, h.filled, h.inOrder r hr, h.single, h.named r hr]
  rfl

/-- An instruction that may execute runs its body; what the body answers is concluded. -/
theorem runIns_executes {code : Nat} {rule : NullRule} {f : Fields} {s : State} {u : Cur} {scalar : Bool} {o : Opnds} {r : OpRow}
    (h : Executes code rule f s u scalar o) (hr : rowOf code = some r) (body : State → Cur → Opnds → Act) :
    runIns code rule f s body = conclude s u f scalar (body s u o) := by
  have hb : ∀ p, runBody s u f p o body = conclude s u f p (body s u o) := by
    intro p
    rcases h.calm with hc | hc | hc <;> simp [runBody, hc]
  have ho : o = ⟨slotToken (readSlot u 0), slotToken (readSlot u 1), slotToken (readSlot u 3), o.p⟩ := by
    cases o; have := h.a; have := h.b; have := h.c; simp_all
  rw [runIns_awaits h.toAwaits hr, h.live]
  rcases h.chosen with ⟨hp, rfl, hop⟩ | ⟨p, hp, hpo, hx, rfl, hop⟩ <;> rw [hop] at ho <;> rw [hp, ← hb, ho]
  · rfl
  · simp [hpo, hx]

/-- A nullified instruction delivers nulls and does nothing else. -/
theorem runIns_nullified {code : Nat} {rule : NullRule} {f : Fields} {s : State} {u : Cur} {r : OpRow}
    (h : Awaits code f s u) (hn : Nullified rule f u) (hr : rowOf code = some r) (body : State → Cur → Opnds → Act) :
    runIns code rule f s body = .next (nulled s u f) := by
  rw [runIns_awaits h hr]
  split
  · rfl
  · next hl =>
    rcases hn with hn | hn | ⟨p, hn, hpo, hx⟩
    · exact absurd hn hl
    · rw [hn]; rfl
    · rw [hn]; simp [hpo, hx]; rfl

/-- A poisoned predicate is a control use. -/
theorem runIns_poisoned {code : Nat} {rule : NullRule} {f : Fields} {s : State} {u : Cur} {r : OpRow} {p : PredToken}
    (h : Awaits code f s u) (hl : slotsNull rule (readSlot u 0) (readSlot u 1) (readSlot u 3) = false)
    (hp : readPred f (readSlot u 2) = .is p) (hpo : p.poison = true) (hr : rowOf code = some r)
    (body : State → Cur → Opnds → Act) :
    runIns code rule f s body = .next (controlUse s u) := by
  rw [runIns_awaits h hr, hl, hp]
  simp [hpo]

/-- Everything that the gate can answer: no firing in focus; nothing yet; a trap; nulls; a control use; a frame found
faulty; or what the body answers, concluded, after the note of one transient mismatch or without. -/
theorem runIns_cases (code : Nat) (rule : NullRule) (f : Fields) (s : State) (body : State → Cur → Opnds → Act) :
    runIns code rule f s body = .fault .noFiring ∨ runIns code rule f s body = .next s ∨
    ∃ u, cur s = some u ∧
      ((∃ info, runIns code rule f s body = .next (trapped s u info)) ∨
       runIns code rule f s body = .next (nulled s u f) ∨
       runIns code rule f s body = .next (controlUse s u) ∨
       runIns code rule f s body = .next (frameFaulty s u.c.page ⟨trapOf .guardFail, u.cell, u.task, u.ins⟩) ∨
       ∃ scalar o, runIns code rule f s body = conclude s u f scalar (body s u o) ∨
         runIns code rule f s body = conclude (guardTransient s u) u f scalar (body (guardTransient s u) u o)) := by
  have hb : ∀ u scalar o,
      runBody s u f scalar o body = .next (frameFaulty s u.c.page ⟨trapOf .guardFail, u.cell, u.task, u.ins⟩) ∨
      runBody s u f scalar o body = conclude s u f scalar (body s u o) ∨
      runBody s u f scalar o body = conclude (guardTransient s u) u f scalar (body (guardTransient s u) u o) := by
    intro u scalar o
    unfold runBody
    split
    · exact .inl rfl
    · split
      · exact .inr (.inr rfl)
      · exact .inr (.inl rfl)
  cases hc : cur s with
  | none => left; simp [runIns, hc]
  | some u =>
    cases hr : rowOf code with
    | none => left; simp [runIns, hc, hr]
    | some r =>
      simp only [runIns, hc, hr]
      split
      · exact .inr (.inl rfl)
      · split
        · exact .inr (.inl rfl)
        · split
          · exact .inr (.inl rfl)
          · refine .inr (.inr ⟨u, rfl, ?_⟩)
            split
            · exact .inl ⟨illop, rfl⟩
            · split
              · exact .inr (.inl rfl)
              · split
                · exact .inr (.inl rfl)
                · next tag _ => exact .inl ⟨fmtTrap 2 tag, rfl⟩
                · rcases hb u false ⟨slotToken (readSlot u 0), slotToken (readSlot u 1), slotToken (readSlot u 3), none⟩ with h | h | h
                  · exact .inr (.inr (.inr (.inl h)))
                  · exact .inr (.inr (.inr (.inr ⟨_, _, .inl h⟩)))
                  · exact .inr (.inr (.inr (.inr ⟨_, _, .inr h⟩)))
                · next p _ =>
                  split
                  · exact .inr (.inr (.inl rfl))
                  · split
                    · exact .inr (.inl rfl)
                    · rcases hb u p.scalar ⟨slotToken (readSlot u 0), slotToken (readSlot u 1), slotToken (readSlot u 3), some p⟩ with h | h | h
                      · exact .inr (.inr (.inr (.inl h)))
                      · exact .inr (.inr (.inr (.inr ⟨_, _, .inl h⟩)))
                      · exact .inr (.inr (.inr (.inr ⟨_, _, .inr h⟩)))

/-! ### Concluding -/

@[simp] theorem conclude_trap (s : State) (u : Cur) (f : Fields) (p : Bool) (i : TrapInfo) :
    conclude s u f p (.trap i) = .next (trapped s u i) := rfl

@[simp] theorem conclude_wait (s : State) (u : Cur) (f : Fields) (p : Bool) : conclude s u f p .wait = .next s := rfl

@[simp] theorem conclude_pause (s t : State) (u : Cur) (f : Fields) (p : Bool) : conclude s u f p (.pause t) = .next t := rfl

@[simp] theorem conclude_control (s : State) (u : Cur) (f : Fields) (p : Bool) :
    conclude s u f p .control = .next (controlUse s u) := rfl

@[simp] theorem conclude_nullified (s : State) (u : Cur) (f : Fields) (p : Bool) :
    conclude s u f p .nullified = .next (nulled s u f) := rfl

@[simp] theorem conclude_done (s t : State) (u : Cur) (f : Fields) (p : Bool) (r : Res) (fl : FlagSet) :
    conclude s u f p (.done t r fl) = .next (executed t u f p r fl) := rfl

@[simp] theorem conclude_oneData (s t : State) (u : Cur) (f : Fields) (p : Bool) (x : Token) :
    conclude s u f p (oneData t x) = .next (executed t u f p (.one (.data (normal x))) noFlags) := rfl

/-! ### The firing's task -/

/-- What the focus names is what the tables hold. -/
theorem cur_spec {s : State} {u : Cur} (h : cur s = some u) :
    s.focus.map (fun f => (f.cell, f.task, f.ins)) = some (u.cell, u.task, u.ins) ∧ tget s.cells u.cell = some u.c ∧
      tget s.tasks u.key = some u.t ∧ u.t.firing = some u.fr := by
  unfold cur at h
  split at h
  · simp at h
  · next f hf =>
    split at h
    · next c t hc ht =>
      split at h
      · next fr hfr => cases h; exact ⟨by simp [hf], hc, ht, hfr⟩
      · simp at h
    · simp at h

/-- An executed instruction changes nothing but its firing. -/
@[simp] theorem executed_phys (s : State) (u : Cur) (f : Fields) (p : Bool) (r : Res) (fl : FlagSet) : (executed s u f p r fl).phys = s.phys := rfl
@[simp] theorem executed_pages (s : State) (u : Cur) (f : Fields) (p : Bool) (r : Res) (fl : FlagSet) : (executed s u f p r fl).pages = s.pages := rfl
@[simp] theorem executed_cells (s : State) (u : Cur) (f : Fields) (p : Bool) (r : Res) (fl : FlagSet) : (executed s u f p r fl).cells = s.cells := rfl
@[simp] theorem executed_arcs (s : State) (u : Cur) (f : Fields) (p : Bool) (r : Res) (fl : FlagSet) : (executed s u f p r fl).arcs = s.arcs := rfl
@[simp] theorem executed_instances (s : State) (u : Cur) (f : Fields) (p : Bool) (r : Res) (fl : FlagSet) : (executed s u f p r fl).instances = s.instances := rfl
@[simp] theorem executed_contexts (s : State) (u : Cur) (f : Fields) (p : Bool) (r : Res) (fl : FlagSet) : (executed s u f p r fl).contexts = s.contexts := rfl
@[simp] theorem executed_pkg (s : State) (u : Cur) (f : Fields) (p : Bool) (r : Res) (fl : FlagSet) : (executed s u f p r fl).pkg = s.pkg := rfl

theorem executed_task (s : State) (u : Cur) (f : Fields) (p : Bool) (r : Res) (fl : FlagSet) (t : Task) (fr : Firing)
    (ht : tget s.tasks u.key = some t) (hf : t.firing = some fr) :
    tget (executed s u f p r fl).tasks u.key = some { t with firing := some (markDone fr u.ins (resultTo f p (spoilRes u r)) fl) } := by
  simp [executed, ht, hf]

theorem executed_otherTask (s : State) (u : Cur) (f : Fields) (p : Bool) (r : Res) (fl : FlagSet) (k : Nat × Nat) (hk : k ≠ u.key) :
    tget (executed s u f p r fl).tasks k = tget s.tasks k := by
  simp [executed, tget_tmod_ne _ _ hk]

end Sys2Proof.Machine
end

