-- ==== Sys2Proof/Laws/Memory.lean ====
section
/-! SUPPORT. Memory: reading after a write, and that every memory operation keeps the canonical form. -/

namespace Sys2Proof.Machine

/-! ### Lists of cells -/

theorem cellsAbove_weaken {lo : Nat} {l : List Host.Cell} (h : cellsAbove (some lo) l) : cellsAbove none l := by
  cases l with
  | nil => rfl
  | cons kv r => obtain ⟨k, v⟩ := kv; simp only [cellsAbove, Bool.and_eq_true] at h ⊢; exact ⟨h.1.2, h.2⟩

theorem cellsAbove_none_cons (k : Nat) (v : Byte) (r : List Host.Cell) :
    cellsAbove none ((k, v) :: r) = true ↔ v ≠ 0 ∧ cellsAbove (some k) r = true := by
  simp [cellsAbove]

theorem cellsAbove_some_cons (q k : Nat) (v : Byte) (r : List Host.Cell) :
    cellsAbove (some q) ((k, v) :: r) = true ↔ q < k ∧ v ≠ 0 ∧ cellsAbove (some k) r = true := by
  simp [cellsAbove, and_assoc]

/-- Writing a byte keeps the list rising and free of zero bytes. -/
theorem cellsAbove_cellSet (l : List Host.Cell) (lo : Option Nat) (a : Nat) (b : Byte) (h : cellsAbove lo l = true)
    (ha : ∀ k, lo = some k → k < a) : cellsAbove lo (cellSet l a b) = true := by
  have cons : ∀ (lo : Option Nat) (k : Nat) (v : Byte) (r : List Host.Cell), (∀ q, lo = some q → q < k) → v ≠ 0 →
      cellsAbove (some k) r = true → cellsAbove lo ((k, v) :: r) = true := by
    intro lo k v r hq hv hr
    cases lo with
    | none => exact (cellsAbove_none_cons _ _ _).2 ⟨hv, hr⟩
    | some q => exact (cellsAbove_some_cons _ _ _ _).2 ⟨hq q rfl, hv, hr⟩
  induction l generalizing lo with
  | nil =>
    simp only [cellSet]
    split
    · cases lo <;> rfl
    · next hb => exact cons _ _ _ _ ha hb (by rfl)
  | cons kv r ih =>
    obtain ⟨k, v⟩ := kv
    have hv : v ≠ 0 ∧ cellsAbove (some k) r = true ∧ ∀ q, lo = some q → q < k := by
      cases lo with
      | none => have := (cellsAbove_none_cons _ _ _).1 h; exact ⟨this.1, this.2, by simp⟩
      | some q => have := (cellsAbove_some_cons _ _ _ _).1 h; exact ⟨this.2.1, this.2.2, by rintro _ ⟨⟩; exact this.1⟩
    simp only [cellSet]
    split
    · next hlt =>
      split
      · exact h
      · next hb => exact cons _ _ _ _ ha hb (cons _ _ _ _ (by rintro _ ⟨⟩; exact hlt) hv.1 hv.2.1)
    · split
      · next he =>
        subst he
        split
        · cases r with
          | nil => cases lo <;> rfl
          | cons kv' r' =>
            obtain ⟨k', v'⟩ := kv'
            have := (cellsAbove_some_cons _ _ _ _).1 hv.2.1
            exact cons _ _ _ _ (fun q hq => Nat.lt_trans (ha q hq) this.1) this.2.1 this.2.2
        · next hb => exact cons _ _ _ _ ha hb hv.2.1
      · next hle hne => exact cons _ _ _ _ hv.2.2 hv.1 (ih (some k) hv.2.1 (by rintro _ ⟨⟩; omega))

theorem cellGet_below (l : List Host.Cell) (lo a : Nat) (h : cellsAbove (some lo) l) (ha : a ≤ lo) : cellGet l a = 0 := by
  induction l generalizing lo with
  | nil => rfl
  | cons kv r ih =>
    obtain ⟨k, v⟩ := kv
    simp only [cellsAbove, Bool.and_eq_true, decide_eq_true_eq] at h
    simp only [cellGet]
    rw [if_neg (by omega)]
    exact ih k h.2 (by omega)

/-- The byte written reads back, and every other byte reads as before. -/
theorem cellGet_cellSet (l : List Host.Cell) (lo : Option Nat) (a b : Nat) (v : Byte) (h : cellsAbove lo l) :
    cellGet (cellSet l a v) b = if b = a then v else cellGet l b := by
  induction l generalizing lo with
  | nil =>
    simp only [cellSet]
    split
    · next hv => subst hv; split <;> rfl
    · simp only [cellGet, eq_comm]
  | cons kv r ih =>
    obtain ⟨k, w⟩ := kv
    have hr : cellsAbove (some k) r = true := by cases lo <;> simp_all [cellsAbove]
    simp only [cellSet]
    split
    · next hlt =>
      split
      · next hv =>
        subst hv
        split
        · next hb => subst hb; simp only [cellGet]; rw [if_neg (by omega)]; exact cellGet_below r k b hr (by omega)
        · rfl
      · simp only [cellGet, eq_comm]
    · split
      · next hk =>
        subst hk
        split
        · next hv =>
          subst hv
          split
          · next hb => subst hb; exact cellGet_below r b b hr (Nat.le_refl _)
          · next hb => simp only [cellGet]; rw [if_neg (by omega)]
        · simp only [cellGet]
          split
          · next hb => subst hb; simp
          · next hb => rw [if_neg (by omega)]
      · next hlt hne =>
        simp only [cellGet, ih (some k) hr]
        split
        · next hk => subst hk; rw [if_neg (by omega)]
        · rfl

/-! ### Lists of numbers -/

theorem natsAbove_weaken {lo : Nat} {l : List Nat} (h : natsAbove (some lo) l) : natsAbove none l := by
  cases l with
  | nil => rfl
  | cons k r => simp only [natsAbove, Bool.and_eq_true] at h ⊢; exact h.2

theorem natsAbove_natInsert (l : List Nat) (lo : Option Nat) (a : Nat) (h : natsAbove lo l) (ha : ∀ k, lo = some k → k < a) :
    natsAbove lo (natInsert l a) := by
  induction l generalizing lo with
  | nil => cases lo with
    | none => rfl
    | some k => simp [natInsert, natsAbove, ha k rfl]
  | cons k r ih =>
    have hr : natsAbove (some k) r := by cases lo <;> simp_all [natsAbove]
    have hk : ∀ q, lo = some q → q < k := by intro q hq; subst hq; simp_all [natsAbove]
    simp only [natInsert]
    split
    · next hlt => cases lo with
      | none => simp [natsAbove, hlt, hr]
      | some q => simp [natsAbove, hlt, hr, ha q rfl]
    · split
      · exact h
      · have := ih (some k) hr (by intro q hq; cases hq; omega)
        cases lo with
        | none => simpa [natsAbove] using this
        | some q => simp [natsAbove, this, hk q rfl]

theorem natsAbove_natErase (l : List Nat) (lo : Option Nat) (a : Nat) (h : natsAbove lo l) : natsAbove lo (natErase l a) := by
  induction l generalizing lo with
  | nil => exact h
  | cons k r ih =>
    have hr : natsAbove (some k) r := by cases lo <;> simp_all [natsAbove]
    simp only [natErase]
    split
    · cases lo with
      | none => exact natsAbove_weaken hr
      | some q =>
        cases r with
        | nil => rfl
        | cons k' r' => simp_all [natsAbove]; omega
    · have := ih (some k) hr
      cases lo with
      | none => simpa [natsAbove] using this
      | some q => simp_all [natsAbove]

theorem natsAbove_foldl_natInsert (l s : List Nat) (h : natsAbove none l) : natsAbove none (s.foldl natInsert l) := by
  induction s generalizing l with
  | nil => exact h
  | cons a r ih => exact ih _ (natsAbove_natInsert l none a h (by simp))

theorem natsAbove_foldl_natErase (l s : List Nat) (h : natsAbove none l) : natsAbove none (s.foldl natErase l) := by
  induction s generalizing l with
  | nil => exact h
  | cons a r ih => exact ih _ (natsAbove_natErase l none a h)

/-! ### The canonical form is kept -/

theorem memWf_iff (m : Mem) : memWf m = true ↔
    cellsAbove none m.cells = true ∧ natsAbove none m.tags = true ∧ natsAbove none m.poison = true := by
  simp [memWf, and_assoc]

@[simp] theorem memWf_empty : memWf Mem.empty = true := rfl

theorem memWf_writeByte (m : Mem) (a : Nat) (b : Byte) (h : memWf m) : memWf (writeByte m a b) := by
  rw [memWf_iff] at h ⊢
  exact ⟨cellsAbove_cellSet m.cells none a b h.1 (by simp), h.2⟩

theorem memWf_writeBytes (m : Mem) (a : Nat) (l : List Byte) (h : memWf m) : memWf (writeBytes m a l) := by
  induction l generalizing m a with
  | nil => exact h
  | cons b r ih => exact ih _ _ (memWf_writeByte m a b h)

theorem memWf_setTag (m : Mem) (a : Nat) (on : Bool) (h : memWf m) : memWf (setTag m a on) := by
  rw [memWf_iff] at h ⊢
  refine ⟨h.1, ?_, h.2.2⟩
  simp only [setTag]
  split
  · exact natsAbove_natInsert _ none _ h.2.1 (by simp)
  · exact natsAbove_natErase _ none _ h.2.1

theorem memWf_setPoison (m : Mem) (a : Nat) (on : Bool) (h : memWf m) : memWf (setPoison m a on) := by
  rw [memWf_iff] at h ⊢
  refine ⟨h.1, h.2.1, ?_⟩
  simp only [setPoison]
  split
  · exact natsAbove_natInsert _ none _ h.2.2 (by simp)
  · exact natsAbove_natErase _ none _ h.2.2

theorem memWf_applyPatches (m : Mem) (ps : List Patch) (h : memWf m) : memWf (applyPatches m ps) := by
  induction ps generalizing m with
  | nil => exact h
  | cons p r ih => exact ih _ (memWf_writeByte m _ _ h)

theorem memWf_retag (m : Mem) (t u : List Nat) (h : memWf m) : memWf (retag m t u) := by
  rw [memWf_iff] at h ⊢
  exact ⟨h.1, natsAbove_foldl_natInsert _ _ (natsAbove_foldl_natErase _ _ h.2.1), h.2.2⟩

theorem memWf_repoison (m : Mem) (ps : List Patch) (po : Bool) (gs : List Nat) (h : memWf m) : memWf (repoison m ps po gs) := by
  induction gs generalizing m with
  | nil => exact h
  | cons g r ih =>
    refine ih _ ?_
    rw [memWf_iff] at h
    split
    · rw [memWf_iff]; exact ⟨h.1, h.2.1, natsAbove_natInsert _ none _ h.2.2 (by simp)⟩
    · split
      · rw [memWf_iff]; exact ⟨h.1, h.2.1, natsAbove_natErase _ none _ h.2.2⟩
      · rw [memWf_iff]; exact h

/-- A write applied at its home keeps the canonical form. -/
theorem memWf_applyWrite (m : Mem) (w : Write) (h : memWf m) : memWf (applyWrite m w) :=
  memWf_repoison _ _ _ _ (memWf_retag _ _ _ (memWf_applyPatches _ _ h))

/-! ### Reading one byte -/

@[simp] theorem readByte_writeByte_self (m : Mem) (a : Nat) (b : Byte) (h : memWf m) : readByte (writeByte m a b) a = b := by
  rw [memWf_iff] at h
  simp [readByte, writeByte, cellGet_cellSet m.cells none a a b h.1]

theorem readByte_writeByte_ne (m : Mem) (a x : Nat) (b : Byte) (h : memWf m) (hx : x ≠ a) :
    readByte (writeByte m a b) x = readByte m x := by
  rw [memWf_iff] at h
  simp [readByte, writeByte, cellGet_cellSet m.cells none a x b h.1, hx]

@[simp] theorem retag_cells (m : Mem) (t u : List Nat) : (retag m t u).cells = m.cells := rfl

@[simp] theorem repoison_cells (m : Mem) (ps : List Patch) (po : Bool) (gs : List Nat) : (repoison m ps po gs).cells = m.cells := by
  induction gs generalizing m with
  | nil => rfl
  | cons g r ih => simp only [repoison, ih]; split <;> [rfl; split <;> rfl]

/-- The bytes after a write are those that its patches leave. -/
@[simp] theorem readByte_applyWrite (m : Mem) (w : Write) (a : Nat) :
    readByte (applyWrite m w) a = readByte (applyPatches m w.patches) a := by
  simp [readByte, applyWrite]

/-- A byte that no patch names reads as before. -/
theorem readByte_applyPatches_other (m : Mem) (ps : List Patch) (a : Nat) (h : memWf m) (ha : ∀ p ∈ ps, p.addr ≠ a) :
    readByte (applyPatches m ps) a = readByte m a := by
  induction ps generalizing m with
  | nil => rfl
  | cons p r ih =>
    simp only [applyPatches]
    rw [ih _ (memWf_writeByte _ _ _ h) (fun q hq => ha q (List.mem_cons_of_mem _ hq))]
    exact readByte_writeByte_ne _ _ _ _ h (fun e => ha p List.mem_cons_self e.symm)

/-! ### The state's memories -/

theorem State.memOk_iff (s : State) : s.memOk = true ↔
    memWf s.phys = true ∧ s.pages.all (fun p => memsWf p.2.mems) = true ∧ s.instances.all (fun i => memWf i.2.symbols) = true := by
  simp [State.memOk, and_assoc]

/-- An update that leaves the three homes of memory alone keeps them. -/
theorem State.memOk_of_eq {s t : State} (h : s.memOk) (hp : t.phys = s.phys) (hg : t.pages = s.pages) (hi : t.instances = s.instances) :
    t.memOk := by
  rw [State.memOk_iff] at h ⊢
  rw [hp, hg, hi]
  exact h

theorem memOk_setPage (s : State) (k : Nat) (p : Page) (h : s.memOk) (hp : memsWf p.mems) : (setPage s k p).memOk := by
  rw [State.memOk_iff] at h ⊢
  exact ⟨h.1, all_tput (fun p : Page => memsWf p.mems) s.pages k p h.2.1 hp, h.2.2⟩

theorem memOk_modPage (s : State) (k : Nat) (g : Page → Page) (h : s.memOk) (hg : ∀ p, memsWf p.mems → memsWf (g p).mems) :
    (modPage s k g).memOk := by
  rw [State.memOk_iff] at h ⊢
  exact ⟨h.1, all_tmod (fun p : Page => memsWf p.mems) s.pages k g h.2.1 hg, h.2.2⟩

theorem memOk_setInst (s : State) (k : BitVec 32) (i : Instance) (h : s.memOk) (hi : memWf i.symbols) : (setInst s k i).memOk := by
  rw [State.memOk_iff] at h ⊢
  exact ⟨h.1, h.2.1, all_tput (fun i : Instance => memWf i.symbols) s.instances k i h.2.2 hi⟩

theorem memOk_modInst (s : State) (k : BitVec 32) (g : Instance → Instance) (h : s.memOk) (hg : ∀ i, memWf i.symbols → memWf (g i).symbols) :
    (modInst s k g).memOk := by
  rw [State.memOk_iff] at h ⊢
  exact ⟨h.1, h.2.1, all_tmod (fun i : Instance => memWf i.symbols) s.instances k g h.2.2 hg⟩

theorem memWf_memOf (s : State) (sp : Space) (h : s.memOk) : memWf (memOf s sp) := by
  rw [State.memOk_iff] at h
  cases sp with
  | phys => exact h.1
  | window p =>
    simp only [memOf]
    split
    · next pg hp =>
      have w := of_all_tget (fun p : Page => memsWf p.mems) s.pages p h.2.1 hp
      exact (Bool.and_eq_true_iff.mp w).1
    · rfl
  | symbols i =>
    simp only [memOf]
    split
    · next x hx => exact of_all_tget (fun i : Instance => memWf i.symbols) s.instances i h.2.2 hx
    · rfl

/-- A page's window replaced by a canonical one. -/
theorem memsWf_window (p : Page) (m : Mem) (hp : memsWf p.mems) (hm : memWf m) : memsWf ({ p with window := m } : Page).mems :=
  Bool.and_eq_true_iff.mpr ⟨hm, (Bool.and_eq_true_iff.mp hp).2⟩

/-- Replacing one memory by a canonical one keeps all canonical. -/
theorem memOk_setMem (s : State) (sp : Space) (m : Mem) (h : s.memOk) (hm : memWf m) : (setMem s sp m).memOk := by
  cases sp with
  | phys => rw [State.memOk_iff] at h ⊢; exact ⟨hm, h.2⟩
  | window p => exact memOk_modPage s p _ h fun pg hp => memsWf_window pg m hp hm
  | symbols i => exact memOk_modInst s i _ h fun _ _ => hm

theorem memOk_logUndo (s : State) (page g : Nat) (h : s.memOk) : (logUndo s page g).memOk := by
  refine memOk_modPage s page _ h fun p hp => ?_
  split
  · exact hp
  · exact hp

theorem memOk_logUndos (s : State) (page : Nat) (l : List Nat) (h : s.memOk) : (logUndos s page l).memOk := by
  induction l generalizing s with
  | nil => exact h
  | cons g r ih => exact ih _ (memOk_logUndo s page g h)

/-- Every write that performs keeps every memory canonical. -/
theorem memOk_applyAt (s : State) (w : Write) (h : s.memOk) : (applyAt s w).memOk := by
  have key : ∀ z : State, z.memOk → (setMem z w.space (applyWrite (memOf z w.space) w)).memOk := fun z hz =>
    memOk_setMem z _ _ hz (memWf_applyWrite _ _ (memWf_memOf z _ hz))
  refine key _ ?_
  split
  · exact memOk_logUndos s _ _ h
  · exact h

end Sys2Proof.Machine
end

