-- ==== Sys2Proof/Laws/PerInstr.lean ====
section
/-! SUPPORT. For every instruction: its opcode's row makes it again from its fields. -/

namespace Sys2Proof.Laws.RowMakes

open Sys2Proof.Machine

/-- The row of an instruction's opcode, given the instruction's fields, makes that instruction; an event of the part
has no word, and so no field that could be ill-formed. -/
def Statement (i : Instr) : Prop :=
  match opcodeOf i with
  | none => wellFormed i = true
  | some (c, f) => c < 512 ∧ ∃ r, rowOf c = some r ∧ r.code = c ∧ r.make f = i

theorem rdp (f : Fields) : Statement (.rdp f) := ⟨by decide, _, rfl, rfl, rfl⟩
theorem rds (f : Fields) : Statement (.rds f) := ⟨by decide, _, rfl, rfl, rfl⟩
theorem rdk (f : Fields) : Statement (.rdk f) := ⟨by decide, _, rfl, rfl, rfl⟩
theorem imm (f : Fields) : Statement (.imm f) := ⟨by decide, _, rfl, rfl, rfl⟩
theorem wrp (f : Fields) : Statement (.wrp f) := ⟨by decide, _, rfl, rfl, rfl⟩
theorem wrs (f : Fields) : Statement (.wrs f) := ⟨by decide, _, rfl, rfl, rfl⟩
theorem sendt (f : Fields) : Statement (.sendt f) := ⟨by decide, _, rfl, rfl, rfl⟩
theorem mov (f : Fields) : Statement (.mov f) := ⟨by decide, _, rfl, rfl, rfl⟩
theorem exit (f : Fields) : Statement (.exit f) := ⟨by decide, _, rfl, rfl, rfl⟩
theorem steer (f : Fields) : Statement (.steer f) := ⟨by decide, _, rfl, rfl, rfl⟩
theorem steerl (f : Fields) : Statement (.steerl f) := ⟨by decide, _, rfl, rfl, rfl⟩
theorem merge (f : Fields) : Statement (.merge f) := ⟨by decide, _, rfl, rfl, rfl⟩
theorem carry (f : Fields) : Statement (.carry f) := ⟨by decide, _, rfl, rfl, rfl⟩
theorem invar (f : Fields) : Statement (.invar f) := ⟨by decide, _, rfl, rfl, rfl⟩
theorem nullt (f : Fields) : Statement (.nullt f) := ⟨by decide, _, rfl, rfl, rfl⟩
theorem settag (f : Fields) : Statement (.settag f) := ⟨by decide, _, rfl, rfl, rfl⟩
theorem sbget (f : Fields) : Statement (.sbget f) := ⟨by decide, _, rfl, rfl, rfl⟩
theorem nop (f : Fields) : Statement (.nop f) := ⟨by decide, _, rfl, rfl, rfl⟩
theorem add (f : Fields) : Statement (.add f) := ⟨by decide, _, rfl, rfl, rfl⟩
theorem sub (f : Fields) : Statement (.sub f) := ⟨by decide, _, rfl, rfl, rfl⟩
theorem mul (f : Fields) : Statement (.mul f) := ⟨by decide, _, rfl, rfl, rfl⟩
theorem mulh (f : Fields) : Statement (.mulh f) := ⟨by decide, _, rfl, rfl, rfl⟩
theorem div (f : Fields) : Statement (.div f) := ⟨by decide, _, rfl, rfl, rfl⟩
theorem rem (f : Fields) : Statement (.rem f) := ⟨by decide, _, rfl, rfl, rfl⟩
theorem neg (f : Fields) : Statement (.neg f) := ⟨by decide, _, rfl, rfl, rfl⟩
theorem abs (f : Fields) : Statement (.abs f) := ⟨by decide, _, rfl, rfl, rfl⟩
theorem min (f : Fields) : Statement (.min f) := ⟨by decide, _, rfl, rfl, rfl⟩
theorem max (f : Fields) : Statement (.max f) := ⟨by decide, _, rfl, rfl, rfl⟩
theorem and (f : Fields) : Statement (.and f) := ⟨by decide, _, rfl, rfl, rfl⟩
theorem or (f : Fields) : Statement (.or f) := ⟨by decide, _, rfl, rfl, rfl⟩
theorem xor (f : Fields) : Statement (.xor f) := ⟨by decide, _, rfl, rfl, rfl⟩
theorem not (f : Fields) : Statement (.not f) := ⟨by decide, _, rfl, rfl, rfl⟩
theorem andn (f : Fields) : Statement (.andn f) := ⟨by decide, _, rfl, rfl, rfl⟩
theorem shl (f : Fields) : Statement (.shl f) := ⟨by decide, _, rfl, rfl, rfl⟩
theorem shr (f : Fields) : Statement (.shr f) := ⟨by decide, _, rfl, rfl, rfl⟩
theorem sra (f : Fields) : Statement (.sra f) := ⟨by decide, _, rfl, rfl, rfl⟩
theorem rol (f : Fields) : Statement (.rol f) := ⟨by decide, _, rfl, rfl, rfl⟩
theorem ror (f : Fields) : Statement (.ror f) := ⟨by decide, _, rfl, rfl, rfl⟩
theorem clz (f : Fields) : Statement (.clz f) := ⟨by decide, _, rfl, rfl, rfl⟩
theorem popc (f : Fields) : Statement (.popc f) := ⟨by decide, _, rfl, rfl, rfl⟩
theorem brev (f : Fields) : Statement (.brev f) := ⟨by decide, _, rfl, rfl, rfl⟩
theorem cmpeq (f : Fields) : Statement (.cmpeq f) := ⟨by decide, _, rfl, rfl, rfl⟩
theorem cmpne (f : Fields) : Statement (.cmpne f) := ⟨by decide, _, rfl, rfl, rfl⟩
theorem cmplt (f : Fields) : Statement (.cmplt f) := ⟨by decide, _, rfl, rfl, rfl⟩
theorem cmple (f : Fields) : Statement (.cmple f) := ⟨by decide, _, rfl, rfl, rfl⟩
theorem cmpgt (f : Fields) : Statement (.cmpgt f) := ⟨by decide, _, rfl, rfl, rfl⟩
theorem cmpge (f : Fields) : Statement (.cmpge f) := ⟨by decide, _, rfl, rfl, rfl⟩
theorem sel (f : Fields) : Statement (.sel f) := ⟨by decide, _, rfl, rfl, rfl⟩
theorem imad (f : Fields) : Statement (.imad f) := ⟨by decide, _, rfl, rfl, rfl⟩
theorem sext (f : Fields) : Statement (.sext f) := ⟨by decide, _, rfl, rfl, rfl⟩
theorem zext (f : Fields) : Statement (.zext f) := ⟨by decide, _, rfl, rfl, rfl⟩
theorem bfx (f : Fields) : Statement (.bfx f) := ⟨by decide, _, rfl, rfl, rfl⟩
theorem bfi (f : Fields) : Statement (.bfi f) := ⟨by decide, _, rfl, rfl, rfl⟩
theorem lea (f : Fields) : Statement (.lea f) := ⟨by decide, _, rfl, rfl, rfl⟩
theorem laneid (f : Fields) : Statement (.laneid f) := ⟨by decide, _, rfl, rfl, rfl⟩
theorem vmask (f : Fields) : Statement (.vmask f) := ⟨by decide, _, rfl, rfl, rfl⟩
theorem pfxsum (f : Fields) : Statement (.pfxsum f) := ⟨by decide, _, rfl, rfl, rfl⟩
theorem pfxpop (f : Fields) : Statement (.pfxpop f) := ⟨by decide, _, rfl, rfl, rfl⟩
theorem shuf (f : Fields) : Statement (.shuf f) := ⟨by decide, _, rfl, rfl, rfl⟩
theorem lrot (f : Fields) : Statement (.lrot f) := ⟨by decide, _, rfl, rfl, rfl⟩
theorem bcast (f : Fields) : Statement (.bcast f) := ⟨by decide, _, rfl, rfl, rfl⟩
theorem compact (f : Fields) : Statement (.compact f) := ⟨by decide, _, rfl, rfl, rfl⟩
theorem expand (f : Fields) : Statement (.expand f) := ⟨by decide, _, rfl, rfl, rfl⟩
theorem redadd (f : Fields) : Statement (.redadd f) := ⟨by decide, _, rfl, rfl, rfl⟩
theorem redmin (f : Fields) : Statement (.redmin f) := ⟨by decide, _, rfl, rfl, rfl⟩
theorem redmax (f : Fields) : Statement (.redmax f) := ⟨by decide, _, rfl, rfl, rfl⟩
theorem redand (f : Fields) : Statement (.redand f) := ⟨by decide, _, rfl, rfl, rfl⟩
theorem redor (f : Fields) : Statement (.redor f) := ⟨by decide, _, rfl, rfl, rfl⟩
theorem redxor (f : Fields) : Statement (.redxor f) := ⟨by decide, _, rfl, rfl, rfl⟩
theorem pand (f : Fields) : Statement (.pand f) := ⟨by decide, _, rfl, rfl, rfl⟩
theorem por (f : Fields) : Statement (.por f) := ⟨by decide, _, rfl, rfl, rfl⟩
theorem pxor (f : Fields) : Statement (.pxor f) := ⟨by decide, _, rfl, rfl, rfl⟩
theorem pnot (f : Fields) : Statement (.pnot f) := ⟨by decide, _, rfl, rfl, rfl⟩
theorem pany (f : Fields) : Statement (.pany f) := ⟨by decide, _, rfl, rfl, rfl⟩
theorem pall (f : Fields) : Statement (.pall f) := ⟨by decide, _, rfl, rfl, rfl⟩
theorem absd (f : Fields) : Statement (.absd f) := ⟨by decide, _, rfl, rfl, rfl⟩
theorem avg (f : Fields) : Statement (.avg f) := ⟨by decide, _, rfl, rfl, rfl⟩
theorem clamp (f : Fields) : Statement (.clamp f) := ⟨by decide, _, rfl, rfl, rfl⟩
theorem dot4 (f : Fields) : Statement (.dot4 f) := ⟨by decide, _, rfl, rfl, rfl⟩
theorem dot2 (f : Fields) : Statement (.dot2 f) := ⟨by decide, _, rfl, rfl, rfl⟩
theorem fadd (f : Fields) : Statement (.fadd f) := ⟨by decide, _, rfl, rfl, rfl⟩
theorem fsub (f : Fields) : Statement (.fsub f) := ⟨by decide, _, rfl, rfl, rfl⟩
theorem fmul (f : Fields) : Statement (.fmul f) := ⟨by decide, _, rfl, rfl, rfl⟩
theorem fma (f : Fields) : Statement (.fma f) := ⟨by decide, _, rfl, rfl, rfl⟩
theorem fms (f : Fields) : Statement (.fms f) := ⟨by decide, _, rfl, rfl, rfl⟩
theorem fnma (f : Fields) : Statement (.fnma f) := ⟨by decide, _, rfl, rfl, rfl⟩
theorem fnms (f : Fields) : Statement (.fnms f) := ⟨by decide, _, rfl, rfl, rfl⟩
theorem fdiv (f : Fields) : Statement (.fdiv f) := ⟨by decide, _, rfl, rfl, rfl⟩
theorem fsqrt (f : Fields) : Statement (.fsqrt f) := ⟨by decide, _, rfl, rfl, rfl⟩
theorem frcp (f : Fields) : Statement (.frcp f) := ⟨by decide, _, rfl, rfl, rfl⟩
theorem frsq (f : Fields) : Statement (.frsq f) := ⟨by decide, _, rfl, rfl, rfl⟩
theorem fmin (f : Fields) : Statement (.fmin f) := ⟨by decide, _, rfl, rfl, rfl⟩
theorem fmax (f : Fields) : Statement (.fmax f) := ⟨by decide, _, rfl, rfl, rfl⟩
theorem fabs (f : Fields) : Statement (.fabs f) := ⟨by decide, _, rfl, rfl, rfl⟩
theorem fneg (f : Fields) : Statement (.fneg f) := ⟨by decide, _, rfl, rfl, rfl⟩
theorem fcmpeq (f : Fields) : Statement (.fcmpeq f) := ⟨by decide, _, rfl, rfl, rfl⟩
theorem fcmplt (f : Fields) : Statement (.fcmplt f) := ⟨by decide, _, rfl, rfl, rfl⟩
theorem fcmple (f : Fields) : Statement (.fcmple f) := ⟨by decide, _, rfl, rfl, rfl⟩
theorem fcmpun (f : Fields) : Statement (.fcmpun f) := ⟨by decide, _, rfl, rfl, rfl⟩
theorem fclass (f : Fields) : Statement (.fclass f) := ⟨by decide, _, rfl, rfl, rfl⟩
theorem fscale (f : Fields) : Statement (.fscale f) := ⟨by decide, _, rfl, rfl, rfl⟩
theorem fexp2 (f : Fields) : Statement (.fexp2 f) := ⟨by decide, _, rfl, rfl, rfl⟩
theorem flog2 (f : Fields) : Statement (.flog2 f) := ⟨by decide, _, rfl, rfl, rfl⟩
theorem fsin (f : Fields) : Statement (.fsin f) := ⟨by decide, _, rfl, rfl, rfl⟩
theorem fcos (f : Fields) : Statement (.fcos f) := ⟨by decide, _, rfl, rfl, rfl⟩
theorem ftanh (f : Fields) : Statement (.ftanh f) := ⟨by decide, _, rfl, rfl, rfl⟩
theorem fsigm (f : Fields) : Statement (.fsigm f) := ⟨by decide, _, rfl, rfl, rfl⟩
theorem fredadd (f : Fields) : Statement (.fredadd f) := ⟨by decide, _, rfl, rfl, rfl⟩
theorem fredmax (f : Fields) : Statement (.fredmax f) := ⟨by decide, _, rfl, rfl, rfl⟩
theorem fredmin (f : Fields) : Statement (.fredmin f) := ⟨by decide, _, rfl, rfl, rfl⟩
theorem faddx (f : Fields) : Statement (.faddx f) := ⟨by decide, _, rfl, rfl, rfl⟩
theorem fsubx (f : Fields) : Statement (.fsubx f) := ⟨by decide, _, rfl, rfl, rfl⟩
theorem fmulx (f : Fields) : Statement (.fmulx f) := ⟨by decide, _, rfl, rfl, rfl⟩
theorem dwadd (f : Fields) : Statement (.dwadd f) := ⟨by decide, _, rfl, rfl, rfl⟩
theorem dwsub (f : Fields) : Statement (.dwsub f) := ⟨by decide, _, rfl, rfl, rfl⟩
theorem dwmul (f : Fields) : Statement (.dwmul f) := ⟨by decide, _, rfl, rfl, rfl⟩
theorem dwfma (f : Fields) : Statement (.dwfma f) := ⟨by decide, _, rfl, rfl, rfl⟩
theorem dwnorm (f : Fields) : Statement (.dwnorm f) := ⟨by decide, _, rfl, rfl, rfl⟩
theorem dwred (f : Fields) : Statement (.dwred f) := ⟨by decide, _, rfl, rfl, rfl⟩
theorem dwtof (f : Fields) : Statement (.dwtof f) := ⟨by decide, _, rfl, rfl, rfl⟩
theorem fcvt (f : Fields) : Statement (.fcvt f) := ⟨by decide, _, rfl, rfl, rfl⟩
theorem ftoi (f : Fields) : Statement (.ftoi f) := ⟨by decide, _, rfl, rfl, rfl⟩
theorem itof (f : Fields) : Statement (.itof f) := ⟨by decide, _, rfl, rfl, rfl⟩
theorem cbdec (f : Fields) : Statement (.cbdec f) := ⟨by decide, _, rfl, rfl, rfl⟩
theorem cbenc (f : Fields) : Statement (.cbenc f) := ⟨by decide, _, rfl, rfl, rfl⟩
theorem pack (f : Fields) : Statement (.pack f) := ⟨by decide, _, rfl, rfl, rfl⟩
theorem unpack (f : Fields) : Statement (.unpack f) := ⟨by decide, _, rfl, rfl, rfl⟩
theorem bscl (f : Fields) : Statement (.bscl f) := ⟨by decide, _, rfl, rfl, rfl⟩
theorem bscalc (f : Fields) : Statement (.bscalc f) := ⟨by decide, _, rfl, rfl, rfl⟩
theorem setmode (f : Fields) : Statement (.setmode f) := ⟨by decide, _, rfl, rfl, rfl⟩
theorem getflags (f : Fields) : Statement (.getflags f) := ⟨by decide, _, rfl, rfl, rfl⟩
theorem clrflags (f : Fields) : Statement (.clrflags f) := ⟨by decide, _, rfl, rfl, rfl⟩
theorem frnd (f : Fields) : Statement (.frnd f) := ⟨by decide, _, rfl, rfl, rfl⟩
theorem fcopysgn (f : Fields) : Statement (.fcopysgn f) := ⟨by decide, _, rfl, rfl, rfl⟩
theorem fdot2 (f : Fields) : Statement (.fdot2 f) := ⟨by decide, _, rfl, rfl, rfl⟩
theorem getmode (f : Fields) : Statement (.getmode f) := ⟨by decide, _, rfl, rfl, rfl⟩
theorem fcmpne (f : Fields) : Statement (.fcmpne f) := ⟨by decide, _, rfl, rfl, rfl⟩
theorem mlds (f : Fields) : Statement (.mlds f) := ⟨by decide, _, rfl, rfl, rfl⟩
theorem mswap (f : Fields) : Statement (.mswap f) := ⟨by decide, _, rfl, rfl, rfl⟩
theorem mrow (f : Fields) : Statement (.mrow f) := ⟨by decide, _, rfl, rfl, rfl⟩
theorem mrowc (f : Fields) : Statement (.mrowc f) := ⟨by decide, _, rfl, rfl, rfl⟩
theorem mcbl (f : Fields) : Statement (.mcbl f) := ⟨by decide, _, rfl, rfl, rfl⟩
theorem acc (f : Fields) : Statement (.acc f) := ⟨by decide, _, rfl, rfl, rfl⟩
theorem accn (f : Fields) : Statement (.accn f) := ⟨by decide, _, rfl, rfl, rfl⟩
theorem eor (f : Fields) : Statement (.eor f) := ⟨by decide, _, rfl, rfl, rfl⟩
theorem accrel (f : Fields) : Statement (.accrel f) := ⟨by decide, _, rfl, rfl, rfl⟩
theorem route (f : Fields) : Statement (.route f) := ⟨by decide, _, rfl, rfl, rfl⟩
theorem mstat (f : Fields) : Statement (.mstat f) := ⟨by decide, _, rfl, rfl, rfl⟩
theorem mclr (f : Fields) : Statement (.mclr f) := ⟨by decide, _, rfl, rfl, rfl⟩
theorem accrd (f : Fields) : Statement (.accrd f) := ⟨by decide, _, rfl, rfl, rfl⟩
theorem rtset (f : Fields) : Statement (.rtset f) := ⟨by decide, _, rfl, rfl, rfl⟩
theorem ld (f : Fields) : Statement (.ld f) := ⟨by decide, _, rfl, rfl, rfl⟩
theorem st (f : Fields) : Statement (.st f) := ⟨by decide, _, rfl, rfl, rfl⟩
theorem stm (f : Fields) : Statement (.stm f) := ⟨by decide, _, rfl, rfl, rfl⟩
theorem lds (f : Fields) : Statement (.lds f) := ⟨by decide, _, rfl, rfl, rfl⟩
theorem sts (f : Fields) : Statement (.sts f) := ⟨by decide, _, rfl, rfl, rfl⟩
theorem ldg (f : Fields) : Statement (.ldg f) := ⟨by decide, _, rfl, rfl, rfl⟩
theorem stsc (f : Fields) : Statement (.stsc f) := ⟨by decide, _, rfl, rfl, rfl⟩
theorem pref (f : Fields) : Statement (.pref f) := ⟨by decide, _, rfl, rfl, rfl⟩
theorem aadd (f : Fields) : Statement (.aadd f) := ⟨by decide, _, rfl, rfl, rfl⟩
theorem amin (f : Fields) : Statement (.amin f) := ⟨by decide, _, rfl, rfl, rfl⟩
theorem amax (f : Fields) : Statement (.amax f) := ⟨by decide, _, rfl, rfl, rfl⟩
theorem aand (f : Fields) : Statement (.aand f) := ⟨by decide, _, rfl, rfl, rfl⟩
theorem aor (f : Fields) : Statement (.aor f) := ⟨by decide, _, rfl, rfl, rfl⟩
theorem axor (f : Fields) : Statement (.axor f) := ⟨by decide, _, rfl, rfl, rfl⟩
theorem axchg (f : Fields) : Statement (.axchg f) := ⟨by decide, _, rfl, rfl, rfl⟩
theorem acas (f : Fields) : Statement (.acas f) := ⟨by decide, _, rfl, rfl, rfl⟩
theorem atas (f : Fields) : Statement (.atas f) := ⟨by decide, _, rfl, rfl, rfl⟩
theorem afadd (f : Fields) : Statement (.afadd f) := ⟨by decide, _, rfl, rfl, rfl⟩
theorem ainc (f : Fields) : Statement (.ainc f) := ⟨by decide, _, rfl, rfl, rfl⟩
theorem fence (f : Fields) : Statement (.fence f) := ⟨by decide, _, rfl, rfl, rfl⟩
theorem acq (f : Fields) : Statement (.acq f) := ⟨by decide, _, rfl, rfl, rfl⟩
theorem rel (f : Fields) : Statement (.rel f) := ⟨by decide, _, rfl, rfl, rfl⟩
theorem bktake (f : Fields) : Statement (.bktake f) := ⟨by decide, _, rfl, rfl, rfl⟩
theorem bkgive (f : Fields) : Statement (.bkgive f) := ⟨by decide, _, rfl, rfl, rfl⟩
theorem tfpush (f : Fields) : Statement (.tfpush f) := ⟨by decide, _, rfl, rfl, rfl⟩
theorem tfpop (f : Fields) : Statement (.tfpop f) := ⟨by decide, _, rfl, rfl, rfl⟩
theorem chapp (f : Fields) : Statement (.chapp f) := ⟨by decide, _, rfl, rfl, rfl⟩
theorem chtail (f : Fields) : Statement (.chtail f) := ⟨by decide, _, rfl, rfl, rfl⟩
theorem chseq (f : Fields) : Statement (.chseq f) := ⟨by decide, _, rfl, rfl, rfl⟩
theorem adec (f : Fields) : Statement (.adec f) := ⟨by decide, _, rfl, rfl, rfl⟩
theorem ldnt (f : Fields) : Statement (.ldnt f) := ⟨by decide, _, rfl, rfl, rfl⟩
theorem stnt (f : Fields) : Statement (.stnt f) := ⟨by decide, _, rfl, rfl, rfl⟩
theorem ldb (f : Fields) : Statement (.ldb f) := ⟨by decide, _, rfl, rfl, rfl⟩
theorem afmin (f : Fields) : Statement (.afmin f) := ⟨by decide, _, rfl, rfl, rfl⟩
theorem afmax (f : Fields) : Statement (.afmax f) := ⟨by decide, _, rfl, rfl, rfl⟩
theorem sset (f : Fields) : Statement (.sset f) := ⟨by decide, _, rfl, rfl, rfl⟩
theorem sidx (f : Fields) : Statement (.sidx f) := ⟨by decide, _, rfl, rfl, rfl⟩
theorem spop (f : Fields) : Statement (.spop f) := ⟨by decide, _, rfl, rfl, rfl⟩
theorem spush (f : Fields) : Statement (.spush f) := ⟨by decide, _, rfl, rfl, rfl⟩
theorem sint (f : Fields) : Statement (.sint f) := ⟨by decide, _, rfl, rfl, rfl⟩
theorem suni (f : Fields) : Statement (.suni f) := ⟨by decide, _, rfl, rfl, rfl⟩
theorem ssub (f : Fields) : Statement (.ssub f) := ⟨by decide, _, rfl, rfl, rfl⟩
theorem smadd (f : Fields) : Statement (.smadd f) := ⟨by decide, _, rfl, rfl, rfl⟩
theorem bmand (f : Fields) : Statement (.bmand f) := ⟨by decide, _, rfl, rfl, rfl⟩
theorem bmpfx (f : Fields) : Statement (.bmpfx f) := ⟨by decide, _, rfl, rfl, rfl⟩
theorem hprobe (f : Fields) : Statement (.hprobe f) := ⟨by decide, _, rfl, rfl, rfl⟩
theorem hins (f : Fields) : Statement (.hins f) := ⟨by decide, _, rfl, rfl, rfl⟩
theorem contract (f : Fields) : Statement (.contract f) := ⟨by decide, _, rfl, rfl, rfl⟩
theorem sstat (f : Fields) : Statement (.sstat f) := ⟨by decide, _, rfl, rfl, rfl⟩
theorem clnum (f : Fields) : Statement (.clnum f) := ⟨by decide, _, rfl, rfl, rfl⟩
theorem clpost (f : Fields) : Statement (.clpost f) := ⟨by decide, _, rfl, rfl, rfl⟩
theorem clcancel (f : Fields) : Statement (.clcancel f) := ⟨by decide, _, rfl, rfl, rfl⟩
theorem clstat (f : Fields) : Statement (.clstat f) := ⟨by decide, _, rfl, rfl, rfl⟩
theorem cljoin (f : Fields) : Statement (.cljoin f) := ⟨by decide, _, rfl, rfl, rfl⟩
theorem clleave (f : Fields) : Statement (.clleave f) := ⟨by decide, _, rfl, rfl, rfl⟩
theorem clquery (f : Fields) : Statement (.clquery f) := ⟨by decide, _, rfl, rfl, rfl⟩
theorem grpid (f : Fields) : Statement (.grpid f) := ⟨by decide, _, rfl, rfl, rfl⟩
theorem role (f : Fields) : Statement (.role f) := ⟨by decide, _, rfl, rfl, rfl⟩
theorem spawn (f : Fields) : Statement (.spawn f) := ⟨by decide, _, rfl, rfl, rfl⟩
theorem tear (f : Fields) : Statement (.tear f) := ⟨by decide, _, rfl, rfl, rfl⟩
theorem bal (f : Fields) : Statement (.bal f) := ⟨by decide, _, rfl, rfl, rfl⟩
theorem time (f : Fields) : Statement (.time f) := ⟨by decide, _, rfl, rfl, rfl⟩
theorem firecnt (f : Fields) : Statement (.firecnt f) := ⟨by decide, _, rfl, rfl, rfl⟩
theorem evt (f : Fields) : Statement (.evt f) := ⟨by decide, _, rfl, rfl, rfl⟩
theorem svcl (f : Fields) : Statement (.svcl f) := ⟨by decide, _, rfl, rfl, rfl⟩
theorem yield (f : Fields) : Statement (.yield f) := ⟨by decide, _, rfl, rfl, rfl⟩
theorem prio (f : Fields) : Statement (.prio f) := ⟨by decide, _, rfl, rfl, rfl⟩
theorem ctxid (f : Fields) : Statement (.ctxid f) := ⟨by decide, _, rfl, rfl, rfl⟩
theorem psetb (f : Fields) : Statement (.psetb f) := ⟨by decide, _, rfl, rfl, rfl⟩
theorem psetp (f : Fields) : Statement (.psetp f) := ⟨by decide, _, rfl, rfl, rfl⟩
theorem padd (f : Fields) : Statement (.padd f) := ⟨by decide, _, rfl, rfl, rfl⟩
theorem pchk (f : Fields) : Statement (.pchk f) := ⟨by decide, _, rfl, rfl, rfl⟩
theorem pget (f : Fields) : Statement (.pget f) := ⟨by decide, _, rfl, rfl, rfl⟩
theorem pseal (f : Fields) : Statement (.pseal f) := ⟨by decide, _, rfl, rfl, rfl⟩
theorem punseal (f : Fields) : Statement (.punseal f) := ⟨by decide, _, rfl, rfl, rfl⟩
theorem pmint (f : Fields) : Statement (.pmint f) := ⟨by decide, _, rfl, rfl, rfl⟩
theorem mark (f : Fields) : Statement (.mark f) := ⟨by decide, _, rfl, rfl, rfl⟩
theorem trap (f : Fields) : Statement (.trap f) := ⟨by decide, _, rfl, rfl, rfl⟩
theorem brk (f : Fields) : Statement (.brk f) := ⟨by decide, _, rfl, rfl, rfl⟩
theorem sluice (f : Fields) : Statement (.sluice f) := ⟨by decide, _, rfl, rfl, rfl⟩
theorem replay (f : Fields) : Statement (.replay f) := ⟨by decide, _, rfl, rfl, rfl⟩
theorem guard (f : Fields) : Statement (.guard f) := ⟨by decide, _, rfl, rfl, rfl⟩
theorem cutstat (f : Fields) : Statement (.cutstat f) := ⟨by decide, _, rfl, rfl, rfl⟩
theorem resumeq (f : Fields) : Statement (.resumeq f) := ⟨by decide, _, rfl, rfl, rfl⟩
theorem arbiterChoice : Statement .arbiterChoice := rfl
theorem blockRetire : Statement .blockRetire := rfl
theorem tokenAccept : Statement .tokenAccept := rfl
theorem spillwayPass : Statement .spillwayPass := rfl
theorem replaySend : Statement .replaySend := rfl
theorem rowChainTake : Statement .rowChainTake := rfl
theorem rowOutputSend : Statement .rowOutputSend := rfl
theorem releaseQueueSend : Statement .releaseQueueSend := rfl
theorem streamCommandAccept : Statement .streamCommandAccept := rfl
theorem streamReadTokenSend : Statement .streamReadTokenSend := rfl
theorem indirectStreamGather : Statement .indirectStreamGather := rfl
theorem streamPushTake : Statement .streamPushTake := rfl
theorem coiterationStep : Statement .coiterationStep := rfl
theorem streamSlotTeardown : Statement .streamSlotTeardown := rfl
theorem homeAccessApply : Statement .homeAccessApply := rfl
theorem atomicApply : Statement .atomicApply := rfl
theorem releaseComplete : Statement .releaseComplete := rfl
theorem remoteOutboundSend : Statement .remoteOutboundSend := rfl
theorem translationWalk : Statement .translationWalk := rfl
theorem chainJobIssue : Statement .chainJobIssue := rfl
theorem engineJobComplete : Statement .engineJobComplete := rfl
theorem fifoPendingPush : Statement .fifoPendingPush := rfl
theorem collectiveAnnounce : Statement .collectiveAnnounce := rfl
theorem collectiveGo : Statement .collectiveGo := rfl
theorem collectiveExecute : Statement .collectiveExecute := rfl
theorem collectiveFinish : Statement .collectiveFinish := rfl
theorem collectiveCancelNotice : Statement .collectiveCancelNotice := rfl
theorem seqNumberRequest : Statement .seqNumberRequest := rfl
theorem seqJoinRequest : Statement .seqJoinRequest := rfl
theorem seqLeaveRequest : Statement .seqLeaveRequest := rfl
theorem seqCancelRequest : Statement .seqCancelRequest := rfl
theorem seqPostNotice : Statement .seqPostNotice := rfl
theorem seqQueryRequest : Statement .seqQueryRequest := rfl
theorem standbyTakeover : Statement .standbyTakeover := rfl
theorem takeoverNotice : Statement .takeoverNotice := rfl
theorem memberUnreachable : Statement .memberUnreachable := rfl
theorem reachLinkFail : Statement .reachLinkFail := rfl
theorem flitCrcRetry : Statement .flitCrcRetry := rfl
theorem ucieModuleExclude : Statement .ucieModuleExclude := rfl
theorem contextSilent : Statement .contextSilent := rfl
theorem pageSilent : Statement .pageSilent := rfl
theorem balancerInterval : Statement .balancerInterval := rfl
theorem replicaParked : Statement .replicaParked := rfl
theorem taskDrain : Statement .taskDrain := rfl
theorem spawnArrive : Statement .spawnArrive := rfl
theorem pageReturn : Statement .pageReturn := rfl
theorem instanceEnd : Statement .instanceEnd := rfl
theorem endRecordWrite : Statement .endRecordWrite := rfl
theorem uncorrectableError : Statement .uncorrectableError := rfl
theorem faultyPageRelocate : Statement .faultyPageRelocate := rfl
theorem rollback : Statement .rollback := rfl
theorem cutOrder : Statement .cutOrder := rfl
theorem pageCutSave : Statement .pageCutSave := rfl
theorem cutComplete : Statement .cutComplete := rfl
theorem freezeComplete : Statement .freezeComplete := rfl
theorem trapRecordWrite : Statement .trapRecordWrite := rfl
theorem invalidationComplete : Statement .invalidationComplete := rfl
theorem mbCreateContext : Statement .mbCreateContext := rfl
theorem mbEndContext : Statement .mbEndContext := rfl
theorem mbLaunch : Statement .mbLaunch := rfl
theorem mbEndInstance : Statement .mbEndInstance := rfl
theorem mbTrapRetry : Statement .mbTrapRetry := rfl
theorem mbTrapContinue : Statement .mbTrapContinue := rfl
theorem mbTrapRollback : Statement .mbTrapRollback := rfl
theorem mbTrapEnd : Statement .mbTrapEnd := rfl
theorem mbInvalidateTranslation : Statement .mbInvalidateTranslation := rfl
theorem mbSluiceArm : Statement .mbSluiceArm := rfl
theorem mbSluiceOpen : Statement .mbSluiceOpen := rfl
theorem mbFreeze : Statement .mbFreeze := rfl
theorem mbResume : Statement .mbResume := rfl
theorem mbCut : Statement .mbCut := rfl
theorem mbSetTime : Statement .mbSetTime := rfl
theorem mbSequencerDesignate : Statement .mbSequencerDesignate := rfl
theorem mbSequencerTakeover : Statement .mbSequencerTakeover := rfl
theorem mbAddImageKey : Statement .mbAddImageKey := rfl
theorem mbFullService : Statement .mbFullService := rfl
theorem notifyClear : Statement .notifyClear := rfl
theorem endRingReadIndexWrite : Statement .endRingReadIndexWrite := rfl
theorem contextRingReadIndexWrite : Statement .contextRingReadIndexWrite := rfl
theorem pwrcapWrite : Statement .pwrcapWrite := rfl
theorem scheduleEntryCommit : Statement .scheduleEntryCommit := rfl
theorem scheduleEntryDue : Statement .scheduleEntryDue := rfl
theorem powerCapControl : Statement .powerCapControl := rfl
theorem diepwrFull : Statement .diepwrFull := rfl
theorem diepwrBalanced : Statement .diepwrBalanced := rfl
theorem diepwrNearThreshold : Statement .diepwrNearThreshold := rfl
theorem diepwrGate : Statement .diepwrGate := rfl
theorem diepwrRefClear : Statement .diepwrRefClear := rfl
theorem diepwrChangeDone : Statement .diepwrChangeDone := rfl
theorem registerWrite : Statement .registerWrite := rfl
theorem hostMemoryAccess : Statement .hostMemoryAccess := rfl
theorem packageReset : Statement .packageReset := rfl
theorem frameSelfTestDone : Statement .frameSelfTestDone := rfl
theorem bootStageVerify : Statement .bootStageVerify := rfl
theorem firmwareUpdate : Statement .firmwareUpdate := rfl
theorem sequencerFailNoStandby : Statement .sequencerFailNoStandby := rfl
theorem frameScrubComplete : Statement .frameScrubComplete := rfl

end Sys2Proof.Laws.RowMakes
end

