-- ==== Sys2Proof/Laws/Shared.lean ====
section
/-! SUPPORT. What each shared operation leaves alone: the bytes of every memory, and the tables it does not name. -/

namespace Sys2Proof.Machine

/-- Physical memory, each page's window with its images of it, and each instance's symbol area are as before. -/
structure SameMemory (s t : State) : Prop where
  phys : t.phys = s.phys
  windows : t.pages.map (fun kp => (kp.1, kp.2.mems)) = s.pages.map fun kp => (kp.1, kp.2.mems)
  symbols : t.instances.map (fun ki => (ki.1, ki.2.symbols)) = s.instances.map fun ki => (ki.1, ki.2.symbols)

namespace SameMemory

theorem refl (s : State) : SameMemory s s := ⟨rfl, rfl, rfl⟩

theorem trans {s t u : State} (h : SameMemory s t) (k : SameMemory t u) : SameMemory s u :=
  ⟨k.phys.trans h.phys, k.windows.trans h.windows, k.symbols.trans h.symbols⟩

/-- An update of anything else. -/
theorem of_eq {s t : State} (hp : t.phys = s.phys) (hg : t.pages = s.pages) (hi : t.instances = s.instances) : SameMemory s t :=
  ⟨hp, by rw [hg], by rw [hi]⟩

/-- An update of anything else, before or after. -/
theorem before {s t u : State} (h : SameMemory t u) (hp : t.phys = s.phys) (hg : t.pages = s.pages) (hi : t.instances = s.instances) :
    SameMemory s u := (of_eq hp hg hi).trans h

theorem after {s t u : State} (h : SameMemory s t) (hp : u.phys = t.phys) (hg : u.pages = t.pages) (hi : u.instances = t.instances) :
    SameMemory s u := h.trans (of_eq hp hg hi)

end SameMemory

section
variable {κ α β : Type} [DecidableEq κ]

theorem map_tput_same (t : Table κ α) (q : κ) (w v : α) (f : α → β) (hq : tget t q = some v) (hf : f w = f v) :
    (tput t q w).map (fun kv => (kv.1, f kv.2)) = t.map fun kv => (kv.1, f kv.2) := by
  induction t with
  | nil => simp [tget] at hq
  | cons kv r ih =>
    obtain ⟨k, x⟩ := kv
    rw [tget_cons] at hq
    simp only [tput]
    split
    · next h => rw [if_pos h] at hq; cases hq; simp [h, hf]
    · next h => rw [if_neg h] at hq; simp [ih hq]

theorem map_tmod_same (t : Table κ α) (q : κ) (g : α → α) (f : α → β) (hf : ∀ v, f (g v) = f v) :
    (tmod t q g).map (fun kv => (kv.1, f kv.2)) = t.map fun kv => (kv.1, f kv.2) := by
  unfold tmod
  cases h : tget t q with
  | none => rfl
  | some v => exact map_tput_same t q (g v) v f h (hf v)

omit [DecidableEq κ] in
theorem map_tmap_same (t : Table κ α) (g : κ → α → α) (f : α → β) (hf : ∀ k v, f (g k v) = f v) :
    (tmap t g).map (fun kv => (kv.1, f kv.2)) = t.map fun kv => (kv.1, f kv.2) := by
  induction t with
  | nil => rfl
  | cons kv r ih => obtain ⟨k, v⟩ := kv; simp [tmap, ih, hf]

/-- What a lookup finds, seen through a map of the values. -/
theorem tget_map (t : Table κ α) (q : κ) (f : α → β) : tget (t.map fun kv => (kv.1, f kv.2)) q = (tget t q).map f := by
  induction t with
  | nil => rfl
  | cons kv r ih =>
    obtain ⟨k, x⟩ := kv
    rw [List.map_cons, tget_cons, tget_cons, ih]
    split <;> rfl

end

theorem sameMemory_modPage (s : State) (k : Nat) (g : Page → Page) (h : ∀ p, (g p).mems = p.mems) : SameMemory s (modPage s k g) :=
  ⟨rfl, map_tmod_same s.pages k g (·.mems) h, rfl⟩

theorem sameMemory_setPage (s : State) (k : Nat) (p q : Page) (hk : tget s.pages k = some p) (h : q.mems = p.mems) :
    SameMemory s (setPage s k q) :=
  ⟨rfl, map_tput_same s.pages k q p (·.mems) hk h, rfl⟩

theorem sameMemory_modInst (s : State) (k : BitVec 32) (g : Instance → Instance) (h : ∀ i, (g i).symbols = i.symbols) :
    SameMemory s (modInst s k g) :=
  ⟨rfl, rfl, map_tmod_same s.instances k g (·.symbols) h⟩

theorem sameMemory_setInst (s : State) (k : BitVec 32) (i j : Instance) (hk : tget s.instances k = some i) (h : j.symbols = i.symbols) :
    SameMemory s (setInst s k j) :=
  ⟨rfl, rfl, map_tput_same s.instances k j i (·.symbols) hk h⟩

namespace SameMemory

theorem memOf {s t : State} (h : SameMemory s t) (sp : Space) : Machine.memOf t sp = Machine.memOf s sp := by
  cases sp with
  | phys => exact h.phys
  | window p =>
    have w := congrArg (fun l => tget l p) h.windows
    simp only [tget_map t.pages p (·.mems), tget_map s.pages p (·.mems)] at w
    simp only [Machine.memOf]
    cases ht : tget t.pages p <;> cases hs : tget s.pages p <;> simp_all [Page.mems]
  | symbols i =>
    have w := congrArg (fun l => tget l i) h.symbols
    simp only [tget_map t.instances i (·.symbols), tget_map s.instances i (·.symbols)] at w
    simp only [Machine.memOf]
    cases ht : tget t.instances i <;> cases hs : tget s.instances i <;> simp_all

/-- Every byte of memory reads as before. -/
theorem byteOf {s t : State} (h : SameMemory s t) (sp : Space) (a : Nat) : Machine.byteOf t sp a = Machine.byteOf s sp a := by
  simp only [Machine.byteOf, h.memOf]

/-- The canonical form is kept. -/
theorem memOk {s t : State} (h : SameMemory s t) (ok : s.memOk) : t.memOk := by
  rw [State.memOk_iff] at ok ⊢
  refine ⟨h.phys ▸ ok.1, ?_, ?_⟩
  · have w := congrArg (List.all · fun x => memsWf x.2) h.windows
    simp only [List.all_map, Function.comp_def] at w
    exact w.trans ok.2.1
  · have w := congrArg (List.all · fun x => memWf x.2) h.symbols
    simp only [List.all_map, Function.comp_def] at w
    exact w.trans ok.2.2

end SameMemory

/-! ### Records and activity -/

theorem sameMemory_raiseNotify (s : State) (b : Nat) : SameMemory s (raiseNotify s b) := by
  unfold raiseNotify; split <;> exact .of_eq rfl rfl rfl

@[simp] theorem raiseNotify_tasks (s : State) (b : Nat) : (raiseNotify s b).tasks = s.tasks := by unfold raiseNotify; split <;> rfl
@[simp] theorem raiseNotify_cells (s : State) (b : Nat) : (raiseNotify s b).cells = s.cells := by unfold raiseNotify; split <;> rfl
@[simp] theorem raiseNotify_arcs (s : State) (b : Nat) : (raiseNotify s b).arcs = s.arcs := by unfold raiseNotify; split <;> rfl
@[simp] theorem raiseNotify_pages (s : State) (b : Nat) : (raiseNotify s b).pages = s.pages := by unfold raiseNotify; split <;> rfl
@[simp] theorem raiseNotify_contexts (s : State) (b : Nat) : (raiseNotify s b).contexts = s.contexts := by unfold raiseNotify; split <;> rfl
@[simp] theorem raiseNotify_instances (s : State) (b : Nat) : (raiseNotify s b).instances = s.instances := by unfold raiseNotify; split <;> rfl

/-- A bit raised stays raised, and no other bit falls. -/
theorem raiseNotify_bits (s : State) (b k : Nat) (hb : b < 4) :
    (raiseNotify s b).pkg.notify.getLsbD k = (s.pkg.notify.getLsbD k || decide (k = b)) := by
  unfold raiseNotify
  split
  · next h => by_cases hk : k = b <;> simp [hk, h]
  · have : (1#4 <<< b).getLsbD k = decide (k = b) := by
      by_cases hk : k = b
      · subst hk; simp [hb]
      · have : ¬(b ≤ k ∧ k - b = 0) := by omega
        by_cases h4 : k < 4 <;> by_cases hl : k < b <;> simp [hk, h4, hl, BitVec.getLsbD_one] <;> omega
    simp [this]

theorem sameMemory_logEvent (s : State) (asid : BitVec 8) (src code : BitVec 16) (pay : BitVec 32) :
    SameMemory s (logEvent s asid src code pay) := by
  unfold logEvent
  split
  · exact .refl s
  · simp only
    split
    · exact .of_eq rfl rfl rfl
    · exact .before (sameMemory_raiseNotify _ 0) rfl rfl rfl

@[simp] theorem logEvent_tasks (s : State) (asid : BitVec 8) (src code : BitVec 16) (pay : BitVec 32) :
    (logEvent s asid src code pay).tasks = s.tasks := by
  unfold logEvent; split
  · rfl
  · simp only; split <;> simp [setCtx]

@[simp] theorem logEvent_cells (s : State) (asid : BitVec 8) (src code : BitVec 16) (pay : BitVec 32) :
    (logEvent s asid src code pay).cells = s.cells := by
  unfold logEvent; split
  · rfl
  · simp only; split <;> simp [setCtx]

@[simp] theorem logEvent_pages (s : State) (asid : BitVec 8) (src code : BitVec 16) (pay : BitVec 32) :
    (logEvent s asid src code pay).pages = s.pages := by
  unfold logEvent; split
  · rfl
  · simp only; split <;> simp [setCtx]

@[simp] theorem logEvent_arcs (s : State) (asid : BitVec 8) (src code : BitVec 16) (pay : BitVec 32) :
    (logEvent s asid src code pay).arcs = s.arcs := by
  unfold logEvent; split
  · rfl
  · simp only; split <;> simp [setCtx]

theorem sameMemory_touchPage (s : State) (page : Nat) : SameMemory s (touchPage s page) := by
  unfold touchPage
  split
  · exact .refl s
  · next p hp => exact .after (sameMemory_setPage s page p { p with lastActive := s.pkg.aocnt } hp rfl) rfl rfl rfl

theorem sameMemory_touchCell (s : State) (cell : Nat) : SameMemory s (touchCell s cell) := sameMemory_touchPage s _

@[simp] theorem touchPage_tasks (s : State) (page : Nat) : (touchPage s page).tasks = s.tasks := by unfold touchPage; split <;> rfl
@[simp] theorem touchPage_cells (s : State) (page : Nat) : (touchPage s page).cells = s.cells := by unfold touchPage; split <;> rfl
@[simp] theorem touchPage_arcs (s : State) (page : Nat) : (touchPage s page).arcs = s.arcs := by unfold touchPage; split <;> rfl
@[simp] theorem touchPage_phys (s : State) (page : Nat) : (touchPage s page).phys = s.phys := by unfold touchPage; split <;> rfl
@[simp] theorem touchCell_tasks (s : State) (cell : Nat) : (touchCell s cell).tasks = s.tasks := touchPage_tasks s _
@[simp] theorem touchCell_cells (s : State) (cell : Nat) : (touchCell s cell).cells = s.cells := touchPage_cells s _
@[simp] theorem touchCell_arcs (s : State) (cell : Nat) : (touchCell s cell).arcs = s.arcs := touchPage_arcs s _
@[simp] theorem touchCell_phys (s : State) (cell : Nat) : (touchCell s cell).phys = s.phys := touchPage_phys s _

/-! ### Arcs -/

theorem sameMemory_offer (s : State) (arc : Nat) (it : Item) (level : Option Nat) : SameMemory s (offer s arc it level) := by
  unfold offer
  split
  · exact .refl s
  · simp only
    split
    · split
      · split
        · exact .before (sameMemory_modInst _ _ _ fun _ => rfl) rfl rfl rfl
        · exact .of_eq rfl rfl rfl
      · exact .of_eq rfl rfl rfl
    · exact .of_eq rfl rfl rfl

/-- The arc offered to carries the item, stamped, at its end; no other arc changes. -/
theorem offer_arcs (s : State) (arc : Nat) (it : Item) (level : Option Nat) (a : Arc) (h : tget s.arcs arc = some a) (k : Nat) :
    tget (offer s arc it level).arcs k = if k = arc then some { a with
        ports := if isTeardown it then { (portStamp a it).2 with pClosed := true } else (portStamp a it).2
        queue := a.queue ++ [⟨(portStamp a it).1, false, level, .good⟩] } else tget s.arcs k := by
  unfold offer
  rw [h]
  simp only
  split
  · split
    · split <;> simp [setArc, modInst, tget_tput]
    · simp [setArc, tget_tput]
  · simp [setArc, tget_tput]

theorem sameMemory_addBalance (s : State) (asid : BitVec 8) (d : Int) : SameMemory s (addBalance s asid d) := .of_eq rfl rfl rfl

theorem sameMemory_clearMarkers (s : State) (arc : Nat) : SameMemory s (clearMarkers s arc) := by
  unfold clearMarkers
  split
  · exact .refl s
  · dsimp only
    generalize staleHeads _ _ = n
    split
    · exact .refl s
    · exact .of_eq rfl rfl rfl

theorem sameMemory_giveUp (s : State) (arc : Nat) : SameMemory s (giveUp s arc) := by
  unfold giveUp
  split
  · exact .refl s
  · split
    · exact .refl s
    · refine .trans ?_ (sameMemory_clearMarkers _ _)
      refine .before (sameMemory_touchCell _ _) ?_ ?_ ?_ <;> rfl

/-! ### Reservations -/

theorem releaseArcs_same (s : State) (l : List Nat) : (releaseArcs s l).phys = s.phys ∧ (releaseArcs s l).pages = s.pages ∧
    (releaseArcs s l).instances = s.instances ∧ (releaseArcs s l).tasks = s.tasks ∧ (releaseArcs s l).cells = s.cells ∧
    (releaseArcs s l).contexts = s.contexts ∧ (releaseArcs s l).chains = s.chains ∧ (releaseArcs s l).pkg = s.pkg := by
  induction l generalizing s with
  | nil => simp [releaseArcs]
  | cons k r ih => simpa [releaseArcs, modArc] using ih (modArc s k _)

/-- Each reservation of an arc is taken back once for each time it is named. -/
theorem releaseArcs_arcs (s : State) (l : List Nat) (k : Nat) : tget (releaseArcs s l).arcs k =
    (tget s.arcs k).map fun a => { a with reserved := a.reserved - l.count k } := by
  induction l generalizing s with
  | nil => simp [releaseArcs]
  | cons q r ih =>
    simp only [releaseArcs, ih, modArc, tget_tmod, List.count_cons]
    by_cases h : k = q
    · subst h; simp [Function.comp_def, Nat.sub_sub, Nat.add_comm]
    · simp [h, Ne.symm h]

theorem releasePushes_same (s : State) (asid : BitVec 8) (l : List Nat) : (releasePushes s asid l).phys = s.phys ∧
    (releasePushes s asid l).pages = s.pages ∧ (releasePushes s asid l).instances = s.instances ∧
    (releasePushes s asid l).tasks = s.tasks ∧ (releasePushes s asid l).cells = s.cells ∧
    (releasePushes s asid l).arcs = s.arcs ∧ (releasePushes s asid l).chains = s.chains ∧ (releasePushes s asid l).pkg = s.pkg := by
  induction l generalizing s with
  | nil => simp [releasePushes]
  | cons k r ih => exact ih (modFifo s asid k _)

theorem releasePops_same (s : State) (asid : BitVec 8) (l : List Nat) : (releasePops s asid l).phys = s.phys ∧
    (releasePops s asid l).pages = s.pages ∧ (releasePops s asid l).instances = s.instances ∧
    (releasePops s asid l).tasks = s.tasks ∧ (releasePops s asid l).cells = s.cells ∧
    (releasePops s asid l).arcs = s.arcs ∧ (releasePops s asid l).chains = s.chains ∧ (releasePops s asid l).pkg = s.pkg := by
  induction l generalizing s with
  | nil => simp [releasePops]
  | cons k r ih => exact ih (modFifo s asid k _)

theorem releaseCards_same (s : State) (l : List Nat) : (releaseCards s l).phys = s.phys ∧ (releaseCards s l).pages = s.pages ∧
    (releaseCards s l).instances = s.instances ∧ (releaseCards s l).tasks = s.tasks ∧ (releaseCards s l).cells = s.cells ∧
    (releaseCards s l).contexts = s.contexts ∧ (releaseCards s l).arcs = s.arcs ∧ (releaseCards s l).pkg = s.pkg := by
  induction l generalizing s with
  | nil => simp [releaseCards]
  | cons k r ih => simpa [releaseCards, modChain] using ih (modChain s k _)

theorem releaseCards_chains (s : State) (l : List Nat) (k : Nat) : tget (releaseCards s l).chains k =
    (tget s.chains k).map fun c => { c with reserved := c.reserved - l.count k } := by
  induction l generalizing s with
  | nil => simp [releaseCards]
  | cons q r ih =>
    simp only [releaseCards, ih, modChain, tget_tmod, List.count_cons]
    by_cases h : k = q
    · subst h; simp [Function.comp_def, Nat.sub_sub, Nat.add_comm]
    · simp [h, Ne.symm h]

/-- Releasing a firing's reservations changes arcs, chains and FIFO counts alone. -/
theorem releaseAll_same (s : State) (cell : Nat) (fr : Firing) : (releaseAll s cell fr).phys = s.phys ∧
    (releaseAll s cell fr).pages = s.pages ∧ (releaseAll s cell fr).instances = s.instances ∧
    (releaseAll s cell fr).tasks = s.tasks ∧ (releaseAll s cell fr).cells = s.cells ∧ (releaseAll s cell fr).pkg = s.pkg := by
  have a := releaseArcs_same s fr.resArcs
  have b := releasePushes_same (releaseArcs s fr.resArcs) (asidOf s cell) fr.resPush
  have c := releasePops_same (releasePushes (releaseArcs s fr.resArcs) (asidOf s cell) fr.resPush) (asidOf s cell) fr.resPop
  have d := releaseCards_same (releaseFifos (releaseArcs s fr.resArcs) (asidOf s cell) fr.resPush fr.resPop) fr.resCards
  simp only [releaseAll, releaseFifos] at *
  simp [a, b, c, d]

theorem releaseAll_arcs (s : State) (cell : Nat) (fr : Firing) (k : Nat) : tget (releaseAll s cell fr).arcs k =
    (tget s.arcs k).map fun a => { a with reserved := a.reserved - fr.resArcs.count k } := by
  simp only [releaseAll, releaseFifos, releaseCards_same, releasePops_same, releasePushes_same, releaseArcs_arcs]

theorem releaseAll_chains (s : State) (cell : Nat) (fr : Firing) (k : Nat) : tget (releaseAll s cell fr).chains k =
    (tget s.chains k).map fun c => { c with reserved := c.reserved - fr.resCards.count k } := by
  simp only [releaseAll, releaseFifos, releaseCards_chains, releasePops_same, releasePushes_same, releaseArcs_same]

/-! ### Traps, finishing, freezes -/

theorem sameMemory_takeTrapFrom (s : State) (src cell task : Nat) (info : TrapInfo) (ins : Nat) :
    SameMemory s (takeTrapFrom s src cell task info ins) := by
  unfold takeTrapFrom
  split
  · exact .refl s
  · next t ht =>
    cases t.firing with
    | none => exact .of_eq rfl rfl rfl
    | some fr =>
      have h := releaseAll_same s cell fr
      exact .of_eq h.1 h.2.1 h.2.2.1

theorem sameMemory_takeTrap (s : State) (cell task : Nat) (info : TrapInfo) (ins : Nat) : SameMemory s (takeTrap s cell task info ins) :=
  sameMemory_takeTrapFrom s cell cell task info ins

/-- The trapped task ends its firing; no other task changes, and no cell. -/
theorem takeTrapFrom_tasks (s : State) (src cell task : Nat) (info : TrapInfo) (ins : Nat) (t : Task) (h : tget s.tasks (cell, task) = some t)
    (k : Nat × Nat) : tget (takeTrapFrom s src cell task info ins).tasks k =
      if k = (cell, task) then some { t with
        state := .trapped, firing := none, pending := keptPending (tget s.cells cell) t ins, firings := t.firings + 1 }
      else tget s.tasks k := by
  unfold takeTrapFrom
  rw [h]
  simp only
  cases t.firing with
  | none => simp [queueTrap, setTask, modCtx, tget_tput]
  | some fr =>
    simp [queueTrap, setTask, modCtx, tget_tput, (releaseAll_same s cell fr).2.2.2.1]

@[simp] theorem takeTrapFrom_cells (s : State) (src cell task : Nat) (info : TrapInfo) (ins : Nat) :
    (takeTrapFrom s src cell task info ins).cells = s.cells := by
  unfold takeTrapFrom
  split
  · rfl
  · next t ht =>
    cases t.firing with
    | none => rfl
    | some fr => exact (releaseAll_same s cell fr).2.2.2.2.1

theorem giveBanks_same (s : State) (k : Nat × Nat) (l : List (Nat × Nat)) : (giveBanks s k l).phys = s.phys ∧
    (giveBanks s k l).pages = s.pages ∧ (giveBanks s k l).instances = s.instances ∧ (giveBanks s k l).tasks = s.tasks ∧
    (giveBanks s k l).cells = s.cells ∧ (giveBanks s k l).arcs = s.arcs ∧ (giveBanks s k l).contexts = s.contexts := by
  induction l generalizing s with
  | nil => simp [giveBanks]
  | cons b r ih => simpa [giveBanks, modBank] using ih (modBank s b _)

theorem sameMemory_finishTask (s : State) (cell task : Nat) : SameMemory s (finishTask s cell task) := by
  unfold finishTask
  split
  · exact .refl s
  · next t ht =>
    have h := giveBanks_same s (cell, task) t.banks
    exact .of_eq h.1 h.2.1 h.2.2.1

theorem sameMemory_continueTask (s : State) (cell task : Nat) : SameMemory s (continueTask s cell task) := by
  unfold continueTask
  split
  · exact .refl s
  · split
    · exact .of_eq rfl rfl rfl
    · exact sameMemory_finishTask s cell task

theorem sameMemory_beginFreeze (s : State) (pages : List Nat) : SameMemory s (beginFreeze s pages) :=
  ⟨rfl, map_tmap_same s.pages _ (·.mems) fun k v => by split <;> rfl, rfl⟩

theorem sameMemory_requestFreeze (s : State) (asid : BitVec 8) (pages : List Nat) (m : Bool) :
    SameMemory s (requestFreeze s asid pages m) := by
  unfold requestFreeze
  simp only
  split
  · exact .of_eq rfl rfl rfl
  · exact .before (sameMemory_beginFreeze _ pages) rfl rfl rfl

theorem sameMemory_frameFaulty (s : State) (page : Nat) (fault : PageFault) : SameMemory s (frameFaulty s page fault) := by
  unfold frameFaulty
  split
  · exact .refl s
  · next p hp =>
    cases p.frame with
    | none => exact .refl s
    | some fid =>
      dsimp only
      refine .trans ?_ (sameMemory_requestFreeze _ _ _ _)
      refine .before (.trans (sameMemory_logEvent _ _ _ _ _) (sameMemory_setPage _ page p _ ?_ ?_)) ?_ ?_ ?_
      · rw [logEvent_pages]; exact hp
      all_goals rfl

theorem sameMemory_controlUse (s : State) (u : Cur) : SameMemory s (controlUse s u) := by
  unfold controlUse
  simp only
  split
  · exact sameMemory_takeTrap ..
  · next i hi =>
    split
    · exact sameMemory_takeTrap ..
    split
    · exact sameMemory_takeTrap ..
    have h := releaseAll_same s u.cell u.fr
    refine .before (sameMemory_setInst _ _ i _ ?_ rfl) h.1 h.2.1 h.2.2.1
    simpa [setTask, h.2.2.1] using hi

theorem sameMemory_guardTransient (s : State) (u : Cur) : SameMemory s (guardTransient s u) :=
  .trans (sameMemory_logEvent s _ _ _ _) (sameMemory_modPage _ _ _ fun _ => rfl)

/-! ### Line buffers and writes (09 R233, R237) -/

theorem sameMemory_logUndo (s : State) (page g : Nat) : SameMemory s (logUndo s page g) :=
  sameMemory_modPage s page _ fun p => by split <;> rfl

theorem sameMemory_logUndos (s : State) (page : Nat) (l : List Nat) : SameMemory s (logUndos s page l) := by
  induction l generalizing s with
  | nil => exact .refl s
  | cons g r ih => exact .trans (sameMemory_logUndo s page g) (ih _)

theorem sameMemory_dropLine (s : State) (page g : Nat) : SameMemory s (dropLine s page g) := sameMemory_modPage s page _ fun _ => rfl

theorem sameMemory_fillLine (s : State) (page g : Nat) : SameMemory s (fillLine s page g) := sameMemory_modPage s page _ fun _ => rfl

theorem sameMemory_emptyLines (s : State) (page : Nat) : SameMemory s (emptyLines s page) := sameMemory_modPage s page _ fun _ => rfl

theorem sameMemory_refreshLine (s : State) (page : Nat) (w : Write) (g : Nat) : SameMemory s (refreshLine s page w g) :=
  sameMemory_modPage s page _ fun _ => rfl

theorem sameMemory_refreshLines (s : State) (page : Nat) (w : Write) (l : List Nat) :
    SameMemory s (refreshLines s page w l) := by
  induction l generalizing s with
  | nil => exact .refl s
  | cons g r ih => exact .trans (sameMemory_refreshLine s page w g) (ih _)

theorem sameMemory_dropLines (s : State) (page : Nat) (l : List Nat) : SameMemory s (dropLines s page l) := by
  induction l generalizing s with
  | nil => exact .refl s
  | cons g r ih => exact .trans (sameMemory_dropLine s page g) (ih _)

theorem sameMemory_syncLine (s : State) (page : Nat) (m : Mem) (l : Line) (g : Seg) : SameMemory s (syncLine s page m l g) := by
  unfold syncLine
  split
  · exact .refl s
  · exact sameMemory_dropLine ..

theorem sameMemory_readSeg (s : State) (page : Nat) (plain : Bool) (g : Seg) : SameMemory s (readSeg s page plain g).1 := by
  unfold readSeg
  dsimp only
  split
  · split
    · split
      · exact .refl s
      · exact sameMemory_fillLine ..
    · exact sameMemory_fillLine ..
    · exact sameMemory_syncLine ..
    · exact .refl s
  · exact .refl s

/-- Reading changes no memory. -/
theorem sameMemory_readSegs (s : State) (page : Nat) (plain : Bool) (l : List Seg) : SameMemory s (readSegs s page plain l).1 := by
  induction l generalizing s with
  | nil => exact .refl s
  | cons g r ih => exact .trans (sameMemory_readSeg s page plain g) (ih _)

/-- A write leaves the page's line buffer in step, and no memory but its own place. -/
theorem sameMemory_performWrite (s : State) (page : Nat) (w : Write) : SameMemory (applyAt s w) (performWrite s page w) := by
  unfold performWrite
  dsimp only
  split
  · split
    · exact sameMemory_dropLines ..
    · exact sameMemory_refreshLines ..
  · exact .refl _

/-- The other places keep their memory. -/
theorem memOf_setMem_ne (s : State) (sp sq : Space) (m : Mem) (h : sq ≠ sp) : memOf (setMem s sp m) sq = memOf s sq := by
  cases sp <;> cases sq <;> simp_all [memOf, setMem, modPage, modInst, tget_tmod]

/-- A place that exists holds the memory put there. -/
theorem memOf_setMem_self (s : State) (sp : Space) (m : Mem) (h : ∀ p, sp = .window p → (tget s.pages p).isSome)
    (hi : ∀ i, sp = .symbols i → (tget s.instances i).isSome) : memOf (setMem s sp m) sp = m := by
  cases sp with
  | phys => rfl
  | window p =>
    have := h p rfl
    cases ht : tget s.pages p <;> simp_all [memOf, setMem, modPage]
  | symbols i =>
    have := hi i rfl
    cases ht : tget s.instances i <;> simp_all [memOf, setMem, modInst]

theorem memOk_performWrite (s : State) (page : Nat) (w : Write) (h : s.memOk) : (performWrite s page w).memOk :=
  (sameMemory_performWrite s page w).memOk (memOk_applyAt s w h)

/-! ### The gate -/

/-- What an instruction's body leaves, where no state of its own changes a memory, leaves every memory. -/
theorem sameMemory_conclude (s : State) (u : Cur) (f : Fields) (scalar : Bool) (a : Act)
    (h : ∀ x, (∃ t, a = .trapWith x t) ∨ a = .pause x ∨ (∃ r fl, a = .done x r fl) → SameMemory s x) (t : State)
    (ht : conclude s u f scalar a = .next t) : SameMemory s t := by
  cases a with
  | trap i => cases ht; exact sameMemory_takeTrap ..
  | trapWith x i => cases ht; exact .trans (h x (.inl ⟨i, rfl⟩)) (sameMemory_takeTrap ..)
  | control => cases ht; exact sameMemory_controlUse s u
  | wait => cases ht; exact .refl s
  | pause x => cases ht; exact h _ (.inr (.inl rfl))
  | nullified => cases ht; exact .of_eq rfl rfl rfl
  | done x r fl => cases ht; exact .trans (h x (.inr (.inr ⟨r, fl, rfl⟩))) (.of_eq rfl rfl rfl)

end Sys2Proof.Machine
end

