-- ==== Sys2Proof/Tests/Slice0.lean ====
section
/-! SUPPORT. Tests: words of the spec's own encodings, ill-formed words, and for each statement states and operands that
meet its hypotheses, with the first effect checked there. -/

namespace Sys2Proof.Tests

open Sys2Proof Sys2Proof.Machine Sys2Proof.Claims

/-! ### A small machine -/

/-- A data token with one value in every lane. -/
def tk (m : Fmt) (v : Nat) : Token := { blankToken with lanes := broadcast (BitVec.ofNat 32 v), fmt := m }

/-- A data token with a list of lanes, zeros after them. -/
def tl (m : Fmt) (l : List Nat) : Token := { blankToken with lanes := Vector.ofFn fun i => BitVec.ofNat 32 (l.getD i.val 0), fmt := m }

/-- A token of one kind with lane 0 alone valid. -/
def kindTok (k : Kind) (v : Nat) : Token :=
  { blankToken with lanes := (Vector.replicate 16 0).set 0 (BitVec.ofNat 32 v), valid := 1, kind := k }

/-- A pointer in pair 0: its address and its bounds word. -/
def ptrTok (a : Nat) (w : BitVec 64) : Token :=
  { blankToken with
    lanes := Vector.ofFn fun i => if i.val < 2 then BitVec.ofNat 32 (a / 2 ^ (32 * i.val)) else 0
    valid := 3, fmt := Fmt.ptr, bounds := (Vector.replicate 8 0).set 0 w }

/-- An arc with `slots` slots, from a port to a port. -/
def wire (pc pp cc cp slots : Nat) (q : List SlotTok) : Arc :=
  { inst := 1, decl := 0, pCell := pc, pPort := pp, cCell := cc, cPort := cp, slots := slots, burst := 1, isPred := false
    weir := none, pEdge := none, cEdge := none, back := false
    ports := { pSeq := 0, pData := 0, headScale := 0x7F, pClosed := false, cE := 0, cData := 0, cClosed := false, gap := none
               dups := 0, awaiting := none }
    reserved := 0, queue := q, armed := false, recorded := [], occSum := 0, fullTime := 0 }

def heldTok (t : Token) : SlotTok := ⟨.data t, true, none, .good⟩
def offeredTok (t : Token) : SlotTok := ⟨.data t, false, none, .good⟩

/-- A producer's word that names slot `sl` of instruction `n`. -/
def feed (n : Nat) (sl : SlotCode) : IWord :=
  assemble 0x001 { pr := 0, ft := 0, mod := 0, t0 := 1#1 ++ sl ++ BitVec.ofNat 7 n, t1 := 0, imm := 0 }

/-- A header of a block of `n` instructions. -/
def header (n : Nat) : IWord := 0x5A#8 ++ BitVec.ofNat 7 (n - 1) ++ 0#49

/-- What stands around the instruction: memory, arcs, a tile at cell 2, a consumer at cell 1. -/
structure Around where
  kind : CellKind := .v
  arcs : Table Nat Arc := []
  cell : Cell → Cell := id
  task : Task → Task := id
  more : State → State := id

/-- A firing of task 0 of cell 0 whose block ends in the word `w`, its operands delivered, about to execute it. -/
def ready (e : Around) (w : IWord) (ops : List (SlotCode × Option Val)) : State :=
  let n := ops.length
  let words := (0, header (n + 1)) :: (1, (0 : IWord)) :: ((ops.map fun o => feed n o.1) ++ [w]).zipIdx.map fun x => (x.2 + 2, x.1)
  let fr := { plainFiring 0 with done := List.range n, got := ops.map fun o => (n, o.1, o.2) }
  e.more { State.reset with
    agenda := [.fire 0 0 n .ok], focus := some ⟨0, 0, n, .ok⟩
    contexts := [(1, plainContext 0)], instances := [(1, plainInstance 1)], pages := [(0, plainPage 1 1)]
    cells := [(0, e.cell (plainCell 0 1 e.kind words)), (1, plainCell 0 1 .v [(0, header 1)]),
      (2, { plainCell 0 1 .t [] with sx := 1, sy := 1 })]
    tasks := [((0, 0), e.task (plainTask 1 (some fr))), ((1, 0), { plainTask 1 none with state := .waiting })], arcs := e.arcs }

/-- Every condition of `Executes` holds of the state, decided. -/
def executesNow (s : State) (i : Instr) : Bool :=
  match opcodeOf i, cur s with
  | some (code, f), some u =>
    (match rowOf code with
     | none => false
     | some r =>
       let ra := readSlot u 0
       let rb := readSlot u 1
       let rp := readSlot u 2
       let rc := readSlot u 3
       wellFormed i && !u.t.frozen && !u.fr.done.contains u.ins && !slotsUnfilled ra rb rc rp && !(r.mo && moBlocked u f)
         && !slotsClash ra rb rc rp && !slotsMissing r f ra rb rc && !slotsNull (nullRuleOf i) ra rb rc
         && (match readPred f rp with
             | .always => true
             | .is p => !p.poison && prExecutes f p
             | _ => false)
         && !guarded u)
  | _, _ => false

/-- The instruction has executed in a next state. -/
def doneAfter (s : State) (i : Instr) : Bool :=
  match exec i s, cur s with
  | .next t, some u => ((tget t.tasks u.key).bind (·.firing)).any fun fr => fr.done.contains u.ins
  | _, _ => false

/-- `TRAP` ends its firing in a next state. -/
def endsAfter (s : State) (i : Instr) : Bool :=
  match i, exec i s, cur s with
  | .trap _, .next t, some u => (tget t.tasks u.key).any fun x => x.state == .trapped && x.firing.isNone
  | _, _, _ => false

/-- The word decodes to the opcode's instruction, which may execute in the state, and executes there. -/
def goes (code : Nat) (e : Around) (w : IWord) (ops : List (SlotCode × Option Val)) : Bool :=
  match decode w with
  | .ok i => (opcodeOf i).any (fun c => c.1 == code) && executesNow (ready e w ops) i &&
    (doneAfter (ready e w ops) i || endsAfter (ready e w ops) i)
  | .bad _ => false

/-- A word by opcode, format, modifier and immediate. -/
def op (code : BitVec 9) (ft : Fmt) (mod : BitVec 3) (imm : BitVec 24) : IWord :=
  assemble code { pr := 0, ft := ft, mod := mod, t0 := 0, t1 := 0, imm := imm }

def inA (t : Token) : SlotCode × Option Val := (0, some (.data t))
def inB (t : Token) : SlotCode × Option Val := (1, some (.data t))
def inC (t : Token) : SlotCode × Option Val := (3, some (.data t))

/-- An opcode's instruction meets, in some state, everything that the statements ask of that state and its operands, and it
goes on there. -/
def Meets (code : Nat) : Prop :=
  ∃ s i f u scalar o t, opcodeOf i = some (code, f) ∧ wellFormed i = true ∧ Executes code (nullRuleOf i) f s u scalar o ∧
    exec i s = .next t ∧ (doneAfter s i = true ∨ endsAfter s i = true)

theorem goes_next (s : State) (i : Instr) (h : (doneAfter s i || endsAfter s i) = true) : ∃ t, exec i s = .next t := by
  cases he : exec i s with
  | next t => exact ⟨t, rfl⟩
  | fault x => simp [doneAfter, endsAfter, he] at h
  | refused x => simp [doneAfter, endsAfter, he] at h

/-- What `goes` finds are the hypotheses of the statements about that instruction. -/
theorem meets_of_goes (code : Nat) (e : Around) (w : IWord) (ops : List (SlotCode × Option Val)) (h : goes code e w ops = true) :
    Meets code := by
  unfold goes at h
  split at h
  · next i hi =>
    simp only [Bool.and_eq_true] at h
    obtain ⟨⟨hcode, hx⟩, hd⟩ := h
    obtain ⟨t, ht⟩ := goes_next _ _ hd
    rw [Bool.or_eq_true] at hd
    unfold executesNow at hx
    split at hx
    · next code' f u ho hc =>
      obtain rfl : code' = code := by simpa [ho] using hcode
      split at hx
      · simp at hx
      · next r hr =>
        simp only [Bool.and_eq_true, Bool.not_eq_eq_eq_not, Bool.not_true] at hx
        obtain ⟨⟨⟨⟨⟨⟨⟨⟨⟨hw, h1⟩, h2⟩, h3⟩, h4⟩, h5⟩, h6⟩, h7⟩, h8⟩, h9⟩ := hx
        have hm : Awaits code' f (ready e w ops) u :=
          ⟨hc, h1, h2, h3, fun r' hr' => by rw [hr] at hr'; cases hr'; exact h4, h5,
            fun r' hr' => by rw [hr] at hr'; cases hr'; exact h6⟩
        split at h8
        · next hp =>
          exact ⟨_, i, f, u, false, ⟨slotToken (readSlot u 0), slotToken (readSlot u 1), slotToken (readSlot u 3), none⟩, t,
            ho, hw, ⟨hm, h7, rfl, rfl, rfl, .inl ⟨hp, rfl, rfl⟩, .inl h9⟩, ht, hd⟩
        · next p hp =>
          simp only [Bool.and_eq_true, Bool.not_eq_true'] at h8
          exact ⟨_, i, f, u, p.scalar, ⟨slotToken (readSlot u 0), slotToken (readSlot u 1), slotToken (readSlot u 3), some p⟩, t,
            ho, hw, ⟨hm, h7, rfl, rfl, rfl, .inr ⟨p, hp, h8.1, h8.2, rfl, rfl⟩, .inl h9⟩, ht, hd⟩
        · simp at h8
    · simp at hx
  · simp at h

/-! ### Every instruction executes in some state: the hypotheses of the statements about it hold there together -/

/-- Arcs on ports 0 and 1 of cell 0, a token waiting on port 1, and one to the tile of cell 2. -/
def plainWire : Around := { arcs := [(0, wire 0 0 1 0 2 []), (1, wire 1 1 0 0 2 [heldTok (tk Fmt.int32 7)]), (2, wire 0 1 2 0 2 [])] }

/-- A format that the class of a row admits. -/
def someFmt : FtClass → Fmt
  | .none => 0 | .any => 0x0A | .mem => 0x0A | .float => 1 | .fp32 => 1 | .int => 0x0A | .atomic => 0x0A | .conv => 2
  | .scl => 0x14 | .toint => 0x0A | .matrix => 2 | .cb => 9 | .cbany => 9 | .pred => 0x15 | .kv => 0x19 | .bitmap => 0x1A
  | .ptr => 0x1B | .one c => c | .two c _ => c

/-! ### Instructions that need more around them -/

/-- An `INT64` token of these numbers, pair by pair. -/
def pairs (l : List Nat) : Token := tl Fmt.int64 (l.flatMap fun n => [n % 2 ^ 32, n / 2 ^ 32])

/-- The local window's first byte; a bounds word of all permissions over the MiB of its address (15 R379, R381). -/
def home : Token := pairs [windowBase]
def around1M : BitVec 64 := 0xF000500000000001

/-- Bytes listed in rising order, the zeros left out. -/
def bytesAt (a : Nat) (l : List Byte) : List Host.Cell := (l.zipIdx.filter fun x => x.1 ≠ 0).map fun x => ⟨a + x.2, x.1⟩

def withPage (g : Page → Page) (s : State) : State := { s with pages := tmod s.pages 0 g }
def withContext (g : Context → Context) (s : State) : State := { s with contexts := tmod s.contexts 1 g }
def withInstance (g : Instance → Instance) (s : State) : State := { s with instances := tmod s.instances 1 g }
def withFiring (g : Firing → Firing) (t : Task) : Task := { t with firing := t.firing.map g }

/-- A group of two members, this context among them, with its sequencer here. -/
def grouped (s : State) : State :=
  withContext (fun x => { x with joined := [(0, 0, 2)] }) { s with collective := { s.collective with
    primary := some 0, numbers := [⟨0, 0, [(1, 0, 2)], [], .announced, false, false, false, .none⟩] } }

/-- A card of the collective engine for number 0 of group 0 (13 R362). -/
def collCard : Token := tl Fmt.raw [0x40000000]

def predOp (b : Bool) : SlotCode × Option Val := (2, some (.pred { poison := false, seq := 0, scalar := b, lp := if b then 0xFFFF else 0 }))
def steered (code : BitVec 9) : IWord := assemble code { pr := 3, ft := Fmt.int32, mod := 0, t0 := 0, t1 := 0, imm := 0 }

def operand (base : Nat) (fmt : Nat) : List Byte :=
  natLe 8 base ++ natLe 8 around1M.toNat ++ natLe 4 (fmt + 256) ++ List.replicate 44 0

/-- A contraction of one element in each operand (07 R217). -/
def contractBlock : List Byte :=
  natLe 4 0x01100000 ++ natLe 4 0 ++ natLe 4 1 ++ List.replicate 20 0 ++ operand (windowBase + 0x1000) 1 ++
    operand (windowBase + 0x2000) 1 ++ operand (windowBase + 0x3000) 1

def aChain : Chain :=
  { cell := 0, num := 0, task := 0, base := windowBase, cards := 4, w := 1, t := 0, q := 0, issued := 0, reserved := 1
    inFlight := [], finished := [], stopped := false }

def specials : List (Around × IWord × List (SlotCode × Option Val)) := [
  (plainWire, op 0x007 0 0 0, [inA (tl Fmt.uint32 [7])]),
  (plainWire, steered 0x00A, [inA (tk Fmt.int32 7), predOp true]),
  (plainWire, steered 0x00B, [inA (tk Fmt.int32 7), predOp true]),
  (plainWire, op 0x00C Fmt.int32 0 0, [inA (tk Fmt.int32 7), (1, none)]),
  (plainWire, op 0x03D Fmt.int32 0 0, [inA (tk Fmt.int32 7), inB (tk Fmt.int32 8), inC (tk Fmt.pred 1)]),
  (plainWire, op 0x045 Fmt.int32 0 0, [inA (tk Fmt.int32 7), inB (tk Fmt.pred 1)]),
  (plainWire, op 0x04B Fmt.int32 0 0, [inA (tk Fmt.int32 7), inB (tk Fmt.pred 1)]),
  (plainWire, op 0x04C Fmt.int32 0 0, [inA (tk Fmt.int32 7), inB (tk Fmt.pred 1)]),
  (plainWire, op 0x05C Fmt.int32 0 0, [inA (tk Fmt.int8 7), inB (tk Fmt.int8 7), inC (tk Fmt.int32 1)]),
  (plainWire, op 0x05D Fmt.int32 0 0, [inA (tk Fmt.int16 7), inB (tk Fmt.int16 7), inC (tk Fmt.int32 1)]),
  (plainWire, op 0x094 Fmt.fp32 0 0, [inA (tk Fmt.fp32 0x3F800000), inB (tk Fmt.int32 3)]),
  (plainWire, op 0x0A8 Fmt.int32 0 0, [inA (tk Fmt.fp32 0x3F800000)]),
  (plainWire, op 0x0A9 Fmt.fp32 0 0, [inA (tk Fmt.int32 3)]),
  (plainWire, op 0x0AA Fmt.bf16 0 0, [inA (tk Fmt.cb4 3), inB { kindTok Kind.codebook 0x3F80 with fmt := Fmt.cb4, valid := 0xFF }]),
  (plainWire, op 0x0AB Fmt.cb4 0 0, [inA (tk Fmt.bf16 0x3F80), inB { kindTok Kind.codebook 0x3F80 with fmt := Fmt.cb4, valid := 0xFF }]),
  (plainWire, op 0x0AE 0x14 0 0, [inA (tk Fmt.fp32 0x3F800000), inB (tk Fmt.uint32 0x7F)]),
  (plainWire, op 0x0AF 0x14 0 0, [inA (tk Fmt.fp32 0x3F800000)]),
  (plainWire, op 0x0B5 Fmt.fp32 0 0, [inA (tk Fmt.bf16 0x3F803F80), inB (tk Fmt.bf16 0x3F803F80), inC (tk Fmt.fp32 0)]),
  ({ plainWire with kind := .m }, op 0x0E4 Fmt.cb4 0 0, [inA { kindTok Kind.codebook 0x3F80 with fmt := Fmt.cb4, valid := 0xFF }]),
  ({ plainWire with task := fun t => { t with rdy := true } }, op 0x0E8 Fmt.fp32 0 0, [inA (kindTok Kind.steering 1)]),
  ({ plainWire with kind := .m, cell := fun c => { c with mat := { c.mat with routes := c.mat.routes.set 1 8 } } },
    op 0x0E9 Fmt.raw 0 0, [inA { kindTok Kind.steering 1 with fmt := Fmt.raw }]),
  (plainWire, op 0x0EC Fmt.fp32 0 0, [inA (tk Fmt.uint32 0)]),
  ({ plainWire with kind := .m }, op 0x0ED 0 0 0, [inA (tl Fmt.uint32 [8])]),
  (plainWire, op 0x140 Fmt.int32 0 1, [inA home, inB (tl Fmt.int32 [4, 8, 0])]),
  (plainWire, op 0x141 Fmt.int32 0 1, [inA home, inB (tl Fmt.int32 [4, 8, 0, 1])]),
  (plainWire, op 0x149 Fmt.int32 0 0, [inA (tk Fmt.bitmap 3), inB (tk Fmt.bitmap 2), inC (tk Fmt.int32 0)]),
  (plainWire, op 0x14A Fmt.keyval 0 0, [inA (tk Fmt.keyval 5), inB home]),
  (plainWire, op 0x14B Fmt.keyval 0 0, [inA (tk Fmt.keyval 5), inB home]),
  ({ plainWire with more := withPage fun p => { p with window := ⟨bytesAt 0 contractBlock, [2, 6, 10], []⟩ } },
    op 0x14C 0 0 0, [inA home]),
  (plainWire, op 0x14D Fmt.uint32 0 1, []),
  ({ plainWire with more := grouped, task := withFiring fun fr => { fr with asked := [1], answers := [(1, some 5)] } },
    op 0x160 Fmt.uint32 0 0, [inA (tk Fmt.uint32 3)]),
  ({ plainWire with more := grouped }, op 0x161 0 0 0, [inA collCard]),
  ({ plainWire with more := grouped }, op 0x162 0 0 0, [inA (tk Fmt.uint32 3)]),
  ({ plainWire with more := grouped }, op 0x163 Fmt.uint32 0 0, [inA (tk Fmt.uint32 3)]),
  ({ plainWire with more := grouped, task := withFiring fun fr => { fr with asked := [1], answers := [(1, some 0)] } },
    op 0x164 0 0 1, [inA (tl Fmt.uint32 [0, 2])]),
  ({ plainWire with more := grouped, task := withFiring fun fr => { fr with asked := [0], answers := [(0, some 0)] } },
    op 0x165 0 0 0, []),
  ({ plainWire with more := grouped, task := withFiring fun fr => { fr with asked := [0], answers := [(0, some 2)] } },
    op 0x166 Fmt.uint32 0 0, []),
  ({ plainWire with more := withContext fun x => { x with members := [(0, (0, some 1))] } }, op 0x172 0 0 0, [inA (tl Fmt.uint32 [0])]),
  (plainWire, op 0x173 0 0 1, []),
  (plainWire, op 0x194 Fmt.int64 0 0, [inA (ptrTok windowBase around1M)]),
  ({ plainWire with task := fun t => { t with seals := [1] } }, op 0x195 Fmt.ptr 0 1, [inA (ptrTok windowBase around1M)]),
  ({ plainWire with task := fun t => { t with seals := [1] } }, op 0x196 Fmt.ptr 0 1, [inA (ptrTok windowBase 0xF001500000000001)]),
  ({ plainWire with more := withInstance fun i => { i with loader := true } }, op 0x197 Fmt.ptr 0 0,
    [inA home, inB (pairs [64]), inC (tk Fmt.uint32 0xF)]),
  ({ plainWire with more := withInstance fun i => { i with sluices := [0] } }, op 0x1A3 0 0 0, [])]


/-- A range entry over the first 64 KiB at 0x10000, of a burst of CB4 codes, in memory that one leaf maps (15 R384, R387). -/
def bookRange (s : State) : State :=
  withContext (fun x => { x with ranges := [⟨0x10000, 0x20000, 0, 7#64 ||| (BitVec.ofNat 64 Fmt.cb4.toNat <<< 7) ||| (0x800#64 <<< 12)⟩] })
    { s with xlates := [⟨0, 1, 0, 0x200000, 0, true, true⟩] }

def chained (s : State) : State := { s with chains := [(0, aChain)] }
def banked (h : Option (Nat × Nat)) (s : State) : State := { s with banks := [((2, 0), ⟨[(0, 0)], 0, h⟩)] }
def fifoOne (s : State) : State := withContext (fun x => { x with fifos := x.fifos.set 0 ⟨1, 7, 0, 1, 0, []⟩ }) s

/-- The window's first byte in pair 0 alone. -/
def cellOne : Token := { home with valid := 3 }

def memories : List (Around × IWord × List (SlotCode × Option Val)) :=
  (([0x100, 0x11E].map fun k => (plainWire, op k Fmt.int32 0 0, [inA home])) ++
   ([0x101, 0x11F].map fun k => (plainWire, op k Fmt.int32 0 0, [inA home, inB (tk Fmt.int32 7)])) ++
   ([0x108, 0x109, 0x10A, 0x10B, 0x10C, 0x10D, 0x10E].map fun k => (plainWire, op k Fmt.int32 0 0, [inA cellOne, inB (tk Fmt.int32 7)])) ++
   ([0x110, 0x112, 0x11D].map fun k => (plainWire, op k Fmt.int32 0 0, [inA cellOne])) ++
   ([0x111, 0x121, 0x122].map fun k => (plainWire, op k Fmt.fp32 0 0, [inA cellOne, inB (tk Fmt.fp32 7)])) ++
   [(plainWire, op 0x102 Fmt.int32 0 0, [inA home, inB (tk Fmt.int32 7), inC (tk Fmt.uint32 0xF)]),
    (plainWire, op 0x103 Fmt.int32 0 0, [inA home, inC (tk Fmt.int32 8)]),
    (plainWire, op 0x104 Fmt.int32 0 0, [inA home, inB (tk Fmt.int32 7), inC (tk Fmt.int32 8)]),
    (plainWire, op 0x105 Fmt.int32 0 0, [inA home, inB (tk Fmt.int32 2)]),
    (plainWire, op 0x106 Fmt.int32 0 0, [inA home, inB (tk Fmt.int32 2), inC (tk Fmt.int32 8)]),
    (plainWire, op 0x107 0 0 0, [inA home]),
    (plainWire, op 0x10F Fmt.int32 0 0, [inA cellOne, inB (tk Fmt.int32 7), inC (tk Fmt.int32 8)]),
    ({ plainWire with more := bookRange }, op 0x120 Fmt.cb4 0 0, [inA (pairs [0x10000])]),
    (plainWire, op 0x113 0 0 0, []), (plainWire, op 0x114 0 0 7, []), (plainWire, op 0x115 0 0 7, []),
    ({ plainWire with more := banked none, task := fun t => { t with banks := [(2, 0)] } }, op 0x116 0 0 0, []),
    ({ plainWire with more := banked (some (0, 0)), task := fun t => { t with banks := [(2, 0)] } }, op 0x117 0 0 0, []),
    ({ plainWire with more := fifoOne, task := withFiring fun fr => { fr with resPush := [0] } }, op 0x118 0 0 0, []),
    ({ plainWire with more := fifoOne, task := withFiring fun fr => { fr with resPop := [0] } }, op 0x119 0 0 0, []),
    ({ plainWire with more := chained, task := withFiring fun fr => { fr with resCards := [0] } }, op 0x11A 0 0 0, [inA collCard]),
    ({ plainWire with more := chained }, op 0x11B 0 0 0, []), ({ plainWire with more := chained }, op 0x11C Fmt.int64 0 0, [])])


/-- What stands around the instruction of an opcode, its word and its operands. -/
def sample (code : Nat) : Around × IWord × List (SlotCode × Option Val) :=
  match (specials ++ memories).find? fun x => opOf x.2.1 == code with
  | some x => x
  | none =>
    match rowOf code with
    | none => (plainWire, 0, [])
    | some r =>
      let m := someFmt r.ft
      ({ plainWire with kind := if r.cell == .m then .m else .v }, op (BitVec.ofNat 9 code) m 0 0,
        (if r.req.testBit 0 then [inA (tk m 5)] else []) ++ (if r.req.testBit 1 then [inB (tk m 3)] else []) ++
          if r.req.testBit 3 then [inC (tk m 2)] else [])

def runs (code : Nat) : Bool := let x := sample code; goes code x.1 x.2.1 x.2.2

theorem meets_all (l : List Nat) (h : l.all runs = true) : ∀ c ∈ l, Meets c :=
  fun c hc => meets_of_goes c _ _ _ (List.all_eq_true.mp h c hc)

/-- Opcodes from `a` on. -/
def codes (a n : Nat) : List Nat := (List.range n).map (a + ·)

theorem witness_IntegerPairsStoreExactValue : ∀ c ∈ codes 0x020 6 ++ [0x028, 0x029, 0x059, 0x05A], Meets c := meets_all _ (by decide)
theorem witness_ShiftsAndBitFieldInsert : ∀ c ∈ codes 0x02F 5 ++ [0x042], Meets c := meets_all _ (by decide)
theorem witness_IntegerOneAndThreeOperands :
    ∀ c ∈ [0x026, 0x027, 0x034, 0x035, 0x036, 0x03F, 0x040, 0x041, 0x03E, 0x05B], Meets c := meets_all _ (by decide)
theorem witness_LogicOnWholeLanes : ∀ c ∈ codes 0x02A 5, Meets c := meets_all _ (by decide)
theorem witness_IntegerComparesGivePredicates : ∀ c ∈ codes 0x037 6, Meets c := meets_all _ (by decide)
theorem witness_SelectByPredicateLane : ∀ c ∈ [0x03D], Meets c := meets_all _ (by decide)
theorem witness_DotProductsAndAddresses : ∀ c ∈ [0x05C, 0x05D, 0x043], Meets c := meets_all _ (by decide)
theorem witness_LanesMoveWhole : ∀ c ∈ [0x044, 0x045, 0x048, 0x049, 0x04A, 0x04B, 0x04C], Meets c := meets_all _ (by decide)
theorem witness_PrefixSums : ∀ c ∈ [0x046, 0x047], Meets c := meets_all _ (by decide)
theorem witness_ReductionsCombineValidElements : ∀ c ∈ codes 0x04D 6, Meets c := meets_all _ (by decide)
theorem witness_PredicateLogic : ∀ c ∈ codes 0x053 6, Meets c := meets_all _ (by decide)
theorem witness_FloatPairsElementwise : ∀ c ∈ [0x080, 0x081, 0x082, 0x087, 0x08B, 0x08C, 0x0B4], Meets c := meets_all _ (by decide)
theorem witness_FloatFusedOperations : ∀ c ∈ codes 0x083 4 ++ [0x094, 0x0B5], Meets c := meets_all _ (by decide)
theorem witness_FloatOneOperandElementwise :
    ∀ c ∈ [0x088, 0x089, 0x08A, 0x0B3, 0x08D, 0x08E] ++ codes 0x095 6, Meets c := meets_all _ (by decide)
theorem witness_FloatComparesAndClasses : ∀ c ∈ codes 0x08F 5 ++ [0x0B8], Meets c := meets_all _ (by decide)
theorem witness_FloatReductionsUseFixedTree : ∀ c ∈ codes 0x09B 3, Meets c := meets_all _ (by decide)
theorem witness_ExactPairs : ∀ c ∈ codes 0x09E 3, Meets c := meets_all _ (by decide)
theorem witness_DoubleWordOperations : ∀ c ∈ codes 0x0A1 6 ++ [0x0B7], Meets c := meets_all _ (by decide)
theorem witness_Conversions : ∀ c ∈ codes 0x0A7 9, Meets c := meets_all _ (by decide)
theorem witness_ModesAndFlags : ∀ c ∈ [0x0B0, 0x0B1, 0x0B2, 0x0B6], Meets c := meets_all _ (by decide)
theorem witness_PortsRegistersAndConstantsRead : ∀ c ∈ codes 0x001 4, Meets c := meets_all _ (by decide)
theorem witness_TokensCarriedAndSidebands : ∀ c ∈ [0x008, 0x00A, 0x00B, 0x00F, 0x010, 0x011, 0x012], Meets c := meets_all _ (by decide)
theorem witness_MergeTakesTheOneValue : ∀ c ∈ [0x00C], Meets c := meets_all _ (by decide)
theorem witness_SendsWritesAndExitWaitForRetirement :
    ∀ c ∈ [0x005, 0x006, 0x007, 0x009, 0x00D, 0x00E], Meets c := meets_all _ (by decide)
theorem witness_MatrixInstructionsDefer : ∀ c ∈ codes 0x0E0 5 ++ [0x0E9, 0x0EA, 0x0EB, 0x0ED], Meets c := meets_all _ (by decide)
theorem witness_AccumulatorTile : ∀ c ∈ codes 0x0E5 4 ++ [0x0EC], Meets c := meets_all _ (by decide)
theorem witness_LoadsGiveWhatMemoryHolds : ∀ c ∈ [0x100, 0x11E, 0x103, 0x120], Meets c := meets_all _ (by decide)
theorem witness_GatherTakesIndexedElements : ∀ c ∈ [0x105], Meets c := meets_all _ (by decide)
theorem witness_StoresLeaveTheirBytesPending : ∀ c ∈ [0x101, 0x11F, 0x102, 0x104, 0x106], Meets c := meets_all _ (by decide)
theorem witness_AtomicsReadAndWriteEachElementOnce :
    ∀ c ∈ codes 0x108 11 ++ [0x11D, 0x121, 0x122], Meets c := meets_all _ (by decide)
theorem witness_FencesAcquiresReleasesAndPrefetch : ∀ c ∈ codes 0x113 3 ++ [0x107], Meets c := meets_all _ (by decide)
theorem witness_BankTokensAndFifos : ∀ c ∈ codes 0x116 4, Meets c := meets_all _ (by decide)
theorem witness_ChainsTakeCards : ∀ c ∈ codes 0x11A 3, Meets c := meets_all _ (by decide)
theorem witness_StreamInstructions : ∀ c ∈ codes 0x140 4 ++ [0x14D], Meets c := meets_all _ (by decide)
theorem witness_KeyValueAndBitmaps : ∀ c ∈ codes 0x144 6, Meets c := meets_all _ (by decide)
theorem witness_HashTablesAndContractions : ∀ c ∈ codes 0x14A 3, Meets c := meets_all _ (by decide)
theorem witness_PointerInstructions : ∀ c ∈ codes 0x190 8, Meets c := meets_all _ (by decide)
theorem witness_SchedulingAndReadOuts : ∀ c ∈ codes 0x170 12, Meets c := meets_all _ (by decide)
theorem witness_RecoveryInstructions : ∀ c ∈ codes 0x1A0 8, Meets c := meets_all _ (by decide)
theorem witness_CollectiveInstructions : ∀ c ∈ codes 0x160 7, Meets c := meets_all _ (by decide)

/-! ### Words written out in the spec's encodings, one or more of each family (02 R51-R56, 03 R71-R80) -/

theorem test_decode_dataflow : decode 0x053588320D000000 = .ok (.steer { pr := 3, ft := Fmt.int16, mod := 0, t0 := 0x20C, t1 := 0x20D, imm := 0 }) := by
  decide
theorem test_decode_predicated : decode 0x04250A4C00000000 = .ok (.mov { pr := 2, ft := Fmt.int32, mod := 0, t0 := 0x293, t1 := 0, imm := 0 }) := by
  decide
theorem test_decode_integer : decode 0x1C850A270E000000 = .ok (.cmplt { pr := 0, ft := Fmt.int32, mod := 0, t0 := 0x289, t1 := 0x30E, imm := 0 }) := by
  decide
theorem test_decode_float : decode 0x4180885400000000 = .ok (.fma { pr := 0, ft := Fmt.fp32, mod := 0, t0 := 0x215, t1 := 0, imm := 0 }) := by
  decide
theorem test_decode_matrix : decode 0x7280900000000030 = .ok (.acc { pr := 0, ft := Fmt.fp32, mod := 1, t0 := 0, t1 := 0, imm := 0x30 }) := by
  decide
theorem test_decode_memory : decode 0x80A0800000000000 = .ok (.st { pr := 2, ft := Fmt.fp32, mod := 0, t0 := 0, t1 := 0, imm := 0 }) := by
  decide
theorem test_decode_stream : decode 0xA485081400000002 = .ok (.bmpfx { pr := 0, ft := Fmt.int32, mod := 0, t0 := 0x205, t1 := 0, imm := 2 }) := by
  decide
theorem test_decode_collective : decode 0xB00C081400000007 = .ok (.clnum { pr := 0, ft := Fmt.uint32, mod := 0, t0 := 0x205, t1 := 0, imm := 7 }) := by
  decide
theorem test_decode_scheduling : decode 0xB980000000000006 = .ok (.tear { pr := 0, ft := 0, mod := 0, t0 := 0, t1 := 0, imm := 6 }) := by
  decide
theorem test_decode_pointer : decode 0xC98D8C1C00000004 = .ok (.pchk { pr := 0, ft := Fmt.ptr, mod := 0, t0 := 0x307, t1 := 0, imm := 4 }) := by
  decide
theorem test_decode_recovery : decode 0xD180100000000003 = .ok (.sluice { pr := 0, ft := 0, mod := 1, t0 := 0, t1 := 0, imm := 3 }) := by
  decide

theorem witness_DecodeWords : wordSamples.length = 5 := rfl
theorem witness_DecodeEncode : ∃ i w, wellFormed i = true ∧ encode i = some w ∧ decode w = .ok i :=
  ⟨.tear { pr := 0, ft := 0, mod := 0, t0 := 0, t1 := 0, imm := 6 }, 0xB980000000000006, by decide, by decide, by decide⟩

/-! ### What the checks refuse (03 R84) -/

/-- Check 1: opcode 0 is not assigned, nor is 0x013. -/
theorem test_refused_opcode : decode 0 = .bad .opcode ∧ decode (op 0x013 0 0 0) = .bad .opcode := by decide
/-- Check 3: `WRP` admits no `PR` 0b011. -/
theorem test_refused_pr : decode (assemble 0x005 { pr := 3, ft := Fmt.int32, mod := 0, t0 := 0, t1 := 0, imm := 0 }) = .bad .pr := by
  decide
/-- Check 4: `ADD` admits no FP32. -/
theorem test_refused_ft : decode (op 0x020 Fmt.fp32 0 0) = .bad .ft := by decide
/-- Check 5: `ADD` has `MOD` 0 and 1. -/
theorem test_refused_mod : decode (op 0x020 Fmt.int32 2 0) = .bad .modifier := by decide
/-- Check 6: `RDP` names a port below 8. -/
theorem test_refused_imm : decode (op 0x001 Fmt.int32 0 8) = .bad .imm := by decide

/-- An ill-formed term for each check: each is refused by `wellFormed`. -/
theorem test_illFormed :
    ([.wrp { pr := 3, ft := Fmt.int32, mod := 0, t0 := 0, t1 := 0, imm := 0 },
      .add { pr := 0, ft := Fmt.fp32, mod := 0, t0 := 0, t1 := 0, imm := 0 },
      .add { pr := 0, ft := Fmt.int32, mod := 2, t0 := 0, t1 := 0, imm := 0 },
      .rdp { pr := 0, ft := Fmt.int32, mod := 0, t0 := 0, t1 := 0, imm := 8 }] : List Instr).all (fun i => !wellFormed i) = true := by decide

/-! ### Values worked out by hand from the rules -/

/-- The lane of a result delivered to slot A of instruction `n`. -/
def delivered (s : State) (i : Instr) (n : Nat) : Option Token :=
  match exec i s with
  | .next t => ((tget t.tasks (0, 0)).bind (·.firing)).bind fun fr => fr.got.findSome? fun g =>
      match g with
      | (m, sl, some (.data x)) => if m = n ∧ sl = 0 then some x else none
      | _ => none
  | _ => none

/-- Lane 0 of what an instruction of two operands gives. -/
def lane0Of (code : BitVec 9) (ft : Fmt) (mod : BitVec 3) (ops : List (SlotCode × Option Val)) : Option Nat :=
  let w := assemble code { pr := 0, ft := ft, mod := mod, t0 := 0x200 + BitVec.ofNat 10 (ops.length + 1), t1 := 0, imm := 0 }
  match decode w with
  | .ok i => (delivered (ready plainWire w ops) i (ops.length + 1)).map fun t => (laneAt t 0).toNat
  | .bad _ => none

/-- 05 R133, R134: 0x7FFFFFFF + 1 wraps, and saturates under `.SAT`. -/
theorem test_add_wraps : lane0Of 0x020 Fmt.int32 0 [inA (tk Fmt.int32 0x7FFFFFFF), inB (tk Fmt.int32 1)] = some 0x80000000 := by decide
theorem test_add_saturates : lane0Of 0x020 Fmt.int32 1 [inA (tk Fmt.int32 0x7FFFFFFF), inB (tk Fmt.int32 1)] = some 0x7FFFFFFF := by decide
/-- 05 R135: −7 / 2 truncates to −3, and −7 rem 2 is −1. -/
theorem test_div : lane0Of 0x024 Fmt.int32 0 [inA (tk Fmt.int32 0xFFFFFFF9), inB (tk Fmt.int32 2)] = some 0xFFFFFFFD := by decide
theorem test_rem : lane0Of 0x025 Fmt.int32 0 [inA (tk Fmt.int32 0xFFFFFFF9), inB (tk Fmt.int32 2)] = some 0xFFFFFFFF := by decide
/-- 05 R146, 04 R108: 1 + 2⁻²⁴ is a tie, and rounds to the even 1. -/
theorem test_fadd_tie : lane0Of 0x080 Fmt.fp32 0 [inA (tk Fmt.fp32 0x3F800000), inB (tk Fmt.fp32 0x33800000)] = some 0x3F800000 := by decide
/-- 05 R146: rounding up gives the next number. -/
theorem test_fadd_up : lane0Of 0x080 Fmt.fp32 3 [inA (tk Fmt.fp32 0x3F800000), inB (tk Fmt.fp32 0x33800000)] = some 0x3F800001 := by decide
/-- 04 R110: the largest FP32 added to itself overflows to infinity. -/
theorem test_fadd_overflow : lane0Of 0x080 Fmt.fp32 0 [inA (tk Fmt.fp32 0x7F7FFFFF), inB (tk Fmt.fp32 0x7F7FFFFF)] = some 0x7F800000 := by decide
/-- 05 R138: the compare holds in every lane: bits 0 and 1. -/
theorem test_cmplt : lane0Of 0x039 Fmt.int32 0 [inA (tk Fmt.int32 0xFFFFFFFF), inB (tk Fmt.int32 0)] = some 3 := by decide
/-- 10 R263, R265: a load gives the bytes of memory, the lowest address in the low bits. -/
theorem test_ld_little_endian :
    (match decode (assemble 0x100 { pr := 0, ft := Fmt.int32, mod := 0, t0 := 0x202, t1 := 0, imm := 0 }) with
     | .ok i => (delivered (ready { plainWire with more := withPage fun p => { p with window := ⟨bytesAt 0 [1, 2, 3, 4], [], []⟩ } }
         (assemble 0x100 { pr := 0, ft := Fmt.int32, mod := 0, t0 := 0x202, t1 := 0, imm := 0 }) [inA home]) i 2).map
           fun t => (laneAt t 0).toNat
     | .bad _ => none) = some 0x04030201 := by decide

/-! ### States that meet the hypotheses of the statements about words, steps, waiting and traps -/

/-- The firing of a `NOP`, its turn next. -/
def nopNext : State := ready plainWire (op 0x012 0 0 0) []

theorem witness_StepTakesTheTurn_ok : ∃ (s : State), ∃ r n task ins g c t fr i, s.agenda = .fire n task ins g :: r ∧ tget s.cells n = some c ∧
    tget s.tasks (n, task) = some t ∧ t.firing = some fr ∧ ins < blockLen c fr.block ∧ decode (insWord c fr.block ins) = .ok i :=
  ⟨nopNext, [], 0, 0, 0, .ok, _, _, _, _, rfl, rfl, rfl, rfl, by decide, rfl⟩
theorem witness_StepTakesTheTurn_bad : ∃ (s : State), ∃ r n task ins g c t fr b, s.agenda = .fire n task ins g :: r ∧ tget s.cells n = some c ∧
    tget s.tasks (n, task) = some t ∧ t.firing = some fr ∧ ins < blockLen c fr.block ∧ decode (insWord c fr.block ins) = .bad b :=
  ⟨ready plainWire 0 [], [], 0, 0, 0, .ok, _, _, _, _, rfl, rfl, rfl, rfl, by decide, rfl⟩
theorem witness_StepTakesTheTurn_late : ∃ (s : State), ∃ r n task ins g, s.agenda = .fire n task ins g :: r ∧
    ∀ t fr, tget s.tasks (n, task) = some t → t.firing = some fr → ∀ c, tget s.cells n = some c → blockLen c fr.block ≤ ins :=
  ⟨{ State.reset with agenda := [.fire 0 0 0 .ok] }, [], 0, 0, 0, .ok, rfl, fun _ _ h => by simp [State.reset] at h⟩
theorem witness_StepTakesTheTurn_rest : (∃ s : State, ∃ r i a, s.agenda = .event i a :: r ∧ opcodeOf i = none) ∧
    (∃ s : State, ∃ r n, s.agenda = .elapse n :: r) ∧ ∃ s : State, s.agenda = [] :=
  ⟨⟨{ State.reset with agenda := [.event .notifyClear Args.none] }, [], _, _, rfl, rfl⟩,
    ⟨{ State.reset with agenda := [.elapse 5] }, [], 5, rfl⟩, ⟨State.reset, rfl⟩⟩

theorem witness_StepKeepsMemoryForm : ∃ (s : State), ∃ t, s.memOk = true ∧ step s = .next t :=
  ⟨{ State.reset with agenda := [.event .notifyClear Args.none] }, _, by decide, rfl⟩

theorem witness_FiringsChangeNothingBeforeRetirement : (∃ i, ∃ (s : State), ∃ t, opcodeOf i ≠ none ∧ exec i s = .next t ∧ ¬WritesAtOnce i) ∧
    ∃ i, ∃ (s : State), ∃ t, opcodeOf i ≠ none ∧ exec i s = .next t ∧ WritesAtOnce i :=
  ⟨⟨.nop ⟨0, 0, 0, 0, 0, 0⟩, nopNext, _, by decide, rfl, id⟩,
    ⟨.ainc ⟨0, Fmt.int32, 0, 0, 0, 0⟩, ready plainWire (op 0x112 Fmt.int32 0 0) [inA cellOne], _, by decide, rfl, trivial⟩⟩

theorem witness_TrapTaking : (∃ (s : State), ∃ t fr x, tget s.tasks (0, 0) = some t ∧ t.firing = some fr ∧ tget s.contexts (asidOf s 0) = some x) ∧
    ∃ (s : State), ∃ t, tget s.tasks (1, 0) = some t ∧ t.firing = none :=
  ⟨⟨nopNext, _, _, _, rfl, rfl, rfl⟩, ⟨nopNext, _, rfl, rfl⟩⟩

/-- The conditions of `Awaits`, and a further one. -/
def waiting (s : State) (i : Instr) (p : Fields → Cur → Bool) : Bool :=
  match opcodeOf i, cur s with
  | some (code, f), some u =>
    (match rowOf code with
     | none => false
     | some r =>
       let ra := readSlot u 0
       let rb := readSlot u 1
       let rp := readSlot u 2
       let rc := readSlot u 3
       !u.t.frozen && !u.fr.done.contains u.ins && !slotsUnfilled ra rb rc rp && !(r.mo && moBlocked u f)
         && !slotsClash ra rb rc rp && !slotsMissing r f ra rb rc) && p f u
  | _, _ => false

theorem waiting_spec (s : State) (i : Instr) (p : Fields → Cur → Bool) (h : waiting s i p = true) :
    ∃ code f u, opcodeOf i = some (code, f) ∧ cur s = some u ∧ Awaits code f s u ∧ p f u = true := by
  unfold waiting at h
  split at h
  · next code f u ho hc =>
    simp only [Bool.and_eq_true] at h
    obtain ⟨h, hp⟩ := h
    split at h
    · simp at h
    · next r hr =>
      simp only [Bool.and_eq_true, Bool.not_eq_eq_eq_not, Bool.not_true] at h
      obtain ⟨⟨⟨⟨⟨h1, h2⟩, h3⟩, h4⟩, h5⟩, h6⟩ := h
      exact ⟨code, f, u, ho, hc, ⟨hc, h1, h2, h3, fun r' hr' => by rw [hr] at hr'; cases hr'; exact h4, h5,
        fun r' hr' => by rw [hr] at hr'; cases hr'; exact h6⟩, hp⟩
  · simp at h

def addW : IWord := op 0x020 Fmt.int32 0 0
def addI : Instr := .add ⟨0, Fmt.int32, 0, 0, 0, 0⟩
def movT : Instr := .mov ⟨1, Fmt.int32, 0, 0, 0, 0⟩
def movW : IWord := assemble 0x008 ⟨1, Fmt.int32, 0, 0, 0, 0⟩
def predicate (po b : Bool) : SlotCode × Option Val := (2, some (.pred { poison := po, seq := 0, scalar := b, lp := 0xFFFF }))

/-- Each way an instruction does not execute its operation, in a state: a null operand, a null predicate and one that does not let
it, a poisoned predicate, a slot P that holds no predicate. -/
theorem witness_NullsPoisonAndWaits_awaiting :
    waiting (ready plainWire addW [inA (tk Fmt.int32 1), (1, none)]) addI
      (fun _ u => slotsNull .any (readSlot u 0) (readSlot u 1) (readSlot u 3)) = true ∧
    waiting (ready plainWire movW [inA (tk Fmt.int32 1), (2, none)]) movT (fun f u => match readPred f (readSlot u 2) with | .null => true | _ => false) = true ∧
    waiting (ready plainWire movW [inA (tk Fmt.int32 1), predicate false false]) movT
      (fun f u => match readPred f (readSlot u 2) with | .is p => !p.poison && !prExecutes f p | _ => false) = true ∧
    waiting (ready plainWire movW [inA (tk Fmt.int32 1), predicate true true]) movT
      (fun f u => match readPred f (readSlot u 2) with | .is p => p.poison | _ => false) = true ∧
    waiting (ready plainWire movW [inA (tk Fmt.int32 1), (2, some (.data (tk Fmt.int32 1)))]) movT
      (fun f u => match readPred f (readSlot u 2) with | .bad _ => true | _ => false) = true := by decide

/-- Each way it waits: its task frozen, its operation done, a slot not yet filled, a lower memory-order index outstanding. -/
theorem witness_NullsPoisonAndWaits_waiting :
    let at_ (s : State) (p : Cur → Bool) : Bool := match cur s with | some u => p u | none => false
    (let s := ready { plainWire with task := fun t => { t with frozen := true } } addW []
     at_ s (fun u => !mayGoOn s u)) = true ∧
    at_ (ready { plainWire with task := withFiring fun fr => { fr with done := [0] } } addW []) (fun u => u.fr.done.contains u.ins) = true ∧
    at_ (ready { plainWire with task := withFiring fun fr => { fr with got := [] } } addW [inA (tk Fmt.int32 1)])
      (fun u => slotsUnfilled (readSlot u 0) (readSlot u 1) (readSlot u 3) (readSlot u 2)) = true ∧
    at_ { ready plainWire (op 0x113 0 0 0) [] with
          cells := [(0, plainCell 0 1 .v [(0, header 2), (2, op 0x113 0 0 0x080000), (3, op 0x113 0 0 0)])] }
      (fun u => (rowOf 0x113).any (·.mo) && moBlocked u (fieldsOf (op 0x113 0 0 0x080000))) = true := by decide

/-- Two producers that delivered one slot. -/
theorem witness_NullsPoisonAndWaits_clash :
    let s := ready plainWire addW [inA (tk Fmt.int32 1), inA (tk Fmt.int32 1), inB (tk Fmt.int32 1)]
    (match cur s with
     | some u => mayGoOn s u && !u.fr.done.contains u.ins && !slotsUnfilled (readSlot u 0) (readSlot u 1) (readSlot u 3) (readSlot u 2) &&
        !(((rowOf 0x020).any (·.mo)) && moBlocked u (fieldsOf addW)) && slotsClash (readSlot u 0) (readSlot u 1) (readSlot u 3) (readSlot u 2)
     | none => false) = true := by decide

/-- A guarded firing's addition, its two computations not alike. -/
def mismatched (g : GuardHit) : State :=
  let s := ready { plainWire with task := withFiring fun fr => { fr with guard := 2 } } addW [inA (tk Fmt.int32 1), inB (tk Fmt.int32 1)]
  { s with focus := s.focus.map fun x => { x with guardHit := g }, pages := tmod s.pages 0 fun p => { p with frame := some ⟨0, 3, 3⟩ } }

theorem witness_NullsPoisonAndWaits_guard : ∀ g ∈ [GuardHit.once, .twice],
    ∃ code f u scalar o, opcodeOf addI = some (code, f) ∧ cur (mismatched g) = some u ∧
      Executes code (nullRuleOf addI) f (matching (mismatched g)) u scalar o ∧ guarded u = true ∧
      (mismatched g).focus.map (·.guardHit) = some g ∧ LanewiseOp addI ∧
      ∃ p fid, tget (mismatched g).pages u.c.page = some p ∧ p.frame = some fid := by
  intro g hg
  have h : g = .once ∨ g = .twice := by simpa using hg
  rcases h with rfl | rfl <;>
  exact ⟨_, _, _, false, ⟨some (tk Fmt.int32 1), some (tk Fmt.int32 1), none, none⟩, rfl, rfl,
    { focus := rfl, awake := rfl, once := by decide, filled := by decide
      inOrder := fun r h => by obtain rfl := Option.some.inj h; decide
      single := by decide, named := fun r h => by obtain rfl := Option.some.inj h; decide
      live := by decide, a := rfl, b := rfl, c := rfl, chosen := .inl ⟨rfl, rfl, rfl⟩, calm := .inr (.inl rfl) },
    by decide, rfl, trivial, _, _, rfl, rfl⟩

theorem witness_RoundToFollowsProcedure : ∃ (g : FpFmt) (m : Nat), isFormat g ∧ m ≠ 0 := ⟨.fp32, 1, ⟨Fmt.fp32, rfl⟩, by decide⟩
theorem witness_FloatExactArithmetic : Holds .fp32 [.inf true, .fin false 1 0] ∧
    (([Machine.Num.fin false 3 0, .fin true 1 0].map real).sum ≠ 0) :=
  ⟨⟨⟨Fmt.fp32, rfl⟩, by decide, fun _ => by decide⟩, by norm_num [real]⟩
theorem witness_Converted : ((bookNums { blankToken with fmt := Fmt.cb4 }).map Prod.fst).Pairwise (· < ·) := by decide
theorem witness_FloatValuesOfOneOperand : isFormat .fp32 ∧ FpFmt.fp32.style ≠ .finiteOnly ∧ (0x7FC00000 : Nat) < 2 ^ FpFmt.fp32.width ∧
    decodeNum .fp32 0x7FC00000 = .nan false ∧ decodeNum .fp32 0x7F800001 = .nan true ∧
    valueOf ⟨.fp32, .rne, false, false⟩ 0xBF800000 = .fin true 0x800000 (-23) := ⟨⟨Fmt.fp32, rfl⟩, by decide⟩
theorem witness_FloatExactPowers : valueOf ⟨.fp32, .rne, false, false⟩ 0x40000000 = .fin false 0x800000 (-22) ∧
    real (.fin false 0x800000 (-22)) = 2 ^ (1 : ℤ) ∧ real (.fin false 0x800000 (-22)) = (2 : ℤ) ∧
    1 - FpFmt.fp32.bias ≤ 2 ∧ 2 ≤ FpFmt.fp32.bias := ⟨by decide, by norm_num [real], by norm_num [real], by decide, by decide⟩
theorem witness_FloatSpecialValues : decodeNum .fp32 0 = .fin false 0 (-149) ∧ decodeNum .fp32 0x7F800000 = .inf false ∧
    decodeNum .fp32 0xFF800000 = .inf true := by decide
theorem witness_AtomicStep : placeExists (ready plainWire 0 []) (.window 0) := by unfold placeExists; decide

/-! ### States that meet the hypotheses of the statements about the part's events -/

/-- The small machine with no firing in flight: both tasks wait. -/
def calm : State := { nopNext with
  agenda := [], focus := none
  tasks := [((0, 0), { plainTask 1 none with state := .waiting }), ((1, 0), { plainTask 1 none with state := .waiting })] }

def at3 (i j k : Nat) : Args := { Args.none with i := i, j := j, k := k }
def told (a : Args) (s : State) : State := { s with args := a }
def withArc (k : Nat) (g : Arc → Arc) (s : State) : State := { s with arcs := tmod s.arcs k g }
def withTask0 (g : Task → Task) (s : State) : State := { s with tasks := tmod s.tasks (0, 0) g }
def withCell (k : Nat) (g : Cell → Cell) (s : State) : State := { s with cells := tmod s.cells k g }
def ported (g : PortState → PortState) (a : Arc) : Arc := { a with ports := g a.ports }

theorem calm_placed (k : Nat) (h : k < 3) : Placed calm k := by
  have : k = 0 ∨ k = 1 ∨ k = 2 := by omega
  rcases this with rfl | rfl | rfl <;> exact ⟨_, rfl, rfl, rfl, rfl, rfl⟩

theorem witness_FiringAndPortEvents_choice :
    (∃ s : State, ∃ c level n t, tget s.cells s.args.i = some c ∧ cellRuns s s.args.i = true ∧ s.pkg.idleChoices = false ∧
      (∀ kt, kt ∈ tasksOf s s.args.i → considered s s.args.i c kt.2 = none) ∧ nextChoice s s.args.i c = some (level, n) ∧
      tget s.tasks (s.args.i, n) = some t ∧ headsChecked s s.args.i (readPorts c t.block) = (s, .clear, 0) ∧ t.traps = [] ∧
      blockBad c t.block = false ∧ blockTrap (setPointer s s.args.i level (n + 1)) c t = none) ∧
    (∃ s : State, ∃ c n info, tget s.cells s.args.i = some c ∧ cellRuns s s.args.i = true ∧ s.pkg.idleChoices = false ∧
      ((tasksOf s s.args.i).findSome? fun kt => (considered s s.args.i c kt.2).map fun i => (kt.1, i)) = some (n, info)) ∧
    ∃ s : State, ∃ c, tget s.cells s.args.i = some c ∧ cellRuns s s.args.i = true ∧ s.pkg.idleChoices = true :=
  ⟨⟨calm, _, _, _, _, rfl, rfl, rfl, by decide, rfl, rfl, rfl, rfl, by decide, by decide⟩,
    ⟨withCell 0 (fun c => { c with store := [] }) calm, _, _, _, rfl, rfl, rfl, rfl⟩,
    ⟨{ calm with pkg := { calm.pkg with idleChoices := true } }, _, rfl, rfl, rfl⟩⟩

theorem witness_FiringAndPortEvents_accept :
    (∃ s : State, ∃ a x, tget s.arcs s.args.i = some a ∧ s.args.item = none ∧ a.ports.gap = none ∧ offeredHead a = some x ∧
      Placed s a.cCell ∧ pageStill s (pageIdOf s a.pCell) = false ∧ portClosed s a.cCell a.cPort = false ∧ arcClosed a = false ∧
      a.armed = false ∧
      spillOf s s.args.i a = none ∧ (heldCount a < a.slots ∨ a.slots = 0 ∧ heldCount a = 0) ∧
      (∀ y ∈ a.queue, isMarker y.item = false) ∧ isTeardown x.item = false) ∧
    (∃ s : State, ∃ a x p, tget s.arcs s.args.i = some a ∧ s.args.item = none ∧ a.ports.gap = none ∧ offeredHead a = some x ∧
      pageOf s a.cCell = some p ∧ p.returned = true ∧ pageStill s (pageIdOf s a.pCell) = false) ∧
    (∃ s : State, ∃ a, tget s.arcs s.args.i = some a ∧ s.args.item = none ∧ offeredHead a ≠ none ∧
      pageStill s (pageIdOf s a.pCell) = true) ∧
    ∃ s : State, ∃ x arc a it r, tget s.contexts s.args.asid = some x ∧ ∃ h : s.args.i < 16, x.spill[s.args.i].arc = some arc ∧
      x.spill[s.args.i].items = it :: r ∧ tget s.arcs arc = some a ∧ heldCount a < a.slots ∧ cellRuns s a.cCell = true ∧
      Placed s a.cCell ∧ it.held = true ∧ isMarker it.item = false ∧ isTeardown it.item = false ∧
      (∀ y ∈ a.queue, isMarker y.item = false) ∧ portClosed s a.cCell a.cPort = false ∧ arcClosed a = false :=
  ⟨⟨withArc 0 (fun a => { a with queue := [offeredTok (tk Fmt.int32 1)] }) calm, _, _, rfl, rfl, rfl, rfl,
      ⟨_, rfl, rfl, rfl, rfl, rfl⟩, by decide, by decide, by decide, rfl, by decide, by decide, by decide, by decide⟩,
    ⟨withPage (fun p => { p with returned := true }) (withArc 0 (fun a => { a with queue := [offeredTok (tk Fmt.int32 1)] }) calm),
      _, _, _, rfl, rfl, rfl, rfl, rfl, rfl, by decide⟩,
    ⟨withPage (fun p => { p with frozen := true }) (withArc 0 (fun a => { a with queue := [offeredTok (tk Fmt.int32 1)] }) calm),
      _, rfl, rfl, by decide, by decide⟩,
    ⟨told { Args.none with asid := 1 } (withContext (fun x => { x with
        spill := x.spill.set 0 ⟨some 0, false, false, [heldTok (tk Fmt.int32 1)]⟩ }) calm),
      _, _, _, _, _, rfl, by decide, rfl, rfl, rfl, by decide, by decide, ⟨_, rfl, rfl, rfl, rfl, rfl⟩, rfl, rfl, rfl, by decide,
      by decide, by decide⟩⟩

/-- An arc from the tile whose head waits for a replay of token 5, which the tile's window holds or does not. -/
def replaying (rs : List Replay) : State :=
  withCell 2 (fun c => { c with replay := rs }) { calm with
    arcs := [(0, ported (fun p => { p with awaiting := some 5 }) (wire 2 0 0 1 2 [heldTok (tk Fmt.int32 9)]))] }

theorem witness_FiringAndPortEvents_replay :
    (∃ s : State, ∃ a q h l r, tget s.arcs s.args.i = some a ∧ a.ports.awaiting = some q ∧ cellRuns s a.cCell = true ∧
      cellRuns s a.pCell = true ∧ a.queue = h :: l ∧ replayEntry s s.args.i a q = some r) ∧
    ∃ s : State, ∃ a q h l, tget s.arcs s.args.i = some a ∧ a.ports.awaiting = some q ∧ cellRuns s a.cCell = true ∧
      cellRuns s a.pCell = true ∧ a.queue = h :: l ∧ replayEntry s s.args.i a q = none ∧ h.held = true ∧ h.ecc ≠ .sideband :=
  ⟨⟨replaying [⟨0, 0, { tk Fmt.int32 3 with seq := 5 }, []⟩], _, _, _, _, _, rfl, rfl, by decide, by decide, rfl, rfl⟩,
    ⟨replaying [], _, _, _, _, rfl, rfl, by decide, by decide, rfl, rfl, rfl, by decide⟩⟩

theorem witness_FiringAndPortEvents_drain :
    (∃ s : State, ∃ c t, tget s.cells s.args.i = some c ∧ tget s.tasks (s.args.i, s.args.j) = some t ∧ cellRuns s s.args.i = true ∧
      t.firing = none ∧ (t.state = .waiting ∨ t.state = .finished) ∧ t.frozen = false ∧
      t.draining = false ∧ drainDue s s.args.i t = true ∧ (countMismatch s s.args.i c t = none ∨ t.state = .finished) ∧
      (holdsAny s (s.args.i, s.args.j) t.banks = false ∨ unperformed s (s.args.i, s.args.j) = [])) ∧
    ∃ s : State, ∃ c t, tget s.cells s.args.i = some c ∧ tget s.tasks (s.args.i, s.args.j) = some t ∧ cellRuns s s.args.i = true ∧
      t.firing = none ∧ (t.state = .waiting ∨ t.state = .finished) ∧ t.frozen = false ∧ t.draining = true ∧
      releaseLeft s t = false ∧ (taskOuts c t).filter (fun p => !(arcsFrom s s.args.i p).isEmpty) = [] :=
  ⟨⟨withTask0 (fun t => { t with ports := [0] }) (withArc 1 (ported fun p => { p with cClosed := true }) calm),
      _, _, rfl, rfl, by decide, rfl, .inl rfl, rfl, rfl, by decide, .inl (by decide), .inl rfl⟩,
    ⟨withTask0 (fun t => { t with draining := true }) calm, _, _, rfl, rfl, by decide, rfl, .inl rfl, rfl, rfl, by decide, by decide⟩⟩

theorem witness_FiringAndPortEvents_rest :
    (∃ s : State, ∃ c, tget s.cells s.args.i = some c ∧ c.kind = .t ∧ s.args.j < 4 ∧ cellRuns s s.args.i = true ∧
      (slotAt c s.args.j).state = .idle ∧ portClosed s s.args.i s.args.j = true ∧
      ∃ k a, (k, a) ∈ arcsFrom s s.args.i s.args.j ∧ tget s.arcs k = some a ∧ arcRoom s k a ≠ 0) ∧
    (∃ s : State, ∃ r c t, s.spawns[s.args.i]? = some r ∧ tget s.cells r.cell = some c ∧ tget s.tasks (r.cell, r.task) = some t ∧
      Placed s r.cell ∧ t.state = .finished ∧ countMismatch s r.cell c (restartTask t) = none) ∧
    (∃ s : State, ∃ r c t, s.spawns[s.args.i]? = some r ∧ tget s.cells r.cell = some c ∧ tget s.tasks (r.cell, r.task) = some t ∧
      Placed s r.cell ∧ t.state ≠ .drained ∧ t.state ≠ .finished) ∧
    ∃ s : State, s.args.i < 4 ∧ dieFitted s s.args.i = true ∧ s.args.j < 3 ∧ s.args.k < 16 ∧
      ∃ m e, edgeAcross s.args.i s.args.j = some (m, e) ∧ dieFitted s m = true :=
  ⟨⟨told (at3 2 0 0) ({ calm with arcs := [(2, ported (fun p => { p with cClosed := true }) (wire 0 1 2 0 2 [])), (3, wire 2 0 1 1 2 [])] }),
      _, rfl, rfl, by decide, by decide, rfl, by decide, 3, _, .head _, rfl, by decide⟩,
    ⟨withTask0 (fun t => { t with state := .finished }) { calm with spawns := [⟨1, 0, 0⟩] }, _, _, _, rfl, rfl, rfl,
      ⟨_, rfl, rfl, rfl, rfl, rfl⟩, rfl, by decide⟩,
    ⟨{ calm with spawns := [⟨1, 0, 0⟩] }, _, _, _, rfl, rfl, rfl, ⟨_, rfl, rfl, rfl, rfl, rfl⟩, by decide, by decide⟩,
    ⟨told (at3 3 2 15) calm, by decide, by decide, by decide, by decide, _, _, rfl, by decide⟩⟩

/-! Retirement -/

/-- A firing whose one instruction is done, with a register written and the exit chosen. -/
def doneFiring (g : Firing → Firing) (h : Nat → IWord) : State :=
  withCell 0 (fun c => { c with store := [(0, h 1), (1, 0), (2, op 0x012 0 0 0)] })
    { calm with tasks := [((0, 0), plainTask 1 (some (g { plainFiring 0 with done := [0], writes := [(3, tk Fmt.int32 1)] })))] }

theorem witness_RetirementEvents_retire :
    (∃ s : State, ∃ c t fr, tget s.cells s.args.i = some c ∧ tget s.tasks (s.args.i, s.args.j) = some t ∧ t.firing = some fr ∧
      mayRetire s (s.args.i, s.args.j) c t fr = true ∧ cellRuns s s.args.i = true ∧ closedSend s s.args.i c fr = none ∧
      tearMask fr = none ∧ brkOf fr = none ∧ exitValid (hExit (headerAt c fr.block) (fr.exit.getD 0)) = false ∧ t.restart = false) ∧
    (∃ s : State, ∃ c t fr, tget s.cells s.args.i = some c ∧ tget s.tasks (s.args.i, s.args.j) = some t ∧ t.firing = some fr ∧
      mayRetire s (s.args.i, s.args.j) c t fr = true ∧ cellRuns s s.args.i = true ∧ closedSend s s.args.i c fr = none ∧
      tearMask fr = none ∧ brkOf fr = none ∧ exitValid (hExit (headerAt c fr.block) (fr.exit.getD 0)) = true) ∧
    (∃ s : State, ∃ c t fr, tget s.cells s.args.i = some c ∧ tget s.tasks (s.args.i, s.args.j) = some t ∧ t.firing = some fr ∧
      mayRetire s (s.args.i, s.args.j) c t fr = true ∧ cellRuns s s.args.i = true ∧ closedSend s s.args.i c fr = none ∧
      tearMask fr = none ∧ (brkOf fr).isSome = true) ∧
    (∃ s : State, ∃ c t fr, tget s.cells s.args.i = some c ∧ tget s.tasks (s.args.i, s.args.j) = some t ∧ t.firing = some fr ∧
      mayRetire s (s.args.i, s.args.j) c t fr = true ∧ cellRuns s s.args.i = true ∧ closedSend s s.args.i c fr = none ∧
      (tearMask fr).isSome = true) ∧
    ∃ s : State, ∃ c t fr n, tget s.cells s.args.i = some c ∧ tget s.tasks (s.args.i, s.args.j) = some t ∧ t.firing = some fr ∧
      mayRetire s (s.args.i, s.args.j) c t fr = true ∧ cellRuns s s.args.i = true ∧ closedSend s s.args.i c fr = some n :=
  ⟨⟨doneFiring id header, _, _, _, rfl, rfl, rfl, by decide, by decide, by decide, by decide, by decide, by decide, rfl⟩,
    ⟨withCell 0 (fun c => { c with store := [(0, header 1), (1, 0x8040), (2, op 0x012 0 0 0)] }) (doneFiring id header),
      _, _, _, rfl, rfl, rfl, by decide, by decide, by decide, by decide, by decide, by decide⟩,
    ⟨doneFiring (fun fr => { fr with deferred := [(0, .brk 7)] }) header, _, _, _, rfl, rfl, rfl, by decide, by decide, by decide,
      by decide, by decide⟩,
    ⟨doneFiring (fun fr => { fr with deferred := [(0, .tear 1)] }) header, _, _, _, rfl, rfl, rfl, by decide, by decide, by decide,
      by decide⟩,
    ⟨withCell 0 (fun c => { c with store := [(0, header 1), (1, 0), (2, op 0x005 Fmt.int32 0 0)] })
        (withArc 0 (ported fun p => { p with pClosed := true })
          (doneFiring (fun fr => { fr with sends := [(0, .token (.data (tk Fmt.int32 1)))] }) header)),
      _, _, _, _, rfl, rfl, rfl, by decide, by decide, rfl⟩⟩

def aWrite : Pending := ⟨.write ⟨.window 0, [⟨5, 0xFF, 7⟩], [], false, false⟩, false, 0, 0, none, none, none⟩
def anAtomic : Pending := ⟨.atomic ⟨.window 0, 4, .add, Fmt.int32, 1, 0, false, false⟩, false, 0, 0, none, none, none⟩
/-- A write to memory of package 1, reached over Reach links. -/
def farWrite : Pending := ⟨.write ⟨.phys, [⟨2 ^ 48, 0xFF, 7⟩], [], false, false⟩, false, 0, 0, none, none, none⟩

/-- An acquire that a `FENCE` left (09 R239), and a card that counts in chain 0 as it is written (10 R299). -/
def anAcquire : Pending := { aWrite with access := .order true, acq := some 2 }
def aCard : Pending := { aWrite with card := some 0 }

/-- A state with one operation pending, told to make it arrive alone (`l` 1) or to apply it. -/
def pended (e : Pending) (l : Nat) (s : State) : State := told { Args.none with l := l } (withTask0 (fun t => { t with pending := [e] }) s)

/-- The operation `e` may arrive and be applied, is at home in this package, and stands as `x`. -/
def atHome (s : State) (e : Pending) (p : Prop) : Prop := ∃ t, tget s.tasks (s.args.i, s.args.j) = some t ∧
  t.pending[s.args.k]? = some e ∧ mayApply s (s.args.i, s.args.j) t s.args.k e = true ∧ trapAhead s s.args.i t e = false ∧
  s.args.flag = false ∧ entryDest s e = none ∧ p

/-- A domain of two packages (18 R450). -/
def linked (s : State) : State := { s with pkg := { s.pkg with domid := 0x100 } }

theorem witness_RetirementEvents_apply :
    (∀ e ∈ [aWrite, anAtomic], ∃ s, atHome s e (e.arrived = none ∧ mayArrive s e = true ∧ s.args.l = 1)) ∧
    (∀ e ∈ [aWrite, anAtomic], ∃ s x, atHome s e (e.arrived = none ∧ mayArrive s e = true ∧ s.args.l ≠ 1 ∧
      standingOf s.args.i { e with arrived := some (nextArrival s) } = some x ∧
      ∀ t, tget s.tasks (s.args.i, s.args.j) = some t → standsNext (setTask s (s.args.i, s.args.j)
        { t with pending := t.pending.set s.args.k { e with arrived := some (nextArrival s) } }) x = true)) ∧
    (∀ e ∈ [aWrite, anAtomic], ∃ s x, atHome s { e with arrived := some 7 }
      (s.args.l ≠ 1 ∧ standingOf s.args.i { e with arrived := some 7 } = some x ∧ standsNext s x = true)) ∧
    (∃ s, atHome s anAcquire (∃ l p, anAcquire.acq = some l ∧ 2 ≤ l ∧ tget s.pages (pageIdOf s s.args.i) = some p)) ∧
    (∃ s, atHome s aCard (∃ k c, aCard.card = some k ∧ tget s.chains k = some c)) ∧
    (∃ s : State, ∃ t e d, tget s.tasks (s.args.i, s.args.j) = some t ∧ t.pending[s.args.k]? = some e ∧
      mayApply s (s.args.i, s.args.j) t s.args.k e = true ∧ trapAhead s s.args.i t e = false ∧ isAtomic e = false ∧
      s.args.flag = false ∧ entryDest s e = some d) ∧
    (∃ s : State, ∃ o, s.outbound.find? (·.dest == s.args.i) = some o ∧ reachable s o.dest = true ∧
      homesOpen s .queue ((accessStart o.entry.access).toList.map fun x => ⟨0, 1, x.1, x.2⟩) = true) ∧
    ∃ s : State, s.memOk = true ∧ spaceExists s (.window 0) := by
  have both (p : Pending → Prop) (h : p aWrite) (h' : p anAtomic) : ∀ e ∈ [aWrite, anAtomic], p e := by
    simpa using ⟨h, h'⟩
  refine ⟨both _ ⟨pended aWrite 1 calm, _, rfl, rfl, by decide, by decide, rfl, by decide, rfl, by decide, rfl⟩
      ⟨pended anAtomic 1 calm, _, rfl, rfl, by decide, by decide, rfl, by decide, rfl, by decide, rfl⟩,
    both _ ⟨pended aWrite 0 calm, _, _, rfl, rfl, by decide, by decide, rfl, by decide, rfl, by decide, by decide, rfl, ?_⟩
      ⟨pended anAtomic 0 calm, _, _, rfl, rfl, by decide, by decide, rfl, by decide, rfl, by decide, by decide, rfl, ?_⟩,
    both _ ⟨pended { aWrite with arrived := some 7 } 0 calm, _, _, rfl, rfl, by decide, by decide, rfl, by decide, by decide, rfl, by decide⟩
      ⟨pended { anAtomic with arrived := some 7 } 0 calm, _, _, rfl, rfl, by decide, by decide, rfl, by decide, by decide, rfl, by decide⟩,
    ⟨pended anAcquire 0 calm, _, rfl, rfl, by decide, by decide, rfl, by decide, 2, _, rfl, by decide, rfl⟩,
    ⟨pended aCard 0 { calm with chains := [(0, aChain)] }, _, rfl, rfl, by decide, by decide, rfl, by decide, 0, _, rfl, rfl⟩,
    ⟨told Args.none (linked (withTask0 (fun t => { t with pending := [farWrite] }) calm)), _, _, 1, rfl, rfl, by decide, by decide, rfl, rfl,
      by decide⟩,
    ⟨told (at3 1 0 0) (linked { calm with outbound := [⟨1, 0, 0, farWrite⟩] }), _, rfl, by decide, by decide⟩,
    ⟨calm, by decide, by unfold spaceExists; decide⟩⟩ <;>
  · intro t ht; obtain rfl := Option.some.inj ht; decide

/-- A chain with one job in flight, a fill of the window's first 64 bytes with zeros (10 R297). -/
def fillCard : Vector Lane 16 := #v[0x11000000, 0, 0, 0, 0, 0, 0, 0, 0, 0, 0xFFC00000, 0x1FFFFFF, 64, 0, 0x01020304, 0]
def jobbed (chunks : List Nat) (fetched : List (Nat × List Byte × Bool)) : State :=
  { calm with chains := [(0, { aChain with issued := 1, t := 1, inFlight := [⟨0, fillCard, chunks, fetched, false, false⟩] })] }

/-- A context with tables from 0x1000 on, whose leaf at level 2 maps the first GiB (15 R386, R387). -/
def tabled : State := withContext (fun x => { x with word := 0x1000 }) { calm with
  phys := ⟨[⟨0x1000, 1⟩, ⟨0x1001, 0x20⟩, ⟨0x2000, 1⟩, ⟨0x2001, 0x30⟩, ⟨0x3000, 0xF⟩], [], []⟩ }

theorem witness_RetirementEvents_rest :
    (∃ s : State, ∃ ch j d, s.args.flag = true ∧ tget s.chains s.args.i = some ch ∧
      ch.inFlight.find? (·.n == s.args.j) = some j ∧ (parseCard j.card).eng ≠ 4 ∧ j.finished = false ∧ s.args.k ∉ j.chunks ∧
      s.args.k < chunkCount (parseCard j.card) ∧ j.fetched.find? (·.1 == s.args.k) = none ∧
      chunkData s (jobParty s ch) (parseCard j.card) s.args.k = .ok d ∧ s.args.l = 1 ∧ accessWaits s (.chain s.args.i) d.segs = false) ∧
    (∀ l : List (Nat × List Byte × Bool), l = [] ∨ l = [(0, List.replicate 64 9, false)] → ∃ s : State, ∃ ch j d segs, s.args.flag = true ∧
      tget s.chains s.args.i = some ch ∧ ch.inFlight.find? (·.n == s.args.j) = some j ∧ (parseCard j.card).eng ≠ 4 ∧ j.finished = false ∧
      s.args.k ∉ j.chunks ∧ s.args.k < chunkCount (parseCard j.card) ∧ j.fetched = l ∧
      (match j.fetched.find? (·.1 == s.args.k) with
       | some f => d = ⟨f.2.1, f.2.2, []⟩
       | none => chunkData s (jobParty s ch) (parseCard j.card) s.args.k = .ok d) ∧
      spanOf s (jobParty s ch) ⟨0, none⟩ Need.write (chunkSpan (parseCard j.card) s.args.k).1 (chunkSpan (parseCard j.card) s.args.k).2 =
        .ok segs ∧ s.args.l ≠ 1 ∧ accessWaits s (.chain s.args.i) (d.segs ++ segs) = false) ∧
    (∃ s : State, ∃ c t fr l, tget s.cells s.args.i = some c ∧ tget s.tasks (s.args.i, s.args.j) = some t ∧ t.firing = some fr ∧
      fr.relLevel = some l ∧ (∀ m, m < blockLen c fr.block → m ∈ fr.done ∨ ∀ k, moOf (insWord c fr.block m) = some k → fr.relMo ≤ k) ∧
      ∀ e, e ∈ (if l ≤ 5 then t.pending.filter fun e => !isOrder e else unperformed s (s.args.i, s.args.j)) → t.firings ≤ e.firing ∧ fr.relMo ≤ e.mo) ∧
    (∃ s : State, ∃ x m, dieFitted s s.args.i = true ∧ tget s.contexts s.args.asid = some x ∧
      inWindow (s.args.j % 2 ^ 57) = false ∧ inSymbols (s.args.j % 2 ^ 57) = false ∧ s.rangeHeld = [] ∧ x.ranges = [] ∧ s.xlates = [] ∧
      walkFrom s (s.args.j % 2 ^ 57) 5 (ctxPtRoot x.word) = some m) ∧
    (∃ s : State, ∃ x e, dieFitted s s.args.i = true ∧ tget s.contexts s.args.asid = some x ∧
      inWindow (s.args.j % 2 ^ 57) = false ∧ inSymbols (s.args.j % 2 ^ 57) = false ∧ s.rangeHeld = [] ∧
      x.ranges.find? (covers (s.args.j % 2 ^ 57)) = some e) ∧
    ∃ s : State, ∃ x r l, tget s.contexts s.args.asid = some x ∧ x.trapsDue = r :: l ∧
      (x.traps.wr - x.traps.rd).toNat + recordLen r ≤ 1024 :=
  ⟨⟨told { Args.none with flag := true, l := 1 } (jobbed [] []), _, _, _, rfl, rfl, rfl, by decide, rfl, by decide, by decide, rfl, rfl, rfl,
      by decide⟩,
    by
      rintro l (rfl | rfl)
      · exact ⟨told { Args.none with flag := true } (jobbed [] []), _, _, _, _, rfl, rfl, rfl, by decide, rfl, by decide, by decide, rfl, rfl,
          rfl, by decide, by decide⟩
      · exact ⟨told { Args.none with flag := true } (jobbed [] [(0, List.replicate 64 9, false)]), _, _, _, _, rfl, rfl, rfl, by decide, rfl,
          by decide, by decide, rfl, rfl, rfl, by decide, by decide⟩,
    ⟨doneFiring (fun fr => { fr with relLevel := some 7 }) header, _, _, _, _, rfl, rfl, rfl, rfl, by decide, by decide⟩,
    ⟨told { at3 0 0x234567 0 with asid := 1 } tabled, _, ⟨0, 2 ^ 30, 0, true, true⟩, by decide, rfl, by decide, by decide, rfl, rfl, rfl,
      by decide⟩,
    ⟨told { at3 0 0x10040 0 with asid := 1 } (bookRange calm), _, _, by decide, rfl, by decide, by decide, rfl, rfl⟩,
    ⟨told { Args.none with asid := 1 } (takeTrap calm 0 0 illop 0), _, _, _, rfl, rfl, by decide⟩⟩

/-! Streams and jobs -/

/-- A read of 8 INT32 elements of the window (07 R202). -/
def readCmd : StreamCmd :=
  { indirect := false, fmt := Fmt.int32, base := windowBase, bound := none, vbase := 0, vbound := none, stride := 4, len := 8
    write := false, eos := true, join := false, part := 0, idxSlot := 0, cell := 0, task := 0, poison := false }

/-- The tile, with arcs into its command, push and output ports. -/
def tiled (q : List SlotTok) : State := { calm with
  arcs := [(0, wire 0 1 2 0 2 q), (1, wire 2 0 0 0 2 []), (2, wire 0 2 2 4 2 [heldTok (tk Fmt.int32 3)]), (3, wire 2 1 0 1 2 [])] }
def command (m : StreamCmd) : SlotTok := ⟨.command m 0, true, none, .good⟩
def slotted (m : StreamCmd) (g : StreamSlot → StreamSlot) : State := told (at3 2 0 0) (withCell 2 (fun c => { c with
  slots := c.slots.set 0 (g { StreamSlot.idle with state := .running, cmd := some m, endDue := m.eos }) }) (tiled []))

theorem witness_StreamAndJobEvents_accept :
    (∃ s : State, ∃ c s1 k m q, tget s.cells s.args.i = some c ∧ c.kind = .t ∧ s.args.j < 4 ∧ cellRuns s s.args.i = true ∧
      (slotAt c s.args.j).state = .idle ∧ takeHead s s.args.i s.args.j = .some s1 k (.command m q) ∧ cmdArrived s1 m c.page = true ∧
      m.join = false ∧ (0 < m.len ∨ m.eos = true) ∧ ¬((m.write ∧ m.eos ∨ m.join) ∧ arcsFrom s s.args.i s.args.j = [] ∨
        m.indirect ∧ arcsFrom s s.args.i m.idxSlot ≠ [])) ∧
    (∃ s : State, ∃ c s1 k m q, tget s.cells s.args.i = some c ∧ c.kind = .t ∧ s.args.j < 4 ∧ cellRuns s s.args.i = true ∧
      (slotAt c s.args.j).state = .idle ∧ takeHead s s.args.i s.args.j = .some s1 k (.command m q) ∧ cmdArrived s1 m c.page = true ∧
      m.join = true ∧ joinPartner c s.args.j m = false ∧ arcsFrom s s.args.i s.args.j ≠ [] ∧ m.indirect = false) ∧
    ∃ s : State, ∃ c s1 k m q, tget s.cells s.args.i = some c ∧ c.kind = .t ∧ s.args.j < 4 ∧ cellRuns s s.args.i = true ∧
      (slotAt c s.args.j).state = .idle ∧ takeHead s s.args.i s.args.j = .some s1 k (.command m q) ∧ cmdArrived s1 m c.page = true ∧
      m.indirect = true ∧ arcsFrom s s.args.i m.idxSlot ≠ [] :=
  ⟨⟨told (at3 2 0 0) (tiled [command readCmd]), _, _, _, _, _, rfl, rfl, by decide, by decide, rfl, rfl, by decide, rfl, by decide,
      by decide⟩,
    ⟨told (at3 2 0 0) (tiled [command { readCmd with join := true, fmt := Fmt.keyval, part := 1 }]), _, _, _, _, _, rfl, rfl, by decide,
      by decide, rfl, rfl, by decide, rfl, by decide, by decide, rfl⟩,
    ⟨told (at3 2 0 0) (tiled [command { readCmd with indirect := true, idxSlot := 1 }]), _, _, _, _, _, rfl, rfl, by decide, by decide,
      rfl, rfl, by decide, rfl, by decide⟩⟩

/-- A slot that runs a command, with room on its output port. -/
def slotRuns (s : State) (p : StreamCmd → StreamSlot → Cell → Prop) : Prop := ∃ c m, tget s.cells s.args.i = some c ∧ s.args.j < 4 ∧
  (slotAt c s.args.j).cmd = some m ∧ (slotAt c s.args.j).state = .running ∧ cellRuns s s.args.i = true ∧
  slotRoom s s.args.i c s.args.j = true ∧ p m (slotAt c s.args.j) c

/-- A read that is not finished, the elements of its next token and their format. -/
def readsNext (s : State) (p : StreamCmd → StreamSlot → Cell → Fmt → List (Nat × Int × Nat) → Prop) : Prop := slotRuns s fun m x c =>
  slotFinished x = false ∧ m.write = false ∧ m.join = false ∧ m.indirect = false ∧
  p m x c (streamFmt s (streamParty s s.args.i m) m)
    ((List.range (min (streamWidth (streamFmt s (streamParty s s.args.i m) m)) (m.len - x.n))).map fun i =>
      (i, ((x.n + i : Nat) : Int) * m.stride, x.n + i))

theorem witness_StreamAndJobEvents_read :
    (∃ s, readsNext s fun m x c g elems => ∃ v words sc, StreamFormed s s.args.i s.args.j c m g elems v words sc ∧
      (madeNow s x (words ++ sc)).1.length = (madeNow s x (words ++ sc)).2.length ∧
      accessWaits s (tilePort s.args.i) (allSegs (madeNow s x (words ++ sc)).1) = false) ∧
    (∃ s, readsNext s fun m x c g elems => ∃ v words sc, StreamFormed s s.args.i s.args.j c m g elems v words sc ∧
      (madeNow s x (words ++ sc)).1.length ≠ (madeNow s x (words ++ sc)).2.length ∧
      accessWaits s (tilePort s.args.i) (allSegs (madeNow s x (words ++ sc)).1) = false) ∧
    (∃ s, readsNext s fun m x _ g elems => ∃ ka a words sc t cb segs,
      elemReads s (streamParty s s.args.i m) m g x.fill elems = .ok words ∧
      scaleReads s (streamParty s s.args.i m) (some (elemPlace (if g == Fmt.keyval then Fmt.uint32 else g) m.base
        ((x.n : Int) * m.stride)).1) = .ok sc ∧ outArc s s.args.i s.args.j = some (ka, a) ∧ tget s.arcs ka = some a ∧
      codebookDue s (streamParty s s.args.i m) g (elemPlace (if g == Fmt.keyval then Fmt.uint32 else g) m.base
        ((x.n : Int) * m.stride)).1 (tget x.lastCb ka) = some (.ok (t, cb, segs)) ∧ accessWaits s (tilePort s.args.i) segs = false) ∧
    (∃ s, slotRuns s fun _ x _ => slotFinished x = true ∧ x.endDue = true ∧
      ∃ ka a, outArc s s.args.i s.args.j = some (ka, a) ∧ tget s.arcs ka = some a) ∧
    (∃ s, slotRuns s fun m x c => ∃ t r v words sc, x.index = t :: r ∧ m.indirect = true ∧ slotFinished x = false ∧ t.kind = 0 ∧
      (t.fmt = Fmt.int32 ∨ t.fmt = Fmt.uint32) ∧ (let g := streamFmt s (streamParty s s.args.i m) m
        let two := isPair g || g == Fmt.keyval
        StreamFormed s s.args.i s.args.j c m g (((List.range (if two then 8 else 16)).filter (validAt t)).map fun i =>
          (i * (if two then 1 else perLane g), indexAt t i * m.stride, 16 * x.n + i)) v words sc) ∧
      (madeNow s x (words ++ sc)).1.length = (madeNow s x (words ++ sc)).2.length ∧
      accessWaits s (tilePort s.args.i) (allSegs (madeNow s x (words ++ sc)).1) = false) ∧
    ∃ s, slotRuns s fun m x _ => ∃ t r, x.index = t :: r ∧ m.indirect = true ∧ slotFinished x = false ∧
      ¬(t.kind = 0 ∧ (t.fmt = Fmt.int32 ∨ t.fmt = Fmt.uint32)) :=
  ⟨⟨slotted readCmd id, _, _, rfl, by decide, rfl, rfl, by decide, by decide, by decide, rfl, rfl, rfl, _, _, _,
      ⟨rfl, rfl, rfl, fun _ _ _ _ _ => rfl⟩, rfl, by decide⟩,
    ⟨(fun s => told { s.args with l := 1 } s) (slotted { readCmd with stride := 64 } id), _, _, rfl, by decide, rfl, rfl, by decide, by decide,
      by decide, rfl, rfl, rfl, _, _, _, ⟨rfl, rfl, rfl, fun _ _ _ _ _ => rfl⟩, by decide, by decide⟩,
    ⟨bookRange (slotted { readCmd with fmt := Fmt.cb4, base := 0x10000, stride := 1 } id), _, _, rfl, by decide, rfl, rfl, by decide,
      by decide, by decide, rfl, rfl, rfl, _, _, _, _, _, _, _, rfl, rfl, rfl, rfl, rfl, by decide⟩,
    ⟨slotted readCmd (fun x => { x with n := 8 }), _, _, rfl, by decide, rfl, rfl, by decide, by decide, by decide, rfl, _, _, rfl, rfl⟩,
    ⟨slotted { readCmd with indirect := true } (fun x => { x with index := [tl Fmt.int32 [2]] }), _, _, rfl, by decide, rfl, rfl, by decide,
      by decide, _, _, _, _, _, rfl, rfl, by decide, rfl, .inl rfl, ⟨rfl, rfl, rfl, fun _ _ _ _ _ => rfl⟩, rfl, by decide⟩,
    ⟨slotted { readCmd with indirect := true } (fun x => { x with index := [tk Fmt.fp32 2] }), _, _, rfl, by decide, rfl, rfl, by decide,
      by decide, _, _, rfl, rfl, by decide, by decide⟩⟩

/-- A write of a push token of 16 INT32 elements, 64 bytes apart, told to make one access (`l` 1) or all. -/
def pushing (l : Nat) : State := (fun s => told { s.args with l := l } s) (slotted { readCmd with write := true, eos := false, stride := 64 } id)

theorem witness_StreamAndJobEvents_push (made : Bool) :
    ∃ s : State, ∃ c m s1 k t l, tget s.cells s.args.i = some c ∧ s.args.j < 4 ∧ (slotAt c s.args.j).cmd = some m ∧
      (slotAt c s.args.j).state = .running ∧ m.write = true ∧ slotFinished (slotAt c s.args.j) = false ∧ cellRuns s s.args.i = true ∧
      takeHead s s.args.i (s.args.j + 4) = .some s1 k (.data t) ∧ t.kind = 0 ∧ t.fmt = m.fmt ∧ m.fmt ≠ Fmt.fromOperand ∧
      pushSpans s (streamParty s s.args.i m) m m.fmt (pushedElems m.fmt t (slotAt c s.args.j).n m.len) = .ok l ∧
      (let todo := (groupWrites (l.flatMap (pushPuts m.fmt t)) [] (t.poison || m.poison) false).drop (slotAt c s.args.j).wrote
       let now := if s.args.l = 1 then todo.take 1 else todo
       decide (now.length = todo.length) = made ∧ accessWaits s1 (tilePort s.args.i) (writeSegs now) = false) := by
  cases made
  · exact ⟨pushing 1, _, _, _, _, _, _, rfl, by decide, rfl, rfl, rfl, by decide, by decide, rfl, rfl, rfl, by decide, rfl, by decide,
      by decide⟩
  · exact ⟨pushing 0, _, _, _, _, _, _, rfl, by decide, rfl, rfl, rfl, by decide, by decide, rfl, rfl, rfl, by decide, rfl, by decide,
      by decide⟩

/-- Two slots joined, over keys 1 to 4 and 2 to 5. -/
def joined : State :=
  let m : StreamCmd := { readCmd with fmt := Fmt.keyval, join := true, part := 1, len := 4, vbase := windowBase + 0x1000, eos := false }
  let w : StreamCmd := { m with base := windowBase + 0x100, vbase := windowBase + 0x2000, part := 0 }
  told (at3 2 0 0) (withPage (fun p => { p with window := ⟨bytesAt 0 ([1, 2, 3, 4].flatMap (natLe 4)) ++
      bytesAt 256 ([2, 3, 4, 5].flatMap (natLe 4)), [], []⟩ }) (withCell 2 (fun c => { c with
        slots := (c.slots.set 0 { StreamSlot.idle with state := .running, cmd := some m }).set 1
          { StreamSlot.idle with state := .running, cmd := some w } }) (tiled [])))

/-- Two slots that are joined, the sides of their step, and their sources. -/
def joinsNext (s : State) (p : Cell → StreamCmd → StreamCmd → JoinSide → JoinSide → JoinSource → JoinSource → Prop) : Prop :=
  ∃ c m w, tget s.cells s.args.i = some c ∧ s.args.j < 4 ∧ m.part < 4 ∧ (slotAt c s.args.j).cmd = some m ∧
    (slotAt c m.part).cmd = some w ∧ m.join = true ∧ w.join = true ∧ w.part = s.args.j ∧ m.part ≠ s.args.j ∧
    (slotAt c s.args.j).state = .running ∧ (slotAt c m.part).state = .running ∧ cellRuns s s.args.i = true ∧
    slotRoom s s.args.i c s.args.j = true ∧ slotRoom s s.args.i c m.part = true ∧
    ((slotAt c s.args.j).n < m.len ∨ (slotAt c m.part).n < w.len) ∧
    p c m w ⟨streamParty s s.args.i m, m, (slotAt c s.args.j).fill⟩ ⟨streamParty s s.args.i w, w, (slotAt c m.part).fill⟩
      ⟨(slotAt c s.args.j).n, (slotAt c s.args.j).prevKey, 0, (slotAt c s.args.j).n⟩
      ⟨(slotAt c m.part).n, (slotAt c m.part).prevKey, 0, (slotAt c m.part).n⟩

theorem witness_StreamAndJobEvents_join :
    (∃ s, joinsNext s fun c m _ da db a b => ∃ x y ta tb ra rb, joinStep s (s.args.l == 1) da db 8 0 a b [] [] = .ok (x, y, ta, tb) ∧
      joinReads s da ta = .ok ra ∧ joinReads s db tb = .ok rb ∧ s.args.l ≠ 1 ∧
      (let left (d : JoinSide) (t : Taken) (l : List ElemRead) : List ElemRead :=
          l.filter fun e => !(laneFill t d.fill l).any (·.pos == e.pos)
       accessWaits s (tilePort s.args.i) (allSegs (seenReads s da (slotAt c s.args.j).n x ++ left da ta ra ++
        seenReads s db (slotAt c m.part).n y ++ left db tb rb)) = false)) ∧
    ∃ s, joinsNext s fun _ _ _ da db a b => ∃ second n, joinStep s (s.args.l == 1) da db 8 0 a b [] [] = .error (second, .need n) ∧
      (let e := if second then db else da
       accessWaits s (tilePort s.args.i) (allSegs (nextAccess ((keyReads s e 16 n).filter fun r => !e.fill.any (·.pos == r.pos)))) = false) :=
  ⟨⟨joined, _, _, _, rfl, by decide, by decide, rfl, rfl, rfl, rfl, rfl, by decide, rfl, rfl, by decide, by decide,
      by decide, by decide, _, _, _, _, _, _, rfl, rfl, rfl, by decide, by decide⟩,
    ⟨(fun s => told { s.args with l := 1 } s) joined, _, _, _, rfl, by decide, by decide, rfl, rfl, rfl, rfl, rfl, by decide, rfl, rfl,
      by decide, by decide, by decide, by decide, _, _, rfl, by decide⟩⟩

theorem witness_StreamAndJobEvents_chains :
    (∃ s : State, ∃ ch, tget s.chains s.args.i = some ch ∧ ch.stopped = false ∧ cellRuns s ch.cell = true ∧ ch.issued < ch.t ∧
      accessWaits s (.chain s.args.i) ((cardSegs s ch ch.issued).getD []) = false ∧
      malformed s ch (parseCard (cardAt s ch ch.issued)) = true) ∧
    (∃ s : State, ∃ ch, tget s.chains s.args.i = some ch ∧ ch.stopped = false ∧ cellRuns s ch.cell = true ∧ ch.issued < ch.t ∧
      accessWaits s (.chain s.args.i) ((cardSegs s ch ch.issued).getD []) = false ∧
      malformed s ch (parseCard (cardAt s ch ch.issued)) = false ∧ edgesHold ch (parseCard (cardAt s ch ch.issued)) = false ∧
      enginesBusy s ch (parseCard (cardAt s ch ch.issued)) = false ∧
      (parseCard (cardAt s ch ch.issued)).eng ≠ 4 ∧ (parseCard (cardAt s ch ch.issued)).pop = false) ∧
    (∃ s : State, ∃ ch j, tget s.chains s.args.i = some ch ∧ ch.inFlight.find? (·.n == s.args.j) = some j ∧ jobDone j = true ∧
      (∀ segs, sequenceSegs s ch = .ok segs → accessWaits s (.chain s.args.i) segs = false) ∧ (parseCard j.card).push = false) ∧
    ∃ s : State, ∃ x, tget s.contexts s.args.asid = some x ∧ ∃ h : s.args.i < 16, ∃ id n rest ch,
      x.fifos[s.args.i].duePushes = some (id, n) :: rest ∧ x.fifos[s.args.i].count + x.fifos[s.args.i].resPush < 64 ∧
      tget s.chains id = some ch :=
  ⟨⟨{ calm with chains := [(0, { aChain with t := 1 })] }, _, rfl, rfl, by decide, by decide, by decide, by decide⟩,
    ⟨withPage (fun p => { p with window := ⟨bytesAt 64 (payload fillCard), [], []⟩ }) { calm with chains := [(0, { aChain with t := 1 })] },
      _, rfl, rfl, by decide, by decide, by decide, by decide, by decide, by decide, by decide, by decide⟩,
    ⟨jobbed [0] [], _, _, rfl, rfl, by decide, fun _ h => by obtain rfl := Except.ok.inj h; decide, by decide⟩,
    ⟨told { Args.none with asid := 1 } (withContext (fun x => { x with fifos := x.fifos.set 0 ⟨63, 7, 0, 0, 0, [some (0, 0)]⟩ })
        (jobbed [0] [])), _, rfl, by decide, 0, 0, _, _, rfl, by decide, rfl⟩⟩

/-! Collectives, rows and release queues -/

/-- Context 1 a member of group 0 with its post of number 0, a card; the other member is of another package. -/
def posting (card : Token) (l : LocalNum) (a : Args) : State :=
  told a (withContext (fun x => { x with joined := [(0, 0, 2)], posts := [⟨0, 0, 0, none, 0, card.lanes, false, false⟩] })
    { calm with collective := { calm.collective with primary := some 0, numbers := [l] } })
abbrev posted := posting collCard
/-- A card that reads the window's first granule. -/
def readCard : Token := tl Fmt.raw [0x40000000, 0, 0xFFC00000, 0x1FFFFFF, 64, 0]
def gone : LocalNum := ⟨0, 0, [(1, 0, 2)], [], .announced, true, false, false, .none⟩

/-- A number whose members here have posted and may access what their cards name. -/
def executes (s : State) (p : LocalNum → List HereAt → List Seg → Prop) : Prop :=
  ∃ l, ∃ good : List HereAt, nextNum s.collective = some l ∧ l.state = .announced ∧
    l.go = true ∧ l.cancelNotice = false ∧ l.failNotice = false ∧ l.part.outs = none ∧
    (membersHere s l).length = l.members.length ∧ (∀ h ∈ membersHere s l, hereWaits s h = false) ∧
    (membersHere s l).map (fun h => (h, hereInput s h)) = good.map (fun x => (x.1, .ok x.2)) ∧
    p l good ((good.flatMap (·.2.1)).drop l.part.reads.length)

theorem witness_StreamAndJobEvents_collective :
    (∃ s, executes s fun l good left => membersHere s l ≠ [] ∧ ∃ inputs, s.args.l ≠ 1 ∧ l.part.wrote = 0 ∧
      allInputs (((membersHere s l).head?.map (·.size)).getD 0)
        (splitReads good (l.part.reads ++ left.map fun g => homeRead s [g])) s.args.others = some inputs ∧
      accessWaits s .collective (left ++ good.flatMap (·.2.2)) = false) ∧
    (∃ s, executes s fun _ _ left => ∃ g r, s.args.l = 1 ∧ left = g :: r ∧ accessWaits s .collective [g] = false) ∧
    (∃ s : State, ∃ l, nextNum s.collective = some l ∧ l.failNotice = true) ∧
    (∃ s : State, ∃ l, nextNum s.collective = some l ∧ l.failNotice = false ∧ l.state = .executing) ∧
    ∃ s : State, ∃ l, nextNum s.collective = some l ∧ l.failNotice = false ∧ l.state ≠ .executing ∧ l.cancelNotice = true := by
  refine ⟨⟨posted gone { Args.none with others := [(1, [], [])] }, _,
    [(⟨1, ⟨0, 0, 0, none, 0, collCard.lanes, false, false⟩, 0, 2, parseCard collCard.lanes⟩, [], [])], rfl, rfl, rfl, rfl, rfl, rfl, rfl,
    ?_, rfl, ?_, _, by decide, rfl, rfl, by decide⟩,
    ⟨posting readCard gone { Args.none with l := 1 }, _,
      [(⟨1, ⟨0, 0, 0, none, 0, readCard.lanes, false, false⟩, 0, 2, parseCard readCard.lanes⟩, [⟨0, 64, .window 0, 0⟩], [])],
      rfl, rfl, rfl, rfl, rfl, rfl, rfl, ?_, rfl, _, _, rfl, rfl, by decide⟩,
    ⟨posted ⟨0, 0, [], [], .announced, false, false, true, .none⟩ Args.none, _, rfl, rfl⟩,
    ⟨posted ⟨0, 0, [], [], .executing, true, false, false, .none⟩ Args.none, _, rfl, rfl, rfl⟩,
    ⟨posted ⟨0, 0, [], [], .announced, false, true, false, .none⟩ Args.none, _, rfl, rfl, by decide, rfl⟩⟩
  · intro h hh; obtain rfl : h = _ := List.mem_singleton.mp hh; rfl
  · exact List.cons_ne_nil _ _
  · intro h hh; obtain rfl : h = _ := List.mem_singleton.mp hh; rfl

/-- An M-cell at 0 with one row in flight that sends on port 0 and takes sums from port 1. -/
def rowed (r : Row) : State := { withCell 0 (fun c => { c with kind := .m, mat := { MState.empty with rows := [r] } }) calm with
  arcs := [(0, wire 0 0 1 0 2 []), (1, wire 1 1 0 1 2 [heldTok (tk Fmt.fp32 3)])] }
def aRow : Row := ⟨tk Fmt.bf16 0x3F80, none, none, 0, [], 3, 0, 0, 0⟩

theorem witness_RowsGiveExactSums :
    (∃ s : State, ∃ c r k a, s.args.k = 0 ∧ tget s.cells s.args.i = some c ∧ cellRuns s s.args.i = true ∧
      c.mat.rows[s.args.j]? = some r ∧ r.sent < 4 ∧ (∀ x ∈ c.mat.rows.take s.args.j, x.outPort ≠ r.outPort) ∧
      (r.chainPort = none ∨ r.sent < r.taken.length) ∧ outArc s s.args.i r.outPort = some (k, a) ∧ 0 < arcRoom s k a ∧
      a.ports.pClosed = false) ∧
    ∃ s : State, ∃ c r p k a h t, tget s.cells s.args.i = some c ∧ cellRuns s s.args.i = true ∧ c.mat.rows[s.args.j]? = some r ∧
      r.chainPort = some p ∧ r.taken.length < 4 ∧ (∀ x ∈ c.mat.rows.take s.args.j, x.chainPort = some p → 4 ≤ x.taken.length) ∧
      inArc s s.args.i p = some (k, a) ∧ tget s.arcs k = some a ∧ a.ports.awaiting = none ∧ a.queue.head? = some h ∧
      h.held = true ∧ h.ecc = .good ∧ h.item = .data t ∧ t.kind = 0 ∧ t.fmt = (if isIntGroup r.a.fmt then Fmt.int32 else Fmt.fp32) :=
  ⟨⟨rowed aRow, _, _, _, _, rfl, rfl, by decide, rfl, by decide, by decide, .inl rfl, rfl, by decide, rfl⟩,
    ⟨rowed { aRow with chainPort := some 1 }, _, _, _, _, _, _, _, rfl, by decide, rfl, rfl, by decide, by decide, rfl, rfl, rfl, rfl,
      rfl, rfl, rfl, rfl, by decide⟩⟩

theorem witness_AccumulatorTile_queue :
    ∃ s : State, ∃ t port tok level q rest n a, tget s.tasks (s.args.i, s.args.j) = some t ∧ t.relq = (port, tok, level, q) :: rest ∧
      (∀ x ∈ s.tasks, x.1.1 = s.args.i → ∀ e ∈ x.2.relq, e.1 = port → q ≤ e.2.2.2) ∧
      outArc s s.args.i port = some (n, a) ∧ cellRuns s s.args.i = true ∧ 0 < arcRoom s n a ∧ a.ports.pClosed = false :=
  ⟨withTask0 (fun t => { t with relq := [(0, tk Fmt.fp32 1, none, 4)] }) calm, _, _, _, _, 4, _, _, _, rfl, rfl, by decide, rfl, by decide,
    by decide, rfl⟩

/-! The sequencer -/

/-- The sequencer here: group 0 of two members, contexts 1 of package 0 and of package 1, or not yet formed. -/
def seqs (r : SeqRecords) : State := { calm with collective := { calm.collective with primary := some 0, records := r } }
def formed2 : SeqGroup := ⟨2, [(0, 0, 1), (1, 1, 1)]⟩
def ask (k : SeqReqKind) (s : State) : State := told { Args.none with req := some ⟨0, 1, 0, 0, 0, 0, k, false⟩ } s
def grp2 : SeqRecords := { SeqRecords.empty with groups := [(0, formed2)] }

theorem arrives_ask (k : SeqReqKind) (r : SeqRecords) : Arrives (ask k (seqs r)) ⟨0, 1, 0, 0, 0, 0, k, false⟩ := ⟨rfl, rfl, rfl, .inl rfl⟩

theorem witness_SequencerEvents_requests :
    (∃ s q, ∃ site inst : BitVec 32, Arrives s q ∧ q.kind = .number site inst ∧ groupFormed (seqGroup s.collective.records q.group) = true ∧
      groupHas (seqGroup s.collective.records q.group) q.pkg q.asid = true ∧
      (∀ k ∈ s.collective.records.keys, ¬(k.group = q.group ∧ k.site = site ∧ k.inst = inst)) ∧
      s.collective.records.keys.length < 65536 ∧ ¬TooFar s ∧
      q.pkg ∈ groupPkgs (seqGroup s.collective.records q.group)) ∧
    (∃ s q, ∃ site inst : BitVec 32, Arrives s q ∧ q.kind = .number site inst ∧ groupFormed (seqGroup s.collective.records q.group) = true ∧
      groupHas (seqGroup s.collective.records q.group) q.pkg q.asid = true ∧
      (∀ k ∈ s.collective.records.keys, ¬(k.group = q.group ∧ k.site = site ∧ k.inst = inst)) ∧ TooFar s) ∧
    (∃ s q, ∃ site inst : BitVec 32, ∃ k, Arrives s q ∧ q.kind = .number site inst ∧
      groupFormed (seqGroup s.collective.records q.group) = true ∧ groupHas (seqGroup s.collective.records q.group) q.pkg q.asid = true ∧
      s.collective.records.keys.find? (fun k => k.group == q.group && k.site == site && k.inst == inst) = some k) ∧
    (∃ s q, ∃ site inst : BitVec 32, Arrives s q ∧ q.kind = .number site inst ∧
      groupFormed (seqGroup s.collective.records q.group) = true ∧
      groupHas (seqGroup s.collective.records q.group) q.pkg q.asid = false) ∧
    (∃ s q m p, Arrives s q ∧ q.kind = .join m p ∧ 2 ≤ p ∧ p ≤ 4096 ∧ m < p ∧
      (seqGroup s.collective.records q.group).size = 0 ∧ (seqGroup s.collective.records q.group).members = []) ∧
    (∃ s q, Arrives s q ∧ q.kind = .leave ∧ groupHas (seqGroup s.collective.records q.group) q.pkg q.asid = true) ∧
    (∃ s q n, Arrives s q ∧ q.kind = .cancel n) ∧ (∃ s q n card, Arrives s q ∧ q.kind = .post n card) ∧
    ∃ s q k, Arrives s q ∧ q.kind = .query k :=
  ⟨⟨_, _, 5, 7, arrives_ask (.number 5 7) grp2, rfl, by decide, by decide, by decide, by decide, fun ⟨_, h, _⟩ => (by cases h), by decide⟩,
    ⟨_, _, 5, 7, arrives_ask (.number 5 7) { grp2 with next := 0x40000001, numbers := [⟨0, 0, [], false, false, false⟩] }, rfl, by decide, by decide,
      by decide, ⟨_, .head _, by decide, .inr (.inr ⟨rfl, rfl, rfl⟩)⟩⟩,
    ⟨_, _, 5, 7, _, arrives_ask (.number 5 7) { grp2 with keys := [⟨0, 5, 7, 3, []⟩] }, rfl, by decide, by decide, rfl⟩,
    ⟨_, _, 5, 7, arrives_ask (.number 5 7) { grp2 with groups := [(0, ⟨2, [(0, 0, 2), (1, 1, 1)]⟩)] }, rfl, by decide, by decide⟩,
    ⟨_, _, 4095, 4096, arrives_ask (.join 4095 4096) SeqRecords.empty, rfl, by decide, by decide, by decide, rfl, rfl⟩,
    ⟨_, _, arrives_ask .leave grp2, rfl, by decide⟩, ⟨_, _, 3, arrives_ask (.cancel 3) grp2, rfl⟩,
    ⟨_, _, 3, collCard.lanes, arrives_ask (.post 3 collCard.lanes) grp2, rfl⟩, ⟨_, _, 2, arrives_ask (.query 2) grp2, rfl⟩⟩

/-- The package that holds the sequencer, with a message on its channel and a number it knows. -/
def channelled (l : List SeqMsg) : State :=
  { seqs { grp2 with numbers := [⟨0, 0, [], true, false, false⟩, ⟨1, 0, [], false, true, false⟩] } with
    collective := { (seqs { grp2 with numbers := [⟨0, 0, [], true, false, false⟩, ⟨1, 0, [], false, true, false⟩] }).collective with
      channel := l, numbers := [⟨0, 0, [], [], .announced, false, false, false, .none⟩, ⟨1, 0, [], [], .announced, false, false, false, .none⟩]
      requests := [⟨0, 1, 0, 0, 0, 0, .leave, false⟩] }
    tasks := [((0, 0), plainTask 1 (some { plainFiring 0 with asked := [0] }))] }

theorem witness_SequencerEvents_package :
    (∃ s : State, ∃ n g b r, onPrimary s = true ∧ s.collective.channel = .announce n g b :: r ∧ localNum s n = none) ∧
    (∃ s : State, ∃ n g b r l, onPrimary s = true ∧ s.collective.channel = .announce n g b :: r ∧ localNum s n = some l ∧
      numDone l = true ∧ ∃ f, s.collective.lastFinished = some f ∧ ahead f n = true) ∧
    (∃ s : State, ∃ cell task ins v r q t fr, onPrimary s = true ∧ s.collective.channel = .answer cell task ins v :: r ∧
      s.collective.requests.find? (fun q => sameAsker q cell task ins) = some q ∧ tget s.tasks (cell, task) = some t ∧
      t.firing = some fr ∧ ins ∈ fr.asked ∧ q.late = false) ∧
    (∃ s : State, ∃ x l, onPrimary s = true ∧ s.collective.records.numbers.find? (·.number == s.args.n32) = some x ∧ x.go = true ∧
      localNum s s.args.n32 = some l ∧ numDone l = false ∧ l.cancelNotice = false) ∧
    ∃ s : State, ∃ l, onPrimary s = true ∧ (∃ x ∈ s.collective.records.numbers, x.number = s.args.n32 ∧ x.cancelled = true) ∧
      localNum s s.args.n32 = some l ∧ numDone l = false :=
  ⟨⟨channelled [.announce 2 0 false], _, _, _, _, by decide, rfl, rfl⟩,
    ⟨{ channelled [.announce 5 0 false] with collective := { (channelled [.announce 5 0 false]).collective with
        numbers := [⟨5, 0, [], [], .complete, true, false, false, .none⟩], lastFinished := some 0xFFFFFFFF } }, _, _, _, _, _, by decide, rfl,
      rfl, rfl, _, rfl, by decide⟩,
    ⟨channelled [.answer 0 0 0 4], _, _, _, _, _, _, _, _, by decide, rfl, rfl, rfl, rfl, by decide, rfl⟩,
    ⟨channelled [], _, _, by decide, rfl, rfl, rfl, rfl, rfl⟩,
    ⟨told { Args.none with n32 := 1 } (channelled []), _, by decide, ⟨⟨1, 0, [], false, true, false⟩, .tail _ (.head _), rfl, rfl⟩, rfl, rfl⟩⟩

theorem witness_SequencerEvents_losses :
    (∃ s : State, onStandby s = true ∧ onPrimary s = false ∧ 100000 ≤ (s.pkg.aocnt - s.collective.lastHeard).toNat) ∧
    (∃ s : State, ∃ p, s.collective.standby = some p ∧ onPrimary s = true ∧ onStandby s = false) ∧
    (∃ s : State, ∃ p, s.collective.standby = some p ∧ onPrimary s = false ∧ onStandby s = false) ∧
    (∃ s : State, ∃ q t fr, s.collective.primary.isSome = true ∧ s.collective.standby = none ∧ q ∈ s.collective.requests ∧
      classOf q = .leave ∧ tget s.tasks (q.cell, q.task) = some t ∧ t.firing = some fr ∧ q.ins ∈ fr.asked) ∧
    (∃ s : State, onPrimary s = true ∧ ∃ g q, (g, q) ∈ s.collective.records.groups ∧ ∃ m ∈ q.members, m.2.1 = s.args.i) ∧
    ∃ s : State, s.args.i < 12 :=
  let away (p b : Option Nat) (n : BitVec 64) : State :=
    { calm with pkg := { calm.pkg with aocnt := n }, collective := { calm.collective with primary := p, standby := b } }
  ⟨⟨away (some 1) (some 0) 100000, by decide, by decide, by decide⟩, ⟨away (some 0) (some 2) 0, 2, rfl, by decide, by decide⟩,
    ⟨away (some 1) (some 2) 0, 2, rfl, by decide, by decide⟩,
    ⟨channelled [], _, _, _, rfl, rfl, .head _, rfl, rfl, rfl, by decide⟩,
    ⟨told (at3 1 0 0) (seqs grp2), by decide, 0, formed2, .head _, (1, 1, 1), .tail _ (.head _), rfl⟩,
    ⟨told (at3 11 0 0) calm, by decide⟩⟩

/-! Errors, cuts, silence and ends -/

def struck (e : ErrorSite) (f : Bool) (s : State) : State := told { Args.none with site := some e, flag := f } s
def inst1 (s : State) : State := told { Args.none with n32 := 1 } s
def page0Frozen (s : State) : State := withPage (fun p => { p with frozen := true }) s
/-- A frame of die 0 that is tested, passed and exposed. -/
def withFrames (s : State) : State :=
  { s with pkg := { s.pkg with frames := [(⟨0, 3, 3⟩, ⟨true, true, true, false, false, 950, none⟩)] } }
/-- An image of cut 1 without anything in it. -/
def image1 : PageImage := ⟨1, [], [], [], 0, [], [], [], [], Mem.empty, false⟩
def broken : TrapInfo := ⟨.cutFail, 0, 0, 0, 0⟩

theorem no_free_frames (s : State) (h : s.pkg.frames = []) : freeFrames s = [] := by
  have : (allFrames s).filter (frameFree s) = [] := by simp [List.filter_eq_nil_iff, frameFree, frameAt, h]
  rw [freeFrames, this]; rfl

theorem mem_rotateLeft {α : Type} (l : List α) (n : Nat) (x : α) : x ∈ l.rotateLeft n ↔ x ∈ l := by
  show x ∈ (if l.length ≤ 1 then l else l.drop (n % l.length) ++ l.take (n % l.length)) ↔ _
  split
  · rfl
  · conv => rhs; rw [← List.take_append_drop (n % l.length) l]
    simp only [List.mem_append, or_comm]

theorem free_frames (s : State) (h : isFrame s ⟨0, 3, 3⟩ = true) (hf : frameFree s ⟨0, 3, 3⟩ = true) : ∃ f l, freeFrames s = f :: l := by
  have : (⟨0, 3, 3⟩ : FrameId) ∈ freeFrames s := by
    simp only [freeFrames, mem_rotateLeft, allFrames, dieFrames, List.mem_filter, List.mem_flatMap, List.mem_map, List.mem_range]
    exact ⟨⟨0, by omega, ⟨3, by omega, 3, by omega, rfl⟩, h⟩, hf⟩
  cases hl : freeFrames s with
  | nil => rw [hl] at this; cases this
  | cons f l => exact ⟨f, l, rfl⟩

/-- A page whose frame is found faulty, frozen. -/
def relocating : State := withPage (fun p => { p with frozen := true, faults := [⟨broken, 0, 0, 0xFF⟩, ⟨broken, 1, 0, 3⟩] }) calm

theorem witness_ErrorAndCutEvents_errors :
    (∃ s : State, ∃ g, s.args.site = some (.memory g) ∧ s.args.flag = true) ∧
    (∃ s : State, ∃ page g p f, s.args.site = some (.tile page g) ∧ s.args.flag = true ∧ tget s.pages page = some p ∧ p.frame = some f) ∧
    (∃ s : State, ∃ cell task k t x, s.args.site = some (.sreg cell task k) ∧ s.args.flag = true ∧ tget s.tasks (cell, task) = some t ∧
      ∃ h : k < 16, t.sregs[k] = some x) ∧
    (∃ s : State, ∃ cell task t, s.args.site = some (.accumulator cell task) ∧ s.args.flag = true ∧ tget s.tasks (cell, task) = some t) ∧
    (∃ s : State, ∃ cell task k t x, s.args.site = some (.release cell task k) ∧ tget s.tasks (cell, task) = some t ∧ t.relq[k]? = some x) ∧
    (∀ e ∈ [ErrorSite.codebook 0 true, .plane 0 false], ∃ s : State, ∃ c, s.args.site = some e ∧ s.args.flag = true ∧ tget s.cells 0 = some c) ∧
    (∃ s : State, ∃ page p, s.args.site = some (.cutBuffer page) ∧ s.args.flag = true ∧ tget s.pages page = some p ∧ p.images ≠ []) ∧
    (∃ s : State, ∃ page g p, s.args.site = some (.tile page g) ∧ s.args.flag = false ∧ tget s.pages page = some p) ∧
    (∃ s : State, ∃ page g p, s.args.site = some (.saved (.tile page g)) ∧ s.args.flag = true ∧ tget s.pages page = some p ∧
      p.frozen = true ∧ p.returned = false) ∧
    (∃ s : State, ∃ p e r f l, tget s.pages s.args.i = some p ∧ p.faults = e :: r ∧ r ≠ [] ∧ p.frozen = true ∧ freeFrames s = f :: l ∧
      ∀ d ∈ p.faults, (tget s.contexts (asidOf s d.cell)).isSome = true) ∧
    (∃ s : State, ∃ p e r t, tget s.pages s.args.i = some p ∧ p.faults = e :: r ∧ p.frozen = true ∧ freeFrames s = [] ∧
      tget s.tasks (e.cell, e.task) = some t ∧ t.state ≠ .trapped) ∧
    ∃ s : State, ∃ n r, freezeDone s [] s.freezes = some (n, r) ∧ r.byMailbox = true :=
  ⟨⟨struck (.memory 3) true calm, _, rfl, rfl⟩, ⟨struck (.tile 0 65535) true calm, _, _, _, _, rfl, rfl, rfl, rfl⟩,
    ⟨struck (.sreg 0 0 15) true (withTask0 (fun t => { t with sregs := t.sregs.set 15 (some (tk Fmt.int32 1)) }) calm),
      _, _, _, _, _, rfl, rfl, rfl, by decide, rfl⟩,
    ⟨struck (.accumulator 0 0) true calm, _, _, _, rfl, rfl, rfl⟩,
    ⟨struck (.release 0 0 0) true (withTask0 (fun t => { t with relq := [(0, tk Fmt.fp32 1, none, 4)] }) calm), _, _, _, _, _, rfl, rfl, rfl⟩,
    List.forall_mem_cons.mpr ⟨⟨struck (.codebook 0 true) true calm, _, rfl, rfl, rfl⟩,
      List.forall_mem_cons.mpr ⟨⟨struck (.plane 0 false) true calm, _, rfl, rfl, rfl⟩, fun _ h => by cases h⟩⟩,
    ⟨struck (.cutBuffer 0) true (withPage (fun p => { p with images := [image1] }) calm), _, _, rfl, rfl, rfl, List.cons_ne_nil _ _⟩,
    ⟨struck (.tile 0 65535) false calm, _, _, _, rfl, rfl, rfl⟩,
    ⟨struck (.saved (.tile 0 65535)) true (page0Frozen calm), _, _, _, rfl, rfl, rfl, rfl, rfl⟩,
    have ⟨f, l, h⟩ := free_frames (withFrames relocating) (by decide) (by decide)
    ⟨withFrames relocating, _, _, _, f, l, rfl, rfl, by decide, rfl, h, by decide⟩,
    ⟨relocating, _, _, _, _, rfl, rfl, rfl, no_free_frames _ rfl, rfl, by decide⟩,
    ⟨{ calm with freezes := [⟨1, [0], true⟩] }, _, _, rfl, rfl⟩⟩

theorem witness_ErrorAndCutEvents_cuts :
    (∃ s : State, ∃ i, tget s.instances s.args.n32 = some i ∧ i.cutNow = 0 ∧ i.ended = none ∧ i.cutOrdered = true) ∧
    (∃ s : State, ∃ p i, tget s.pages s.args.i = some p ∧ tget s.instances p.inst = some i ∧ i.cutNow ≠ 0 ∧ p.saved < i.cutNow ∧
      pageRuns s s.args.i = true ∧ aligned s s.args.i = true ∧ p.sourcePage = false ∧ mixedMarkers s s.args.i i.cutNow = false) ∧
    (∃ s : State, ∃ p i, tget s.pages s.args.i = some p ∧ tget s.instances p.inst = some i ∧ i.cutNow ≠ 0 ∧ p.saved < i.cutNow ∧
      pageRuns s s.args.i = true ∧ aligned s s.args.i = true ∧ p.sourcePage = false ∧ mixedMarkers s s.args.i i.cutNow = true) ∧
    (∃ s : State, ∃ i, tget s.instances s.args.n32 = some i ∧ i.cutNow ≠ 0 ∧
      (∀ kp ∈ pagesOf s s.args.n32, kp.2.returned = true ∨ i.cutNow ≤ kp.2.saved) ∧
      ∀ k a, (k, a) ∈ s.arcs → a.inst = s.args.n32 → a.back = true → backDone a i.cutNow = true) ∧
    (∃ s : State, ∃ i k, tget s.instances s.args.n32 = some i ∧ i.rollbackDue ≠ [] ∧ noRollback s s.args.n32 i = some k) ∧
    (∃ s : State, ∃ i, tget s.instances s.args.n32 = some i ∧ i.rollbackDue ≠ [] ∧ noRollback s s.args.n32 i = none ∧
      ∀ kp ∈ pagesOf s s.args.n32, kp.2.returned = true ∨ kp.2.frozen = true) ∧
    ∃ s : State, ∃ i, tget s.instances s.args.n32 = some i ∧ i.rollbackDue ≠ [] ∧ noRollback s s.args.n32 i = none ∧
      (let todo := ((pagesOf s s.args.n32).filter fun kp => !kp.2.returned && !kp.2.frozen && !kp.2.freezing).map (·.1)
       todo ≠ [] ∧ freezesMeet s.freezes todo = false) :=
  let from2 (s : State) : State := withArc 0 (fun a => { a with pCell := 3, queue := [⟨.control Kind.marker 1 0, true, none, .good⟩] })
    { s with pages := s.pages ++ [(1, plainPage 1 1)], cells := s.cells ++ [(3, plainCell 1 1 .v [])] }
  let only (s : State) : State := { s with arcs := s.arcs.take 1 }
  ⟨⟨inst1 (withInstance (fun i => { i with cutOrdered := true }) calm), _, rfl, rfl, rfl, rfl⟩,
    ⟨withInstance (fun i => { i with cutNow := 1 }) (only (from2 calm)), _, _, rfl, rfl, by decide, by decide, by decide, by decide,
      rfl, by decide⟩,
    ⟨withInstance (fun i => { i with cutNow := 2 }) (only (from2 calm)), _, _, rfl, rfl, by decide, by decide, by decide, by decide,
      rfl, by decide⟩,
    ⟨inst1 (withInstance (fun i => { i with cutNow := 1 }) (withPage (fun p => { p with saved := 1 }) { calm with arcs := [] })),
      _, rfl, by decide, by decide, fun k a h => by cases h⟩,
    ⟨inst1 (withInstance (fun i => { i with rollbackDue := [(0, 0, 0)] }) calm), _, _, rfl, List.cons_ne_nil _ _, rfl⟩,
    ⟨inst1 (withInstance (fun i => { i with rollbackDue := [(0, 0, 0)], lastCut := 1 })
        (withPage (fun p => { p with images := [image1], frozen := true }) calm)), _, rfl, List.cons_ne_nil _ _, rfl, by decide⟩,
    ⟨inst1 (withInstance (fun i => { i with rollbackDue := [(0, 0, 0)], lastCut := 1 }) (withPage (fun p => { p with images := [image1] }) calm)),
      _, rfl, List.cons_ne_nil _ _, rfl, by decide, by decide⟩⟩

/-- The clock at 4,000 counts, no end after the last activity. -/
def late (s : State) : State := { s with pkg := { s.pkg with aocnt := 4000 } }
/-- Arc 0 full, its producer waiting to send: a stalled edge. -/
def clogged : State :=
  late (withCell 0 (fun c => { c with store := [(0, header 1 ||| 0x200000000), (1, 0), (2, 0)] })
    { calm with arcs := [(0, wire 0 0 1 0 2 [heldTok (tk Fmt.int32 1), heldTok (tk Fmt.int32 1)])] })

theorem witness_SilenceAndEndEvents_silence :
    (∃ s : State, ∃ x, tget s.contexts s.args.asid = some x ∧ x.balanceKept = true ∧ x.launched = true ∧
      4000 ≤ (s.pkg.aocnt - x.lastActive).toNat ∧ contextBusy s s.args.asid x = false ∧
      (∀ k a, (k, a) ∈ s.arcs → arcInContext s s.args.asid a = true → a.armed = false) ∧
      (∀ k ∈ contextPages s s.args.asid, pageRuns s k = true) ∧
      ((((s.arcs.filter fun ka => arcInContext s s.args.asid ka.2).filter fun ka => insideParked s ka.2).map
        fun ka => tokensOn s ka.1 ka.2).sum : Int) < x.balance) ∧
    (∃ s : State, ∃ p x k a q, tget s.pages s.args.i = some p ∧ tget s.contexts p.asid = some x ∧ x.balanceKept = false ∧
      x.launched = true ∧ 4000 ≤ (s.pkg.aocnt - p.lastActive).toNat ∧ pageBusy s s.args.i p.asid x = false ∧
      watchSuspended s s.args.i = false ∧ (arcsAt s s.args.i).filter (fun ka => stalledEdge s ka.1 ka.2) ≠ [] ∧
      extensionIdle s s.args.i = false ∧
      leastEdge (((arcsAt s s.args.i).filter fun ka => stalledEdge s ka.1 ka.2).filter fun ka => (spillOf s ka.1 ka.2).isNone) =
        some (k, a) ∧ freeQueue s p.asid = some q ∧ q < 16) ∧
    ∃ s : State, ∃ p x, tget s.pages s.args.i = some p ∧ tget s.contexts p.asid = some x ∧ x.balanceKept = false ∧
      x.launched = true ∧ 4000 ≤ (s.pkg.aocnt - p.lastActive).toNat ∧ pageBusy s s.args.i p.asid x = false ∧
      watchSuspended s s.args.i = false ∧ (arcsAt s s.args.i).filter (fun ka => stalledEdge s ka.1 ka.2) ≠ [] ∧
      extensionIdle s s.args.i = true := by
  refine ⟨⟨told { Args.none with asid := 1 } (late (withContext (fun x => { x with balanceKept := true, balance := 1 })
      { calm with arcs := [(0, wire 0 0 1 0 2 [])] })), _, rfl, rfl, rfl, by decide, by decide, ?_, by decide, by decide⟩,
    ⟨clogged, _, _, _, _, _, rfl, rfl, rfl, rfl, by decide, by decide, by decide, by decide, by decide, rfl, rfl, by decide⟩,
    ⟨withContext (fun x => { x with spill := x.spill.set 0 ⟨some 1, true, false, []⟩ })
        { clogged with arcs := clogged.arcs ++ [(1, wire 1 1 0 1 2 [])] },
      _, _, rfl, rfl, rfl, rfl, by decide, by decide, by decide, by decide, by decide⟩⟩
  · intro k a h _; obtain ⟨rfl, rfl⟩ := Prod.mk.inj (List.mem_singleton.mp h); rfl

/-- A stage 0 of instance 1 with replicas 0 and 1, replica 1 draining, its page that of cell 0. -/
def staged : State :=
  inst1 (withInstance (fun i => { i with stages := [⟨0, 1, 2, [0, 1], some 1, 0, 0⟩] })
    (withPage (fun p => { p with stage := some 0, replica := 1 }) { calm with arcs := [] }))
/-- All that the instance ran is drained. -/
def drained : State :=
  { calm with arcs := [], tasks := [((0, 0), { plainTask 1 none with state := .drained }), ((1, 0), { plainTask 1 none with state := .finished })] }

theorem witness_SilenceAndEndEvents_ends :
    (∃ s : State, ∃ i st r, tget s.instances s.args.n32 = some i ∧ i.stages.find? (fun st => st.stage == s.args.i) = some st ∧
      i.ended = none ∧ st.nextAt.toNat ≤ s.pkg.aocnt.toNat ∧ (stageCluster s s.args.n32 st.stage).isSome = true ∧
      (let load := stageLoad s s.args.n32 i st.stage (s.pkg.aocnt - (st.nextAt - BitVec.ofNat 64 i.interval)).toNat
       load.1 = true ∧ load.2.2 = false) ∧ activeCount st < st.maxReplicas ∧ nextReplica st = some r) ∧
    (∃ s : State, ∃ i, tget s.instances s.args.n32 = some i ∧ (∃ st ∈ i.stages, st.stage = s.args.i ∧ st.draining = some s.args.j) ∧
      (let mine (cell : Nat) : Bool := (pageOf s cell).any fun p =>
        p.inst == s.args.n32 && p.stage == some s.args.i && p.replica == s.args.j
       (∀ ka ∈ stageIncoming s s.args.n32 s.args.i, mine ka.2.cCell = true → ownedQueue s ka.1 ka.2 = [] ∧ ka.2.reserved = 0) ∧
       ∀ kt ∈ s.tasks, mine kt.1.1 = true → kt.2.firing = none)) ∧
    (∃ s : State, ∃ p, tget s.pages s.args.i = some p ∧ p.returned = false ∧ pageIdle s s.args.i p = true) ∧
    (∃ s : State, ∃ i, tget s.instances s.args.n32 = some i ∧ i.ended = none ∧ instanceIdle s s.args.n32 i = true) ∧
    ∃ s : State, ∃ r l, s.pkg.endDue = r :: l ∧ (s.pkg.endwr - s.pkg.endrd).toNat < 256 :=
  ⟨⟨{ withInstance (fun i => { i with interval := 1000, high := 48, low := 16 }) staged with
        pkg := { calm.pkg with aocnt := 1000 }
        pages := (withPage (fun p => { p with replica := 0 }) staged).pages ++ [(1, plainPage 1 1)], cells := staged.cells ++ [(3, plainCell 1 1 .v [])]
        arcs := [(0, { wire 3 0 0 0 2 [] with occSum := 4000 }), (1, { wire 3 1 0 1 2 [] with occSum := 2000 })] }, _, _, 1, rfl, rfl, rfl,
      by decide, by decide, by decide, by decide, rfl⟩,
    ⟨told { at3 0 1 0 with n32 := 1 } staged, _, rfl, ⟨_, .head _, rfl, rfl⟩, by decide⟩,
    ⟨{ drained with tasks := [((0, 0), { plainTask 1 none with state := .drained })] }, _, rfl, rfl, by decide⟩,
    ⟨inst1 drained, _, rfl, rfl, by decide⟩,
    ⟨{ calm with pkg := { calm.pkg with endDue := [⟨0, 1, 1, 0⟩], endwr := 254, endrd := 255 - 256 } }, _, _, rfl, by decide⟩⟩

/-! System software -/

def mb (a : BitVec 8) (n : BitVec 32) (w0 w1 : BitVec 64) (s : State) : State :=
  { told { Args.none with asid := a, n32 := n, w0 := w0, w1 := w1 } s with
    agenda := [], pkg := { s.pkg with mailbox := { s.pkg.mailbox with arg0 := w0, arg1 := w1 } } }
def plainRec (c : TrapCode) (pages : List Nat) : TrapRec := ⟨0, 0, ⟨c, 0, 0, 0, 0⟩, 0, 0, 0, false, 0, 0, 0, [], pages⟩
/-- Context 1's trap ring holds one record, which its task is Trapped for. -/
def trappedFor (n : BitVec 64) (c : TrapCode) (g : Task → Task) : State :=
  mb 1 0 0 n (withContext (fun x => { x with traps := { x.traps with slots := [(0, plainRec c [0])] } })
    (withTask0 (fun t => g { t with state := .trapped }) calm))

theorem names_trappedFor (n : BitVec 64) (c : TrapCode) (g : Task → Task) (h : recordOpen (trappedFor n c g) (plainRec c [0]) = true) :
    ∃ x, Names (trappedFor n c g) x (plainRec c [0]) :=
  ⟨{ plainContext 0 with traps := { Ring.empty with slots := [(0, plainRec c [0])] } }, rfl, rfl, rfl, by cases c <;> rfl, h⟩

theorem witness_MailboxCommands_contexts :
    (∃ s : State, MbReady s ∧ s.contexts.length < 256 ∧ tget s.contexts (s.pkg.mailbox.arg0.setWidth 8) = none) ∧
    (∃ s : State, MbReady s ∧ (tget s.contexts (s.pkg.mailbox.arg0.setWidth 8)).isSome = true) ∧
    (∃ s : State, ∃ x, MbReady s ∧ tget s.contexts s.args.asid = some x ∧
      (∀ n i, (n, i) ∈ s.instances → i.asid = s.args.asid → i.ended.isSome = true) ∧ x.posts = [] ∧
      (∀ k p, (k, p) ∈ s.pages → p.asid = s.args.asid → p.returned = false → p.frame = none) ∧ scrubbed s s.args.asid = true) ∧
    (∃ s : State, ∃ x k p f, MbReady s ∧ tget s.contexts s.args.asid = some x ∧
      (∀ n i, (n, i) ∈ s.instances → i.asid = s.args.asid → i.ended.isSome = true) ∧ x.posts = [] ∧ tget s.pages k = some p ∧ p.asid = s.args.asid ∧
      p.returned = false ∧ p.frame = some f) ∧
    (∃ s : State, ∃ x g q, MbReady s ∧ tget s.contexts s.args.asid = some x ∧
      (∀ n i, (n, i) ∈ s.instances → i.asid = s.args.asid → i.ended.isSome = true) ∧ x.posts ≠ [] ∧
      s.collective.primary.isSome = true ∧ (g, q) ∈ x.joined) ∧
    (∃ s : State, ∃ x, MbReady s ∧ tget s.contexts s.args.asid = some x ∧
      ∃ n i, (n, i) ∈ s.instances ∧ i.asid = s.args.asid ∧ i.ended = none) ∧
    (∃ s : State, ∃ x i, MbReady s ∧ tget s.contexts s.args.asid = some x ∧ Running s i) ∧
    (∃ s : State, ∃ x, MbReady s ∧ tget s.contexts s.args.asid = some x ∧
      ¬(physExists (mbRunning s 0x03) s.pkg.mailbox.arg0.toNat = true ∧ packageOf s.pkg.mailbox.arg0.toNat = ownPackage (mbRunning s 0x03))) ∧
    ∃ s : State, ∃ x, MbReady s ∧ tget s.contexts s.args.asid = some x ∧
      (physExists (mbRunning s 0x03) s.pkg.mailbox.arg0.toNat = true ∧ packageOf s.pkg.mailbox.arg0.toNat = ownPackage (mbRunning s 0x03)) ∧
      requestOk (requestAt (mbRunning s 0x03) s.pkg.mailbox.arg0.toNat) = false :=
  ⟨⟨mb 0 0 2 0 calm, by unfold MbReady; decide, by decide, rfl⟩, ⟨mb 0 0 1 0 calm, by unfold MbReady; decide, rfl⟩,
    ⟨mb 1 0 0 0 { calm with instances := [], pages := [] }, _, by unfold MbReady; decide, rfl, (fun n i h => by cases h),
      rfl, (fun k p h => by cases h), by decide⟩,
    ⟨mb 1 0 0 0 { calm with instances := [] }, _, 0, _, _, by unfold MbReady; decide, rfl, (fun n i h => by cases h), rfl, rfl, rfl, rfl, rfl⟩,
    ⟨mb 1 0 0 0 { posted gone Args.none with instances := [] }, _, 0, _, by unfold MbReady; decide, rfl, (fun n i h => by cases h),
      List.cons_ne_nil _ _, rfl, .head _⟩,
    ⟨mb 1 0 0 0 calm, _, by unfold MbReady; decide, rfl, 1, _, .head _, rfl, rfl⟩,
    ⟨mb 1 0 1 0 calm, _, _, by unfold MbReady; decide, rfl, rfl, rfl, rfl, rfl⟩,
    ⟨mb 1 0 0xFFFFFFFFFFFFFFFF 0 calm, _, by unfold MbReady; decide, rfl, by decide⟩,
    ⟨mb 1 0 0 0 { calm with phys := ⟨[⟨0, 1⟩], [], []⟩ }, _, by unfold MbReady; decide, rfl, by decide, by decide⟩⟩

theorem witness_MailboxCommands_traps :
    (∃ s : State, ∃ x r t, MbReady s ∧ Names s x r ∧ r.info.code ≠ .stuck ∧ tget s.tasks (r.cell, r.task) = some t ∧
      s.pkg.mailbox.arg1.toNat % 4 = 0 ∧ (∀ c, tget s.cells r.cell = some c → countMismatch s r.cell c { t with block := t.block } = none) ∧
      r.info.code ≠ .seqGap ∧ r.info.code ≠ .brk) ∧
    (∃ s : State, ∃ x r t, MbReady s ∧ Names s x r ∧ tget s.tasks (r.cell, r.task) = some t ∧ r.info.code = .seqGap) ∧
    (∃ s : State, ∃ x r t a, MbReady s ∧ Names s x r ∧ tget s.tasks (r.cell, r.task) = some t ∧ r.info.code = .brk ∧ t.brkExit = some a ∧
      s.pkg.mailbox.arg1.toNat % 4 = 1 ∧ ∀ c, tget s.cells r.cell = some c → countMismatch s r.cell c { t with block := a } = none) ∧
    (∃ s : State, ∃ x r t, MbReady s ∧ Names s x r ∧ tget s.tasks (r.cell, r.task) = some t ∧ r.info.code = .brk ∧
      t.brkExit = none ∧ t.restart = false ∧ s.pkg.mailbox.arg1.toNat % 4 = 1) ∧
    (∀ n : BitVec 64, n = 2 ∨ n = 3 → ∃ s : State, ∃ x r t, MbReady s ∧ Names s x r ∧ tget s.tasks (r.cell, r.task) = some t ∧
      r.info.code ≠ .stuck ∧ s.pkg.mailbox.arg1.toNat % 4 = n.toNat ∧ ∃ i, tget s.instances t.inst = some i) ∧
    ∃ s : State, ∃ x r, MbReady s ∧ Names s x r ∧ r.info.code = .stuck ∧ s.pkg.mailbox.arg1.toNat % 4 = 0 ∧
      ∀ k ∈ r.pages, ∀ p, tget s.pages k = some p → p.frozen = true :=
  have ready (n : BitVec 64) (c : TrapCode) (g : Task → Task) : MbReady (trappedFor n c g) := ⟨(by decide : (0 : BitVec 8) ≠ 1), rfl⟩
  have even (n : BitVec 64) (c : TrapCode) (g : Task → Task) (f : Cell → Option TrapInfo) (h : ∀ x ∈ (tget (trappedFor n c g).cells 0), f x = none) :
      ∀ x, tget (trappedFor n c g).cells 0 = some x → f x = none := fun x hx => h x hx
  have ⟨x1, h1⟩ := names_trappedFor 0 .illop id (by decide)
  have ⟨x2, h2⟩ := names_trappedFor 0 .seqGap id (by decide)
  have ⟨x3, h3⟩ := names_trappedFor 1 .brk (fun t => { t with brkExit := some 4 }) (by decide)
  have ⟨x4, h4⟩ := names_trappedFor 1 .brk id (by decide)
  have ⟨x5, h5⟩ := names_trappedFor 2 .illop id (by decide)
  have ⟨x6, h6⟩ := names_trappedFor 3 .illop id (by decide)
  ⟨⟨_, x1, _, _, ready 0 .illop id, h1, by decide, rfl, by decide, fun c hc => (by obtain rfl := Option.some.inj hc; decide), by decide,
      by decide⟩,
   ⟨_, x2, _, _, ready 0 .seqGap id, h2, rfl, rfl⟩,
   ⟨_, x3, _, _, 4, ready 1 .brk _, h3, rfl, rfl, rfl, by decide, fun c hc => by obtain rfl := Option.some.inj hc; decide⟩,
   ⟨_, x4, _, _, ready 1 .brk _, h4, rfl, rfl, rfl, rfl, by decide⟩,
   by
    rintro n (rfl | rfl)
    · exact ⟨_, x5, _, _, ready 2 .illop id, h5, rfl, by decide, by decide, _, rfl⟩
    · exact ⟨_, x6, _, _, ready 3 .illop id, h6, rfl, by decide, by decide, _, rfl⟩,
   ⟨page0Frozen (trappedFor 0 .stuck fun t => { t with stuck := true }), _, plainRec .stuck [0], ⟨(by decide : (0 : BitVec 8) ≠ 1), rfl⟩,
    ⟨rfl, rfl, rfl, rfl, by decide⟩, rfl, by decide, by decide⟩⟩

/-- A page list of one member, role 0's. -/
def listed (f : Page → Page) : State :=
  mb 1 0 0x1000 0 (withPage f (withContext (fun x => { x with members := [(0, (0, some 1))] }) { calm with phys := ⟨[⟨0x1000, 1⟩], [], []⟩ }))

theorem witness_MailboxCommands_rest :
    (∃ s : State, ∃ v, s.invalidation = some v ∧ (∀ kt ∈ s.tasks, asidOf s kt.1.1 = v.asid → unperformed s kt.1 = []) ∧ MbReady s) ∧
    (∃ s : State, ∃ x i d, MbReady s ∧ tget s.contexts s.args.asid = some x ∧ Running s i ∧
      i.sluices[s.pkg.mailbox.arg1.toNat % 256]? = some d ∧ s.pkg.mailbox.arg1.getLsbD 8 = false) ∧
    (∃ s : State, ∃ x i d, MbReady s ∧ tget s.contexts s.args.asid = some x ∧ Running s i ∧
      i.sluices[s.pkg.mailbox.arg1.toNat % 256]? = some d ∧ s.pkg.mailbox.arg1.getLsbD 8 = true) ∧
    (∃ s : State, ∃ x l, MbReady s ∧ tget s.contexts s.args.asid = some x ∧ pageList s x s.pkg.mailbox.arg0.toNat = some l ∧
      ∀ k ∈ l, ∃ p, tget s.pages k = some p ∧ p.returned = false) ∧
    (∃ s : State, ∃ x l, MbReady s ∧ tget s.contexts s.args.asid = some x ∧ pageList s x s.pkg.mailbox.arg0.toNat = some l ∧
      (∀ k ∈ l, ∃ p, tget s.pages k = some p ∧ p.frozen = true ∧ p.returned = false) ∧ l.length ≤ (freeFrames (mbRunning s 0x09)).length) ∧
    (∃ s : State, ∃ x l, MbReady s ∧ tget s.contexts s.args.asid = some x ∧ pageList s x s.pkg.mailbox.arg0.toNat = some l ∧
      (∀ k ∈ l, ∃ p, tget s.pages k = some p ∧ p.frozen = true ∧ p.returned = false) ∧ (freeFrames (mbRunning s 0x09)).length < l.length) ∧
    (∃ s : State, MbReady s ∧ s.contexts = []) ∧ (∃ s : State, MbReady s ∧ s.contexts ≠ []) ∧
    (∃ s : State, MbReady s ∧ s.pkg.mailbox.arg0.getLsbD 32 = false ∧ (s.pkg.mailbox.arg0.extractLsb' 0 16).toNat ≠ (s.pkg.mailbox.arg0.extractLsb' 16 16).toNat ∧ s.collective.primary = none) ∧
    (∃ s : State, MbReady s ∧ s.pkg.mailbox.arg0.getLsbD 32 = false ∧ (s.pkg.mailbox.arg0.extractLsb' 0 16).toNat ≠ (s.pkg.mailbox.arg0.extractLsb' 16 16).toNat ∧
      s.collective.primary = some (s.pkg.mailbox.arg0.extractLsb' 0 16).toNat ∧ s.collective.standby = none ∧
      (s.pkg.mailbox.arg0.extractLsb' 16 16).toNat = ownPackage s) ∧
    (∃ s : State, MbReady s ∧ s.pkg.mailbox.arg0.getLsbD 32 = true ∧ (s.pkg.mailbox.arg0.extractLsb' 0 16).toNat ≠ (s.pkg.mailbox.arg0.extractLsb' 16 16).toNat ∧
      s.collective.primary = some (s.pkg.mailbox.arg0.extractLsb' 0 16).toNat ∧ (s.pkg.mailbox.arg0.extractLsb' 16 16).toNat = ownPackage s) ∧
    (∃ s : State, MbReady s ∧ physExists s s.pkg.mailbox.arg0.toNat = true ∧ packageOf s.pkg.mailbox.arg0.toNat = ownPackage s) ∧
    (∃ s : State, MbReady s ∧ ∀ f ∈ allFrames s, (frameAt s f).tested = true) ∧
    ∃ s : State, MbReady s ∧ ∃ f ∈ allFrames s, (frameAt s f).tested = false := by
  have r (g : Page → Page) : MbReady (listed g) := ⟨(by decide : (0 : BitVec 8) ≠ 1), rfl⟩
  refine ⟨⟨{ calm with invalidation := some ⟨1, 0, 64⟩ }, _, rfl, by decide, by unfold MbReady; decide⟩,
    ⟨mb 1 0 1 0 (withInstance (fun i => { i with sluices := [0] }) calm), _, _, _, by unfold MbReady; decide, rfl, ⟨rfl, rfl, rfl, rfl⟩, rfl, by decide⟩,
    ⟨mb 1 0 1 0x100 (withInstance (fun i => { i with sluices := [0] }) calm), _, _, _, by unfold MbReady; decide, rfl, ⟨rfl, rfl, rfl, rfl⟩, rfl,
      by decide⟩,
    ⟨listed id, _, [0], r id, rfl, by rfl, fun k hk => ?_⟩,
    ⟨withFrames (listed fun p => { p with frozen := true }), _, [0], ⟨(by decide : (0 : BitVec 8) ≠ 1), rfl⟩, rfl, by rfl, fun k hk => ?_, ?_⟩,
    ⟨listed fun p => { p with frozen := true }, _, [0], ⟨(by decide : (0 : BitVec 8) ≠ 1), rfl⟩, rfl, by rfl, fun k hk => ?_, ?_⟩,
    ⟨mb 0 0 5 0 State.reset, by unfold MbReady; decide, rfl⟩, ⟨calm, by unfold MbReady; decide, List.cons_ne_nil _ _⟩,
    ⟨mb 0 0 0x10000 0 calm, by unfold MbReady; decide, by decide, by decide, rfl⟩,
    ⟨mb 0 0 1 0 { calm with collective := { calm.collective with primary := some 1 } }, by unfold MbReady; decide, by decide, by decide, rfl, rfl,
      by decide⟩,
    ⟨mb 0 0 0x100000001 0 { calm with collective := { calm.collective with primary := some 1 } }, by unfold MbReady; decide, by decide, by decide, rfl, by decide⟩,
    ⟨calm, by unfold MbReady; decide, by decide, by decide⟩,
    ⟨{ calm with pkg := { calm.pkg with dies := Vector.replicate 4 { DieState.reset 0 with fitted := false } } }, by unfold MbReady; decide, ?_⟩,
    ⟨calm, by unfold MbReady; decide, ⟨0, 3, 3⟩, ?_, rfl⟩⟩
  · obtain rfl := List.mem_singleton.mp hk; exact ⟨_, rfl, rfl⟩
  · obtain rfl := List.mem_singleton.mp hk; exact ⟨_, rfl, rfl, rfl⟩
  · obtain ⟨f, l, h⟩ := free_frames (mbRunning (withFrames (listed fun p => { p with frozen := true })) 0x09) (by decide) (by decide)
    rw [h]; simp
  · obtain rfl := List.mem_singleton.mp hk; exact ⟨_, rfl, rfl, rfl⟩
  · rw [no_free_frames _ rfl]; decide
  · intro f hf
    simp only [allFrames, dieFrames, List.mem_flatMap, List.mem_filter, isFrame, Bool.and_eq_true] at hf
    obtain ⟨d, -, -, ⟨⟨h, -⟩, -⟩, -⟩ := hf
    simp [dieFitted] at h
  · simp only [allFrames, dieFrames, List.mem_filter, List.mem_flatMap, List.mem_map, List.mem_range]
    exact ⟨0, by omega, ⟨3, by omega, 3, by omega, rfl⟩, by decide⟩

theorem witness_PowerAndSurroundEvents_power :
    (∃ s : State, ((s.args.w0.setWidth 12 : BitVec 12)).toNat ≤ s.pkg.capin.toNat) ∧
    (∃ s : State, s.pkg.capin.toNat < ((s.args.w0.setWidth 12 : BitVec 12)).toNat ∧
      s.pkg.frames.any (fun fx => lowerable s 1 fx.1 fx.2) = true ∧ s.pkg.frames.any (fun fx => lowerable s 0 fx.1 fx.2) = false) ∧
    (∃ s : State, s.pkg.capin.toNat < ((s.args.w0.setWidth 12 : BitVec 12)).toNat ∧
      s.pkg.frames.any (fun fx => lowerable s 0 fx.1 fx.2 || lowerable s 1 fx.1 fx.2) = false) ∧
    (∃ s : State, s.args.i < 64) ∧ (∃ s : State, s.pkg.sched = true ∧ entryDue s.pkg s.args.i) ∧
    (∃ s : State, s.args.i < 4 ∧ dieFitted s s.args.i = true ∧ dieInUse s s.args.i = false) ∧
    (∃ s : State, s.args.i < 4 ∧ dieFitted s s.args.i = true ∧ dieInUse s s.args.i = true) ∧
    ∃ s : State, ∃ h : s.args.i < 4, s.pkg.dies[s.args.i].busy = true :=
  ⟨⟨mb 0 0 2400 0 calm, by decide⟩, ⟨mb 0 0 2401 0 (withFrames { calm with pkg := { calm.pkg with level := 2 } }), by decide, by decide, by decide⟩,
    ⟨mb 0 0 4095 0 calm, by decide, by decide⟩, ⟨told (at3 63 0 0) calm, by decide⟩,
    ⟨told (at3 63 0 0) { calm with pkg := { calm.pkg with sched := true, pschedTau := Vector.replicate 64 1, aocnt := 1 } }, rfl,
      ⟨by decide, by decide, by decide⟩⟩,
    ⟨told (at3 3 0 0) calm, by decide, by decide, by decide⟩, ⟨calm, by decide, by decide, by decide⟩,
    ⟨told (at3 3 0 0) { calm with pkg := { calm.pkg with dies := Vector.replicate 4 { DieState.reset 0 with busy := true } } }, by decide,
      by decide⟩⟩

/-- A frame that is scrubbed of a page of context 1, which the management processor ends. -/
def scrubbing : State := { withContext (fun x => { x with ending := true }) calm with
  pkg := { calm.pkg with frames := [(⟨0, 3, 3⟩, ⟨true, true, true, false, true, 950, some 1⟩)] }, args := at3 0 3 3 }

theorem witness_PowerAndSurroundEvents_registers :
    (∃ s : State, ∃ x, tget s.contexts s.args.asid = some x) ∧ (∃ s : State, s.args.j = 8 ∧ s.args.i = 0x100020 ∧ s.contexts = []) ∧
    (∃ s : State, ∃ c, s.args.j = 8 ∧ s.args.i = 0x100040 ∧ commandOf s (s.args.w0.toNat / 2 ^ 56) = some c) ∧
    (∃ s : State, s.args.j = 8 ∧ s.args.i = 0x100040 ∧ commandOf s (s.args.w0.toNat / 2 ^ 56) = none ∧ MbReady s) ∧
    (∀ a ∈ [0x100048, 0x100050], ∃ s : State, s.args.j = 8 ∧ s.args.i = a) ∧
    (∃ s : State, s.args.j = 8 ∧ ∃ k, k < 64 ∧ s.args.i = 0x100100 + 16 * k) ∧
    (∃ s : State, ∃ o w, s.args.flag = false ∧ packageOf s.args.i = ownPackage s ∧ s.args.i % 2 ^ 48 = 2 ^ 44 + o ∧ s.args.j = 8 ∧
      (o, w) ∈ registersOf s) ∧
    (∃ s : State, ∃ o, s.args.flag = false ∧ packageOf s.args.i = ownPackage s ∧ s.args.i % 2 ^ 48 = 2 ^ 44 + o ∧
      (s.args.j ≠ 8 ∨ o % 8 ≠ 0) ∧ s.args.j ≠ 0 ∧ ∀ k, k < s.args.j → ofRegisters (o + k)) ∧
    ∃ s : State, ∃ o k r, s.args.flag = false ∧ packageOf s.args.i = ownPackage s ∧ s.args.i % 2 ^ 48 = 2 ^ 44 + o ∧ k < 256 ∧
      tget s.pkg.endRing k = some r ∧ o = 0x200000 + 16 * k ∧ s.args.j = 16 :=
  ⟨⟨mb 1 0 0 0 calm, _, rfl⟩, ⟨told (at3 0x100020 8 0) State.reset, rfl, rfl, rfl⟩,
    ⟨told { at3 0x100040 8 0 with w0 := 0x0E00000000000000 } calm, _, rfl, rfl, rfl⟩,
    ⟨told { at3 0x100040 8 0 with w0 := 0x0F00000000000000 } calm, rfl, rfl, rfl, by unfold MbReady; decide⟩,
    fun a _ => ⟨told (at3 a 8 0) calm, rfl, rfl⟩, ⟨told (at3 0x1004F0 8 0) calm, rfl, 63, by decide, by decide⟩,
    ⟨told (at3 (2 ^ 44 + 0x100000) 8 0) calm, 0x100000, _, rfl, rfl, rfl, rfl, .head _⟩,
    ⟨told (at3 (2 ^ 44 + 0x10000000 + 0x40000 + 0x30004) 8 0) calm, 0x10000000 + 0x40000 + 0x30004, rfl, rfl, rfl, by decide, by decide,
      fun k h => .inr (.inr ⟨1, 4 + k, by decide, Nat.add_lt_add_left (m := 28) (Nat.lt_trans h (by decide)) 4, by omega⟩)⟩,
    ⟨told (at3 (2 ^ 44 + 0x200FF0) 16 0) { calm with pkg := { calm.pkg with endRing := [(255, ⟨7, 1, 1, 0⟩)] } }, _, 255, _, rfl, rfl, rfl,
      by decide, rfl, rfl, rfl⟩⟩

theorem witness_PowerAndSurroundEvents_rest :
    (∃ s : State, s.memOk = true ∧ s.pkg.bfail = false ∧ s.args.flag = true ∧ packageOf s.args.i = ownPackage s ∧
      (∀ k, k < (s.args.data.take s.args.j).length → physExists s (s.args.i + k) = true ∧ packageOf (s.args.i + k) = ownPackage s) ∧
      s.args.i % 2 ^ 48 < 2 ^ 44 ∧ accessWaits s .host (hostSegs s.args.i (s.args.data.take s.args.j).length) = false) ∧
    (∃ s : State, s.args.flag = false ∧ packageOf s.args.i = ownPackage s ∧ s.pkg.bfail = false ∧ s.args.i % 2 ^ 48 < 2 ^ 44 ∧
      accessWaits s .host (hostSegs s.args.i s.args.j) = false ∧ s.args.j ≠ 0 ∧
      ∀ k, k < s.args.j → physExists s (s.args.i + k) = true ∧ packageOf (s.args.i + k) = ownPackage s) ∧
    (∃ s : State, isFrame s ⟨s.args.i, s.args.j, s.args.k⟩ = true ∧ (frameAt s ⟨s.args.i, s.args.j, s.args.k⟩).tested = false) ∧
    (∃ s : State, ∃ a x, let f : FrameId := ⟨s.args.i, s.args.j, s.args.k⟩
      (frameAt s f).scrubbing = true ∧ (frameAt s f).lastCtx = some a ∧ tget s.contexts a = some x ∧ x.ending = true ∧ x.posts = [] ∧
      scrubbed (setFrame s f { frameAt s f with scrubbing := false }) a = true) ∧
    (∃ s : State, ∃ a x, let f : FrameId := ⟨s.args.i, s.args.j, s.args.k⟩
      (frameAt s f).scrubbing = true ∧ s.args.flag = true ∧ (frameAt s f).lastCtx = some a ∧ tget s.contexts a = some x ∧
      x.ending = false ∧ (x.events.wr - x.events.rd).toNat < 4096) ∧
    (∃ s : State, s.pkg.bfail = false ∧ ¬Sound s) ∧
    ((∀ d k, Config.ecdsaVerified d k = true ∧ Config.lmsVerified d k = true) → ∃ s : State, s.pkg.bfail = false ∧ Sound s) :=
  let flagged (a : Args) (s : State) : State := told { a with flag := true } s
  ⟨⟨flagged { at3 64 1 0 with data := [7] } calm, by decide, rfl, rfl, by decide, by decide, by decide, by decide⟩,
    ⟨told (at3 64 1 0) calm, rfl, by decide, rfl, by decide, by decide, by decide, by decide⟩,
    ⟨told (at3 0 3 3) calm, by decide, rfl⟩, ⟨scrubbing, 1, _, rfl, rfl, rfl, rfl, rfl, by decide⟩,
    ⟨flagged (at3 0 3 3) (withContext (fun x => { x with ending := false }) scrubbing), 1, _, rfl, rfl, rfl, rfl, rfl, by decide⟩,
    ⟨told (at3 4 0 0) { calm with pkg := { calm.pkg with rollbackCount := 5 } }, rfl, fun h => absurd h.2.2 (by decide)⟩,
    fun h => ⟨told (at3 5 0 0) { calm with pkg := { calm.pkg with rollbackCount := 5 } }, rfl, (h _ _).1, (h _ _).2, by decide⟩⟩

theorem witness_ConversionsWithinLanes : ∀ c ∈ [0x0A7, 0x0A8, 0x0A9], Meets c := meets_all _ (by decide)
theorem witness_CodebooksPackingAndScales : ∀ c ∈ codes 0x0AA 6, Meets c := meets_all _ (by decide)
theorem witness_ConversionsOfInt64 :
    goes 0x0A8 plainWire (op 0x0A8 Fmt.int64 0 1) [inA (tk Fmt.fp32 0x3F800000)] = true ∧
    goes 0x0A9 plainWire (op 0x0A9 Fmt.fp32 0 1) [inA (tk Fmt.int64 1)] = true := by decide

theorem witness_AddressesOfPointers :
    goes 0x043 plainWire (op 0x043 Fmt.ptr 0 0) [inA (ptrTok windowBase around1M), inB (pairs [4])] = true := by decide

/-- A contraction goes on where earlier turns left it. -/
theorem witness_HashTablesAndContractions_part :
    goes 0x14C { plainWire with task := withFiring fun fr => { fr with
      parts := [⟨1, 0, contractBlock.zipIdx.map fun x => (x.1, [2, 6, 10].contains (x.2 / 16)), false, [], [], []⟩] } } (op 0x14C 0 0 0) [inA home] = true := by
  decide +kernel

/-- A turn that makes one access of a load that has two to make (09 R231). -/
theorem test_load_by_pieces :
    let s := ready plainWire (op 0x100 Fmt.int32 0 0) [inA (pairs [windowBase + 32])]
    (match exec (.ld ⟨0, Fmt.int32, 0, 0, 0, 0⟩) { s with focus := some ⟨0, 0, 1, .piece⟩ } with
     | .next t => ((tget t.tasks (0, 0)).bind (·.firing)).map fun fr => fr.parts.map fun p => (p.ins, p.count, p.bytes.length)
     | _ => none) = some [(1, 1, 32)] := by decide

end Sys2Proof.Tests
end

/-! ## Reset (O4) -/

namespace Sys2Proof.Machine

/-- Settles O4: each clause by evaluating the reset state; every memory there is the empty one. -/
theorem resetLeaves : Obligations.ResetLeaves := by
  unfold Obligations.ResetLeaves
  refine ⟨rfl, rfl, rfl, rfl, rfl, rfl, rfl, rfl, rfl, rfl, rfl, rfl, rfl, rfl, rfl, rfl, rfl, ?_, ?_, rfl, rfl, rfl,
    rfl, rfl, ?_, rfl, rfl, rfl, rfl, ?_, ?_⟩
  · decide
  · decide
  · exact fun p n k st => ⟨rfl, fun j h => by simp [plainCell]⟩
  · decide
  · intro sp a
    cases sp <;> rfl

end Sys2Proof.Machine

/-! ## The form of the memories (O5)

Every state function is followed through by one equation or implication about `State.memOk`: what writes no memory leaves
`memOk` as it was (an equation, for `simp`), what writes one keeps it (an implication). An instruction's body is then followed
branch by branch. -/

namespace Sys2Proof.Machine

/-! ### What a state's form depends on -/

/-- The form of the memories, told of the three parts of a state that hold them. -/
def partsOk (phys : Mem) (pages : Table Nat Page) (insts : Table (BitVec 32) Instance) : Bool :=
  memWf phys && pages.all (fun p => memsWf p.2.mems) && insts.all (fun i => memWf i.2.symbols)

@[simp] theorem partsOk_fields (s : State) : partsOk s.phys s.pages s.instances = s.memOk := (rfl)

/-- Nothing but physical memory, the pages and the instances bears on the form. -/
@[simp] theorem memOk_mk (ag fr fo ar pk ph ou ho cx ins pg ce ta arc ba ch xl ra inv sp fz co) :
    State.memOk ⟨ag, fr, fo, ar, pk, ph, ou, ho, cx, ins, pg, ce, ta, arc, ba, ch, xl, ra, inv, sp, fz, co⟩ =
      partsOk ph pg ins := (rfl)

@[simp] theorem memOk_ite (c : Prop) [Decidable c] (s t : State) :
    (if c then s else t).memOk = if c then s.memOk else t.memOk := apply_ite ..

theorem partsOk_iff (ph : Mem) (pg : Table Nat Page) (ins : Table (BitVec 32) Instance) : partsOk ph pg ins = true ↔
    memWf ph = true ∧ (pg.all fun p => memsWf p.2.mems) = true ∧ (ins.all fun i => memWf i.2.symbols) = true := by
  simp [partsOk, and_assoc]

/-- What changes nothing of the memories leaves their form. -/
theorem SameMemory.memOk_eq {s t : State} (h : SameMemory s t) : t.memOk = s.memOk := by
  have hp := congrArg (·.all fun kp : Nat × (Mem × List Mem) => memsWf kp.2) h.windows
  have hi := congrArg (·.all fun ki : BitVec 32 × Mem => memWf ki.2) h.symbols
  simp only [List.all_map, Function.comp_def] at hp hi
  simp only [State.memOk, h.phys, hp, hi]

/-- The memories of a page depend on its window and its images alone. -/
@[simp] theorem mems_eq_iff (p q : Page) : p.mems = q.mems ↔ p.window = q.window ∧ p.images.map (·.window) = q.images.map (·.window) := by
  simp [Page.mems]

@[simp] theorem partsOk_tmapPage (ph : Mem) (pg : Table Nat Page) (ins : Table (BitVec 32) Instance) (g : Nat → Page → Page)
    (h : ∀ k p, (g k p).mems = p.mems) : partsOk ph (tmap pg g) ins = partsOk ph pg ins := by
  have hp := congrArg (·.all fun kp : Nat × (Mem × List Mem) => memsWf kp.2) (map_tmap_same pg g (·.mems) h)
  simp only [List.all_map, Function.comp_def] at hp
  simp only [partsOk, hp]

@[simp] theorem memOk_modPage_same (s : State) (k : Nat) (g : Page → Page) (h : ∀ p, (g p).mems = p.mems) :
    (modPage s k g).memOk = s.memOk := (sameMemory_modPage s k g h).memOk_eq

@[simp] theorem memOk_modInst_same (s : State) (k : BitVec 32) (g : Instance → Instance) (h : ∀ i, (g i).symbols = i.symbols) :
    (modInst s k g).memOk = s.memOk := (sameMemory_modInst s k g h).memOk_eq

/-- The memories of a page of a state in form. -/
theorem memsWf_of_tget {s : State} (h : s.memOk = true) {k : Nat} {p : Page} (hp : tget s.pages k = some p) : memsWf p.mems = true := by
  obtain ⟨-, hg, -⟩ := (State.memOk_iff s).mp h
  exact of_all_tget (fun q : Page => memsWf q.mems) _ _ hg hp

/-- The symbol area found in a state in form. -/
theorem memWf_of_tget {s : State} (h : s.memOk = true) {k : BitVec 32} {i : Instance} (hi : tget s.instances k = some i) :
    memWf i.symbols = true := by
  obtain ⟨-, -, hg⟩ := (State.memOk_iff s).mp h
  exact of_all_tget (fun j : Instance => memWf j.symbols) _ _ hg hi

/-- A page put in the place of one whose memories it keeps. -/
theorem memOk_setPage_of_tget {s : State} (h : s.memOk = true) {k : Nat} {p : Page} (hp : tget s.pages k = some p) {q : Page}
    (hq : q.mems = p.mems) : (setPage s k q).memOk = true := memOk_setPage s k q h (hq ▸ memsWf_of_tget h hp)

/-- What is put in the table of instances keeps the symbol area of what stood there. -/
theorem memOk_setInst_of_tget {s : State} (h : s.memOk = true) {k : BitVec 32} {i : Instance} (hi : tget s.instances k = some i)
    {j : Instance} (hj : j.symbols = i.symbols) : (setInst s k j).memOk = true := memOk_setInst s k j h (hj ▸ memWf_of_tget h hi)

@[simp] theorem partsOk_tputPage (s : State) (k : Nat) (p : Page) :
    partsOk s.phys (tput s.pages k p) s.instances = (setPage s k p).memOk := (rfl)

theorem memsWf_mems_iff (p : Page) : memsWf p.mems = true ↔ memWf p.window = true ∧ ∀ g ∈ p.images, memWf g.window = true := by
  simp [memsWf, Page.mems]

/-- Every page changed, each keeping its memories in form. -/
theorem partsOk_tmap {ph : Mem} {pg : Table Nat Page} {ins : Table (BitVec 32) Instance} (g : Nat → Page → Page)
    (h : partsOk ph pg ins = true) (hg : ∀ k p, memsWf p.mems = true → memsWf (g k p).mems = true) :
    partsOk ph (tmap pg g) ins = true := by
  obtain ⟨hp, hpg, hi⟩ := (partsOk_iff ..).mp h
  exact (partsOk_iff ..).mpr ⟨hp, all_tmap (fun p : Page => memsWf p.mems) _ _ hpg hg, hi⟩

/-- Some pages gone. -/
theorem partsOk_filterPages {ph : Mem} {pg : Table Nat Page} {ins : Table (BitVec 32) Instance} (q : Nat × Page → Bool)
    (h : partsOk ph pg ins = true) : partsOk ph (pg.filter q) ins = true := by
  obtain ⟨hp, hpg, hi⟩ := (partsOk_iff ..).mp h
  exact (partsOk_iff ..).mpr ⟨hp, List.all_eq_true.mpr fun x hx => List.all_eq_true.mp hpg x (List.mem_of_mem_filter hx), hi⟩

/-- Some instances gone. -/
theorem partsOk_filterInsts {ph : Mem} {pg : Table Nat Page} {ins : Table (BitVec 32) Instance} (q : BitVec 32 × Instance → Bool)
    (h : partsOk ph pg ins = true) : partsOk ph pg (ins.filter q) = true := by
  obtain ⟨hp, hpg, hi⟩ := (partsOk_iff ..).mp h
  exact (partsOk_iff ..).mpr ⟨hp, hpg, List.all_eq_true.mpr fun x hx => List.all_eq_true.mp hi x (List.mem_of_mem_filter hx)⟩

/-- A fold of updates that each keep the form keeps it. -/
theorem memOk_foldl {α : Type} {g : State → α → State} (hg : ∀ s x, s.memOk = true → (g s x).memOk = true) (l : List α) {s : State}
    (h : s.memOk = true) : (l.foldl g s).memOk = true :=
  List.foldlRecOn (motive := fun z => z.memOk = true) l g h fun z hz x _ => hg z x hz

/-- A fold of updates that leave the form leaves it. -/
@[simp] theorem memOk_foldl_same {α : Type} {g : State → α → State} (hg : ∀ s x, (g s x).memOk = s.memOk) (l : List α) (s : State) :
    (l.foldl g s).memOk = s.memOk :=
  List.foldlRecOn (motive := fun z => z.memOk = s.memOk) l g rfl fun z hz x _ => (hg z x).trans hz

/-! ### What an instruction's body and a step may leave -/

/-- The state that a body leaves, where it leaves one, has every memory in form. -/
def ActOk : Act → Prop
  | .trapWith s _ | .pause s | .done s _ _ => s.memOk = true
  | .trap _ | .control | .wait | .nullified => True

@[simp] theorem actOk_trap (t : TrapInfo) : ActOk (.trap t) := trivial
@[simp] theorem actOk_control : ActOk .control := trivial
@[simp] theorem actOk_wait : ActOk .wait := trivial
@[simp] theorem actOk_nullified : ActOk .nullified := trivial
@[simp] theorem actOk_trapWith (s : State) (t : TrapInfo) : ActOk (.trapWith s t) ↔ s.memOk = true := .rfl
@[simp] theorem actOk_pause (s : State) : ActOk (.pause s) ↔ s.memOk = true := .rfl
@[simp] theorem actOk_done (s : State) (r : Res) (fl : FlagSet) : ActOk (.done s r fl) ↔ s.memOk = true := .rfl
@[simp] theorem actOk_oneData (s : State) (t : Token) : ActOk (oneData s t) ↔ s.memOk = true := .rfl
@[simp] theorem actOk_ite (c : Prop) [Decidable c] (a b : Act) : ActOk (if c then a else b) ↔ if c then ActOk a else ActOk b := by
  split <;> rfl

/-- The next state that an answer gives, where it gives one, has every memory in form. -/
def OutOk (o : Host.Outcome State Fault Refusal) : Prop := ∀ t, o = .next t → t.memOk = true

@[simp] theorem outOk_next (t : State) : OutOk (.next t) ↔ t.memOk = true := by simp [OutOk]
@[simp] theorem outOk_fault (r : Fault) : OutOk (.fault r) := by simp [OutOk]
@[simp] theorem outOk_ite (c : Prop) [Decidable c] (a b : Host.Outcome State Fault Refusal) :
    OutOk (if c then a else b) ↔ if c then OutOk a else OutOk b := by split <;> rfl

/-! ### The state's operations, traps and freezes -/

@[simp] theorem memOk_setTask (s : State) (k : Nat × Nat) (x : Task) : (setTask s k x).memOk = s.memOk := (rfl)
@[simp] theorem memOk_modTask (s : State) (k : Nat × Nat) (g : Task → Task) : (modTask s k g).memOk = s.memOk := (rfl)
@[simp] theorem memOk_setCell (s : State) (k : Nat) (x : Cell) : (setCell s k x).memOk = s.memOk := (rfl)
@[simp] theorem memOk_modCell (s : State) (k : Nat) (g : Cell → Cell) : (modCell s k g).memOk = s.memOk := (rfl)
@[simp] theorem memOk_setArc (s : State) (k : Nat) (x : Arc) : (setArc s k x).memOk = s.memOk := (rfl)
@[simp] theorem memOk_modArc (s : State) (k : Nat) (g : Arc → Arc) : (modArc s k g).memOk = s.memOk := (rfl)
@[simp] theorem memOk_setCtx (s : State) (k : BitVec 8) (x : Context) : (setCtx s k x).memOk = s.memOk := (rfl)
@[simp] theorem memOk_modCtx (s : State) (k : BitVec 8) (g : Context → Context) : (modCtx s k g).memOk = s.memOk := (rfl)
@[simp] theorem memOk_setBank (s : State) (k : Nat × Nat) (x : Bank) : (setBank s k x).memOk = s.memOk := (rfl)
@[simp] theorem memOk_modBank (s : State) (k : Nat × Nat) (g : Bank → Bank) : (modBank s k g).memOk = s.memOk := (rfl)
@[simp] theorem memOk_setChain (s : State) (k : Nat) (x : Chain) : (setChain s k x).memOk = s.memOk := (rfl)
@[simp] theorem memOk_modChain (s : State) (k : Nat) (g : Chain → Chain) : (modChain s k g).memOk = s.memOk := (rfl)
@[simp] theorem memOk_modFiring (s : State) (k : Nat × Nat) (g : Firing → Firing) : (modFiring s k g).memOk = s.memOk := (rfl)
@[simp] theorem memOk_modFifo (s : State) (asid : BitVec 8) (n : Nat) (g : Fifo → Fifo) : (modFifo s asid n g).memOk = s.memOk := (rfl)
@[simp] theorem memOk_touchCtx (s : State) (asid : BitVec 8) : (touchCtx s asid).memOk = s.memOk := (rfl)
@[simp] theorem memOk_addBalance (s : State) (asid : BitVec 8) (d : Int) : (addBalance s asid d).memOk = s.memOk := (rfl)
@[simp] theorem memOk_freeReplay (s : State) (arc : Nat) (a : Arc) (q : BitVec 22) : (freeReplay s arc a q).memOk = s.memOk := (rfl)
@[simp] theorem memOk_queueTrap (s : State) (src cell task : Nat) (info : TrapInfo) (ins blk : Nat) (auto : Bool)
    (arcs : List (BitVec 32)) (pages : List Nat) :
    (queueTrap s src cell task info ins blk auto arcs pages).memOk = s.memOk := (rfl)

@[simp] theorem memOk_raiseNotify (s : State) (b : Nat) : (raiseNotify s b).memOk = s.memOk := (sameMemory_raiseNotify s b).memOk_eq

@[simp] theorem memOk_logEvent (s : State) (asid : BitVec 8) (src code : BitVec 16) (pay : BitVec 32) :
    (logEvent s asid src code pay).memOk = s.memOk := (sameMemory_logEvent ..).memOk_eq

@[simp] theorem memOk_touchPage (s : State) (page : Nat) : (touchPage s page).memOk = s.memOk := (sameMemory_touchPage s page).memOk_eq

@[simp] theorem memOk_touchCell (s : State) (cell : Nat) : (touchCell s cell).memOk = s.memOk := (sameMemory_touchCell s cell).memOk_eq

@[simp] theorem memOk_offer (s : State) (arc : Nat) (it : Item) (level : Option Nat) : (offer s arc it level).memOk = s.memOk :=
  (sameMemory_offer ..).memOk_eq

@[simp] theorem memOk_clearMarkers (s : State) (arc : Nat) : (clearMarkers s arc).memOk = s.memOk := (sameMemory_clearMarkers s arc).memOk_eq

@[simp] theorem memOk_giveUp (s : State) (arc : Nat) : (giveUp s arc).memOk = s.memOk := (sameMemory_giveUp s arc).memOk_eq

@[simp] theorem memOk_releaseAll (s : State) (cell : Nat) (fr : Firing) : (releaseAll s cell fr).memOk = s.memOk := by
  obtain ⟨hp, hg, hi, -⟩ := releaseAll_same s cell fr
  exact (SameMemory.of_eq hp hg hi).memOk_eq

@[simp] theorem memOk_takeTrapFrom (s : State) (src cell task : Nat) (info : TrapInfo) (ins : Nat) :
    (takeTrapFrom s src cell task info ins).memOk = s.memOk := (sameMemory_takeTrapFrom ..).memOk_eq

@[simp] theorem memOk_takeTrap (s : State) (cell task : Nat) (info : TrapInfo) (ins : Nat) :
    (takeTrap s cell task info ins).memOk = s.memOk := (sameMemory_takeTrap ..).memOk_eq

@[simp] theorem memOk_trapped (s : State) (u : Cur) (info : TrapInfo) : (trapped s u info).memOk = s.memOk := memOk_takeTrap ..

@[simp] theorem memOk_nulled (s : State) (u : Cur) (f : Fields) : (nulled s u f).memOk = s.memOk := (rfl)

@[simp] theorem memOk_executed (s : State) (u : Cur) (f : Fields) (p : Bool) (r : Res) (fl : FlagSet) :
    (executed s u f p r fl).memOk = s.memOk := (rfl)

@[simp] theorem memOk_retryTask (s : State) (cell task : Nat) : (retryTask s cell task).memOk = s.memOk := (rfl)

@[simp] theorem memOk_finishTask (s : State) (cell task : Nat) : (finishTask s cell task).memOk = s.memOk := (sameMemory_finishTask ..).memOk_eq

@[simp] theorem memOk_continueTask (s : State) (cell task : Nat) : (continueTask s cell task).memOk = s.memOk :=
  (sameMemory_continueTask ..).memOk_eq

@[simp] theorem memOk_beginFreeze (s : State) (pages : List Nat) : (beginFreeze s pages).memOk = s.memOk :=
  (sameMemory_beginFreeze s pages).memOk_eq

@[simp] theorem memOk_requestFreeze (s : State) (asid : BitVec 8) (pages : List Nat) (m : Bool) :
    (requestFreeze s asid pages m).memOk = s.memOk := (sameMemory_requestFreeze ..).memOk_eq

@[simp] theorem memOk_frameFaulty (s : State) (page : Nat) (fault : PageFault) : (frameFaulty s page fault).memOk = s.memOk :=
  (sameMemory_frameFaulty ..).memOk_eq

@[simp] theorem memOk_controlUse (s : State) (u : Cur) : (controlUse s u).memOk = s.memOk := (sameMemory_controlUse s u).memOk_eq

@[simp] theorem memOk_guardTransient (s : State) (u : Cur) : (guardTransient s u).memOk = s.memOk := (sameMemory_guardTransient s u).memOk_eq

/-! ### The gate -/

/-- What a body answers, concluded. -/
theorem outOk_conclude {s : State} (h : s.memOk = true) (u : Cur) (f : Fields) (scalar : Bool) {a : Act} (ha : ActOk a) :
    OutOk (conclude s u f scalar a) := by
  cases a with
  | trap t | control | wait | nullified => simpa using h
  | trapWith x t => simpa [conclude] using ha
  | pause x | done x r fl => simpa using ha

/-- An instruction whose body keeps the form keeps it, whatever the gate answers. -/
theorem outOk_runIns {code : Nat} {rule : NullRule} {f : Fields} {s : State} {body : State → Cur → Opnds → Act} (h : s.memOk = true)
    (hb : ∀ {x : State} {u : Cur} {o : Opnds}, x.memOk = true → ActOk (body x u o)) : OutOk (runIns code rule f s body) := by
  rcases runIns_cases code rule f s body with e | e | ⟨u, -, ⟨info, e⟩ | e | e | e | ⟨scalar, o, e | e⟩⟩ <;> rw [e]
  · simp
  · simpa using h
  · simpa using h
  · simpa using h
  · simpa using h
  · simpa using h
  · exact outOk_conclude h u f scalar (hb h)
  · have hg : (guardTransient s u).memOk = true := by simpa using h
    exact outOk_conclude hg u f scalar (hb hg)

/-! ### Homes, line buffers and writes -/

@[simp] theorem memOk_serveHome (s : State) (p : HomePort) (h : Home) : (serveHome s p h).memOk = s.memOk := (rfl)

@[simp] theorem memOk_serveHomes (s : State) (p : HomePort) (l : List Home) : (serveHomes s p l).memOk = s.memOk := by
  induction l generalizing s with
  | nil => rfl
  | cons h r ih => rw [serveHomes, ih, memOk_serveHome]

@[simp] theorem memOk_servePort (s : State) (p : HomePort) (segs : List Seg) : (servePort s p segs).memOk = s.memOk := by
  simp [servePort]

@[simp] theorem memOk_emptyLines (s : State) (page : Nat) : (emptyLines s page).memOk = s.memOk := (sameMemory_emptyLines s page).memOk_eq

@[simp] theorem memOk_readSeg (s : State) (page : Nat) (plain : Bool) (g : Seg) : (readSeg s page plain g).1.memOk = s.memOk :=
  (sameMemory_readSeg s page plain g).memOk_eq

@[simp] theorem memOk_readSegs (s : State) (page : Nat) (plain : Bool) (l : List Seg) : (readSegs s page plain l).1.memOk = s.memOk :=
  (sameMemory_readSegs s page plain l).memOk_eq

@[simp] theorem memOk_fillLine (s : State) (page g : Nat) : (fillLine s page g).memOk = s.memOk := (sameMemory_fillLine s page g).memOk_eq

@[simp] theorem memOk_freshChoice (s : State) : (freshChoice s).memOk = s.memOk := (rfl)

@[simp] theorem memOk_acquireAt (s : State) (page level : Nat) : (acquireAt s page level).memOk = s.memOk := by simp [acquireAt]

@[simp] theorem memOk_acquireOf (s : State) (page : Nat) (level : Option Nat) : (acquireOf s page level).memOk = s.memOk := by
  cases level <;> simp [acquireOf]

@[simp] theorem memOk_addPendingAs (s : State) (u : Cur) (f : Fields) (holds : Bool) (acq card : Option Nat) (l : List PendingAccess) :
    (addPendingAs s u f holds acq card l).memOk = s.memOk := (rfl)

@[simp] theorem memOk_addPending (s : State) (u : Cur) (f : Fields) (holds : Bool) (l : List PendingAccess) :
    (addPending s u f holds l).memOk = s.memOk := (rfl)

@[simp] theorem memOk_keepPart (s : State) (u : Cur) (p : PartAccess) : (keepPart s u p).memOk = s.memOk := (rfl)

@[simp] theorem memOk_later (s : State) (u : Cur) (d : Deferred) : (later s u d).memOk = s.memOk := (rfl)

theorem memOk_applyWrites (l : List Write) : ∀ s : State, s.memOk = true → (applyWrites s l).memOk = true := by
  induction l with
  | nil => exact fun _ h => h
  | cons w r ih => exact fun s h => ih _ (memOk_applyAt s w h)

theorem memOk_performWrites (page : Nat) (l : List Write) : ∀ s : State, s.memOk = true → (performWrites s page l).memOk = true := by
  induction l with
  | nil => exact fun _ h => h
  | cons w r ih => exact fun s h => ih _ (memOk_performWrite s page w h)

theorem memOk_engineWrites (l : List Write) : ∀ s : State, s.memOk = true → (engineWrites s l).memOk = true := by
  induction l with
  | nil => exact fun _ h => h
  | cons w r ih => exact fun s h => ih _ (memOk_applyAt s w h)

/-! ### Loads and stores -/

@[simp] theorem memOk_loadPiece (s : State) (u : Cur) (plain : Bool) (acc : List Seg) : (loadPiece s u plain acc).memOk = s.memOk := by
  simp [loadPiece]

@[simp] theorem memOk_holdTranslation (s : State) (p : Party) (v : Nat) : (holdTranslation s p v).memOk = s.memOk := by
  fun_cases holdTranslation <;> rfl

section
variable {s : State} {u : Cur} {o : Opnds} {f : Fields} (h : s.memOk = true)
include h

theorem actOk_loadRest (plain acq : Bool) (level : Nat) (p : LoadPlan)
    (mk : List (Byte × Bool) → List (Byte × Bool) → Bool → Except TrapInfo Token) : ActOk (loadRest s u plain acq level p mk) := by
  fun_cases loadRest <;> simp +zetaDelta [h]

theorem actOk_doLoad (plain acq rel : Bool) (level : Nat) (p : LoadPlan)
    (mk : List (Byte × Bool) → List (Byte × Bool) → Bool → Except TrapInfo Token) : ActOk (doLoad s u plain acq rel level p mk) := by
  fun_cases doLoad <;> simp [actOk_loadRest h, h]

theorem actOk_loadOf {plain : Bool} : ActOk (loadOf f plain s u o) := by
  fun_cases loadOf <;> simp [actOk_doLoad h]

theorem actOk_bodyLds : ActOk (bodyLds f s u o) := by
  fun_cases bodyLds <;> simp [actOk_doLoad h]

theorem actOk_bodyLdb : ActOk (bodyLdb f s u o) := by
  fun_cases bodyLdb <;> simp [actOk_doLoad h]

theorem actOk_bodyLdg : ActOk (bodyLdg f s u o) := by
  fun_cases bodyLdg <;> simp [actOk_doLoad h]

theorem actOk_issueStore (ws : List Write) : ActOk (issueStore f s u ws) := by
  simp [issueStore, h]

theorem actOk_storeOf {drops : Bool} : ActOk (storeOf f drops s u o) := by
  fun_cases storeOf <;> simp [actOk_issueStore h]

theorem actOk_bodyStm : ActOk (bodyStm f s u o) := by
  fun_cases bodyStm <;> simp [actOk_issueStore h]

theorem actOk_bodySts : ActOk (bodySts f s u o) := by
  fun_cases bodySts <;> simp [actOk_issueStore h]

theorem actOk_bodyStsc : ActOk (bodyStsc f s u o) := by
  fun_cases bodyStsc <;> simp [actOk_issueStore h]

theorem actOk_bodyPref : ActOk (bodyPref f s u o) := by
  fun_cases bodyPref <;> simp [h]

theorem actOk_bodyFence : ActOk (bodyFence f s u o) := by
  simp [bodyFence, h]

theorem actOk_bodyRel : ActOk (bodyRel f s u o) := by
  simp [bodyRel, h]

theorem actOk_bodyAcq : ActOk (bodyAcq f s u o) := by
  simp [bodyAcq, h]

end

/-! ### Atomics -/

theorem memOk_atomicStep (page : Nat) (e : AtomicElem) {s : State} (h : s.memOk = true) : (atomicStep s page e).1.memOk = true := by
  fun_cases atomicStep <;> simp [memOk_performWrite, h]

@[simp] theorem memOk_syncRead (s : State) (page : Nat) (e : AtomicElem) : (syncRead s page e).memOk = s.memOk := memOk_readSeg ..

theorem memOk_atomicSteps (page : Nat) (l : List (Nat × AtomicElem)) :
    ∀ (marks : List (Space × Nat)) {s : State}, s.memOk = true → (atomicSteps s page marks l).1.memOk = true := by
  induction l with
  | nil => exact fun _ _ h => h
  | cons x r ih => exact fun marks s h => ih _ (by simpa using memOk_atomicStep page _ h)

section
variable {s : State} {u : Cur} {o : Opnds} {f : Fields} (h : s.memOk = true)
include h

theorem memOk_atomicPiece (d : PartAccess) (x : Nat × AtomicElem) (segs : List Seg) : (atomicPiece s u d x segs).memOk = true := by
  simp [atomicPiece, memOk_atomicSteps _ _ _ h]

theorem actOk_atomicOf {op : AtomicOp} : ActOk (atomicOf op f s u o) := by
  fun_cases atomicOf <;> simp +zetaDelta [memOk_atomicPiece h, memOk_atomicSteps _ _ _ h, h]

end

/-! ### Banks, FIFOs, chains -/

@[simp] theorem memOk_takeBank (s : State) (task : Nat × Nat) (b : Nat × Nat) : (takeBank s task b).memOk = s.memOk := (rfl)

section
variable {s : State} {u : Cur} {o : Opnds} {f : Fields} (h : s.memOk = true)
include h

theorem actOk_bodyBktake : ActOk (bodyBktake f s u o) := by
  fun_cases bodyBktake <;> simp [h]

theorem actOk_bodyBkgive : ActOk (bodyBkgive f s u o) := by
  fun_cases bodyBkgive <;> simp [h]

theorem actOk_bodyTfpush : ActOk (bodyTfpush f s u o) := by
  simp [bodyTfpush, h]

theorem actOk_bodyTfpop : ActOk (bodyTfpop f s u o) := by
  simp [bodyTfpop, h]

theorem actOk_bodyChapp : ActOk (bodyChapp f s u o) := by
  fun_cases bodyChapp <;> simp +zetaDelta [h]

theorem actOk_bodyChtail : ActOk (bodyChtail f s u o) := by
  fun_cases bodyChtail <;> simp [h]

theorem actOk_bodyChseq : ActOk (bodyChseq f s u o) := by
  fun_cases bodyChseq <;> simp [h]

end

section
variable {s : State} {f : Fields} {u : Cur} {o : Opnds}

/-! ### Integer and logic instructions -/

@[simp] theorem actOk_unary {cls : Fmt → Bool} {g : Fmt → Nat → Nat × LaneFlags} (h : s.memOk = true) : ActOk (unary f s o cls g) := by
  fun_cases unary <;> simp [h]

@[simp] theorem actOk_binary {cls : Fmt → Bool} {g : Fmt → Nat → Nat → Nat × LaneFlags} (h : s.memOk = true) :
    ActOk (binary f s o cls g) := by
  fun_cases binary <;> simp [h]

@[simp] theorem actOk_ternary {cls : Fmt → Bool} {fill : Bool} {g : Fmt → Nat → Nat → Nat → Nat × LaneFlags} (h : s.memOk = true) :
    ActOk (ternary f s o cls fill g) := by
  fun_cases ternary <;> simp [h]

@[simp] theorem actOk_logic {g : Lane → Lane → Lane} (h : s.memOk = true) : ActOk (logic f s o g) := by
  fun_cases logic <;> simp [h]

@[simp] theorem actOk_bodyNot (h : s.memOk = true) : ActOk (bodyNot f s u o) := by
  fun_cases bodyNot <;> simp [h]

@[simp] theorem actOk_compare {test : Int → Int → Bool} (h : s.memOk = true) : ActOk (compare f s o test) := by
  fun_cases compare <;> simp [h]

@[simp] theorem actOk_bodySel (h : s.memOk = true) : ActOk (bodySel f s u o) := by
  fun_cases bodySel <;> simp [h]

@[simp] theorem actOk_bodyLea (h : s.memOk = true) : ActOk (bodyLea f s u o) := by
  fun_cases bodyLea <;> simp [h]

@[simp] theorem actOk_dotProduct {wide : Bool} (h : s.memOk = true) : ActOk (dotProduct f s o wide) := by
  fun_cases dotProduct <;> simp [h]

/-! ### Lane moves, prefixes and reductions -/

@[simp] theorem actOk_bodyLaneid (h : s.memOk = true) : ActOk (bodyLaneid f s u o) := by
  simp [bodyLaneid, h]

@[simp] theorem actOk_bodyVmask (h : s.memOk = true) : ActOk (bodyVmask f s u o) := by
  fun_cases bodyVmask <;> simp [h]

@[simp] theorem actOk_permute1 {src : Nat → Nat} (h : s.memOk = true) : ActOk (permute1 f s o src) := by
  fun_cases permute1 <;> simp [h]

@[simp] theorem actOk_permute2 {chk : Token → Option TrapInfo} {src : Token → Token → Nat → Option Nat} (h : s.memOk = true) :
    ActOk (permute2 f s o chk src) := by
  fun_cases permute2 <;> simp [h]

@[simp] theorem actOk_bodyPfxsum (h : s.memOk = true) : ActOk (bodyPfxsum f s u o) := by
  fun_cases bodyPfxsum <;> simp [h]

@[simp] theorem actOk_bodyPfxpop (h : s.memOk = true) : ActOk (bodyPfxpop f s u o) := by
  fun_cases bodyPfxpop
  · trivial
  · trivial
  · exact h

@[simp] theorem actOk_reduceInt {g : Fmt → Int → Int → Int} (h : s.memOk = true) : ActOk (reduceInt f s o g) := by
  fun_cases reduceInt <;> simp [h]

@[simp] theorem actOk_predLogic {g : BitVec 2 → BitVec 2 → BitVec 2} (h : s.memOk = true) : ActOk (predLogic s o g) := by
  fun_cases predLogic <;> simp [h]

@[simp] theorem actOk_predUnary {g : Token → Nat → BitVec 2} (h : s.memOk = true) : ActOk (predUnary s o g) := by
  fun_cases predUnary <;> simp [h]

/-! ### Floating point -/

@[simp] theorem actOk_fUnary {cls : Fmt → Bool} {op : FpFmt → Nat → Nat × LaneFlags} (h : s.memOk = true) :
    ActOk (fUnary f s o cls op) := by
  fun_cases fUnary <;> simp [h]

@[simp] theorem actOk_fBinary {cls : Fmt → Bool} {op : FpFmt → Nat → Nat → Nat × LaneFlags} (h : s.memOk = true) :
    ActOk (fBinary f s o cls op) := by
  fun_cases fBinary <;> simp [h]

@[simp] theorem actOk_fTernary {op : FpFmt → Nat → Nat → Nat → Nat × LaneFlags} (h : s.memOk = true) : ActOk (fTernary f s o op) := by
  fun_cases fTernary <;> simp [h]

@[simp] theorem actOk_bodyFscale (h : s.memOk = true) : ActOk (bodyFscale f s u o) := by
  fun_cases bodyFscale <;> simp [h]

@[simp] theorem actOk_bodyFdot2 (h : s.memOk = true) : ActOk (bodyFdot2 f s u o) := by
  fun_cases bodyFdot2 <;> simp [h]

@[simp] theorem actOk_fCompare {ordered : Bool} {test : Num → Num → Bool} (h : s.memOk = true) :
    ActOk (fCompare f s u o ordered test) := by
  fun_cases fCompare <;> simp [h]

@[simp] theorem actOk_bodyFclass (h : s.memOk = true) : ActOk (bodyFclass f s u o) := by
  fun_cases bodyFclass <;> simp [h]

@[simp] theorem actOk_fReduce {comb : FpFmt → Nat → Nat → Nat × LaneFlags} (h : s.memOk = true) : ActOk (fReduce f s o comb) := by
  fun_cases fReduce <;> simp [h]

/-! ### Pairs and double words -/

@[simp] theorem actOk_pairOp {op : FpFmt → Num → Num → PairOut} (h : s.memOk = true) : ActOk (pairOp f s o op) := by
  fun_cases pairOp <;> simp [h]

@[simp] theorem actOk_dwResult {a : Token} {v : BitVec 16} {poison : Bool} {out : Nat → PairOut} (h : s.memOk = true) :
    ActOk (dwResult s a v poison out) := by
  simp [dwResult, h]

@[simp] theorem actOk_dwState {out : Num → Num → Num → Num → PairOut} (h : s.memOk = true) : ActOk (dwState f s u o out) := by
  fun_cases dwState <;> simp [h]

@[simp] theorem actOk_bodyDwnorm (h : s.memOk = true) : ActOk (bodyDwnorm f s u o) := by
  fun_cases bodyDwnorm <;> simp [h]

@[simp] theorem actOk_bodyDwred (h : s.memOk = true) : ActOk (bodyDwred f s u o) := by
  fun_cases bodyDwred <;> simp [h]

@[simp] theorem actOk_bodyDwtof (h : s.memOk = true) : ActOk (bodyDwtof f s u o) := by
  fun_cases bodyDwtof <;> simp [h]

/-! ### Conversions, scales and modes -/

@[simp] theorem actOk_convert {a : Token} {src : Fmt} {k : ConvCtx} {poison : Bool} {value : Nat → Num} (h : s.memOk = true) :
    ActOk (convert f s a src k poison value) := by
  simp [convert, h]

@[simp] theorem actOk_bodyFcvt (h : s.memOk = true) : ActOk (bodyFcvt f s u o) := by
  fun_cases bodyFcvt <;> simp [h]

@[simp] theorem actOk_ftoi64 {a : Token} (h : s.memOk = true) : ActOk (ftoi64 f s u a) := by
  simp [ftoi64, h]

@[simp] theorem actOk_bodyFtoi (h : s.memOk = true) : ActOk (bodyFtoi f s u o) := by
  fun_cases bodyFtoi <;> simp [h]

@[simp] theorem actOk_itof64 {a : Token} (h : s.memOk = true) : ActOk (itof64 f s u a) := by
  simp [itof64, h]

@[simp] theorem actOk_bodyItof (h : s.memOk = true) : ActOk (bodyItof f s u o) := by
  fun_cases bodyItof <;> simp [h]

@[simp] theorem actOk_bodyCbdec (h : s.memOk = true) : ActOk (bodyCbdec f s u o) := by
  fun_cases bodyCbdec <;> simp [h]

@[simp] theorem actOk_bodyCbenc (h : s.memOk = true) : ActOk (bodyCbenc f s u o) := by
  fun_cases bodyCbenc <;> simp [h]

/-- The scale given to a result bears on no memory. -/
@[simp] theorem actOk_scaledBy (sc : BitVec 8) (a : Act) : ActOk (scaledBy sc a) ↔ ActOk a := by
  fun_cases scaledBy <;> rfl

@[simp] theorem actOk_bodyBscl (h : s.memOk = true) : ActOk (bodyBscl f s u o) := by
  fun_cases bodyBscl <;> simp [h]

@[simp] theorem actOk_bodyBscalc (h : s.memOk = true) : ActOk (bodyBscalc f s u o) := by
  fun_cases bodyBscalc <;> simp [h]

@[simp] theorem actOk_packing {lane : Fmt → Token → Nat → Nat → Lane × Bool} (h : s.memOk = true) : ActOk (packing f s o lane) := by
  fun_cases packing <;> simp [h]

@[simp] theorem actOk_bodySetmode (h : s.memOk = true) : ActOk (bodySetmode f s u o) := by
  fun_cases bodySetmode <;> simp [h]

@[simp] theorem actOk_bodyGetmode (h : s.memOk = true) : ActOk (bodyGetmode f s u o) := by
  simp [bodyGetmode, h]

@[simp] theorem actOk_bodyGetflags (h : s.memOk = true) : ActOk (bodyGetflags f s u o) := by
  simp [bodyGetflags, h]

@[simp] theorem actOk_bodyClrflags (h : s.memOk = true) : ActOk (bodyClrflags f s u o) := by
  fun_cases bodyClrflags <;> simp [h]

/-! ### Registers, sends and steering -/

@[simp] theorem actOk_bodyRdp (h : s.memOk = true) : ActOk (bodyRdp f s u o) := by
  fun_cases bodyRdp <;> simp [h]

@[simp] theorem actOk_bodyRds (h : s.memOk = true) : ActOk (bodyRds f s u o) := by
  fun_cases bodyRds <;> simp [h]

@[simp] theorem actOk_bodyRdk (h : s.memOk = true) : ActOk (bodyRdk f s u o) := by
  simp [bodyRdk, h]

@[simp] theorem actOk_bodyImm (h : s.memOk = true) : ActOk (bodyImm f s u o) := by
  fun_cases bodyImm <;> simp [h]

@[simp] theorem actOk_addSend {port : Nat} {x : Outgoing} (h : s.memOk = true) : ActOk (addSend s u port x) := by
  simp [addSend, h]

@[simp] theorem actOk_bodyWrp (h : s.memOk = true) : ActOk (bodyWrp f s u o) := by
  fun_cases bodyWrp <;> simp [h]

@[simp] theorem actOk_addWrite {k : Nat} {t : Token} {r : Res} (h : s.memOk = true) : ActOk (addWrite s u k t r) := by
  simp [addWrite, h]

@[simp] theorem actOk_bodyWrs (h : s.memOk = true) : ActOk (bodyWrs f s u o) := by
  fun_cases bodyWrs <;> simp [h]

@[simp] theorem actOk_bodySendt (h : s.memOk = true) : ActOk (bodySendt f s u o) := by
  fun_cases bodySendt <;> simp [h]

@[simp] theorem actOk_bodyMov (h : s.memOk = true) : ActOk (bodyMov f s u o) := by
  fun_cases bodyMov <;> simp [h]

@[simp] theorem actOk_addExit {e : Nat} (h : s.memOk = true) : ActOk (addExit s u e) := by
  fun_cases addExit <;> simp [h]

@[simp] theorem actOk_bodyExit (h : s.memOk = true) : ActOk (bodyExit f s u o) := by
  simp [bodyExit, h]

@[simp] theorem actOk_bodySteerl (h : s.memOk = true) : ActOk (bodySteerl f s u o) := by
  fun_cases bodySteerl <;> simp [h]

@[simp] theorem actOk_bodyMerge (h : s.memOk = true) : ActOk (bodyMerge f s u o) := by
  fun_cases bodyMerge <;> simp [h]

@[simp] theorem actOk_bodyCarry (h : s.memOk = true) : ActOk (bodyCarry f s u o) := by
  fun_cases bodyCarry <;> simp [h]

@[simp] theorem actOk_bodyInvar (h : s.memOk = true) : ActOk (bodyInvar f s u o) := by
  fun_cases bodyInvar <;> simp [h]

@[simp] theorem actOk_bodyNullt (h : s.memOk = true) : ActOk (bodyNullt f s u o) := by
  fun_cases bodyNullt <;> simp [h]

@[simp] theorem actOk_bodySettag (h : s.memOk = true) : ActOk (bodySettag f s u o) := by
  fun_cases bodySettag <;> simp [h]

@[simp] theorem actOk_bodySbget (h : s.memOk = true) : ActOk (bodySbget f s u o) := by
  fun_cases bodySbget <;> simp [h]

@[simp] theorem actOk_bodyNop (h : s.memOk = true) : ActOk (bodyNop f s u o) := by
  simp [bodyNop, h]

/-! ### Heads of arcs -/

@[simp] theorem memOk_pendTrap (s : State) (src cell task : Nat) (t : TrapInfo) : (pendTrap s src cell task t).memOk = s.memOk := (rfl)

@[simp] theorem memOk_lastingAt (s : State) (page unit : Nat) : (lastingAt s page unit).memOk = s.memOk := by
  simp [lastingAt]

@[simp] theorem memOk_lastingSlot (s : State) (page : Nat) (asid : BitVec 8) (src : BitVec 16) (port : Nat) (poisoned : Bool) :
    (lastingSlot s page asid src port poisoned).memOk = s.memOk := by
  simp [lastingSlot]

@[simp] theorem memOk_lastingHead (s : State) (a : Arc) (poisoned : Bool) : (lastingHead s a poisoned).memOk = s.memOk := by
  simp [lastingHead]

@[simp] theorem memOk_setHead (s : State) (arc : Nat) (h : SlotTok) : (setHead s arc h).memOk = s.memOk := (rfl)

@[simp] theorem memOk_headCheck (s : State) (arc : Nat) : (headCheck s arc).1.memOk = s.memOk := by
  fun_cases headCheck <;> simp

@[simp] theorem memOk_pinPort (s : State) (cell p : Nat) : (pinPort s cell p).memOk = s.memOk := by
  fun_cases pinPort <;> simp

/-! ### Matrix cells and accumulators -/

@[simp] theorem actOk_bodyMlds (h : s.memOk = true) : ActOk (bodyMlds f s u o) := by
  fun_cases bodyMlds <;> simp [h]

@[simp] theorem actOk_bodyMcbl (h : s.memOk = true) : ActOk (bodyMcbl f s u o) := by
  fun_cases bodyMcbl <;> simp [h]

@[simp] theorem actOk_rowBody {chain : Bool} (h : s.memOk = true) : ActOk (rowBody f chain s u o) := by
  fun_cases rowBody <;> simp [h]

@[simp] theorem memOk_modMat (s : State) (cell : Nat) (g : MState → MState) : (modMat s cell g).memOk = s.memOk := (rfl)

/-- The state in which a head was checked. -/
theorem memOk_of_headCheck {s t : State} {k : Nat} {x : HeadFound} (h : s.memOk = true) (e : headCheck s k = (t, x)) : t.memOk = true := by
  have := memOk_headCheck s k
  rw [e] at this
  exact this.trans h

theorem outOk_execRowChainTake (h : s.memOk = true) : OutOk (execRowChainTake s) := by
  fun_cases execRowChainTake <;> simp [h]
  all_goals exact memOk_of_headCheck h ‹_›

theorem outOk_execRowOutputSend (h : s.memOk = true) : OutOk (execRowOutputSend s) := by
  fun_cases execRowOutputSend <;> simp +zetaDelta [h]

@[simp] theorem memOk_rowAccepted (s : State) (cell arc : Nat) (q : BitVec 22) : (rowAccepted s cell arc q).memOk = s.memOk := (rfl)

@[simp] theorem actOk_bodyRtset (h : s.memOk = true) : ActOk (bodyRtset f s u o) := by
  fun_cases bodyRtset <;> simp [h]

@[simp] theorem actOk_bodyRoute (h : s.memOk = true) : ActOk (bodyRoute f s u o) := by
  fun_cases bodyRoute <;> simp [h]

@[simp] theorem actOk_bodyMstat (h : s.memOk = true) : ActOk (bodyMstat f s u o) := by
  simp [bodyMstat, h]

/-- One more effect of the retirement bears on no memory. -/
@[simp] theorem actOk_andLater (d : Deferred) (fl : FlagSet) (a : Act) : ActOk (a.andLater u d fl) ↔ ActOk a := by
  fun_cases Act.andLater <;> simp

@[simp] theorem actOk_accumulate {byTag : Bool} (h : s.memOk = true) : ActOk (accumulate f byTag s u o) := by
  fun_cases accumulate <;> simp [h]

@[simp] theorem actOk_bodyEor (h : s.memOk = true) : ActOk (bodyEor f s u o) := by
  fun_cases bodyEor <;> simp [h]

@[simp] theorem actOk_addWrites {ks : List Nat} {t : Token} (h : s.memOk = true) : ActOk (addWrites s u ks t) := by
  simp [addWrites, h]

@[simp] theorem actOk_bodyAccrel (h : s.memOk = true) : ActOk (bodyAccrel f s u o) := by
  fun_cases bodyAccrel <;> simp [h]

@[simp] theorem actOk_bodyAccrd (h : s.memOk = true) : ActOk (bodyAccrd f s u o) := by
  fun_cases bodyAccrd <;> simp [h]

@[simp] theorem memOk_queueTokens (s : State) (k : Nat × Nat) (port : Nat) (toks : List Token) (level : Option Nat) :
    (queueTokens s k port toks level).memOk = s.memOk := (rfl)

theorem outOk_execReleaseQueueSend (h : s.memOk = true) : OutOk (execReleaseQueueSend s) := by
  fun_cases execReleaseQueueSend <;> simp [h]

/-! ### Streams -/

@[simp] theorem memOk_modSlot (s : State) (tile j : Nat) (g : StreamSlot → StreamSlot) : (modSlot s tile j g).memOk = s.memOk := (rfl)

@[simp] theorem memOk_keepReplay (s : State) (tile : Nat) (r : Replay) : (keepReplay s tile r).memOk = s.memOk := (rfl)

@[simp] theorem memOk_slotSendAt (s : State) (tile j : Nat) (t : Token) (reads : List ElemRead) (level : Option Nat) :
    (slotSendAt s tile j t reads level).memOk = s.memOk := by
  fun_cases slotSendAt <;> simp +zetaDelta

@[simp] theorem memOk_slotSend (s : State) (tile j : Nat) (t : Token) (reads : List ElemRead) :
    (slotSend s tile j t reads).memOk = s.memOk := by
  simp [slotSend]

@[simp] theorem memOk_settleSlot (s : State) (tile j : Nat) : (settleSlot s tile j).memOk = s.memOk := by
  fun_cases settleSlot <;> simp

@[simp] theorem memOk_slotFault (s : State) (tile j n : Nat) (m : StreamCmd) (t : TrapInfo) :
    (slotFault s tile j n m t).memOk = s.memOk := (rfl)

@[simp] theorem memOk_slotTrapTaken (s : State) (tile : Nat) (t : TrapInfo) : (slotTrapTaken s tile t).memOk = s.memOk := (rfl)

/-- The state that the taking of a head leaves. -/
@[simp] def TakeHead.left : TakeHead → State
  | .none s | .lost s _ | .some s _ _ => s

theorem memOk_takeHead (cell port : Nat) (h : s.memOk = true) : (takeHead s cell port).left.memOk = true := by
  fun_cases takeHead
  · exact h
  · exact h
  all_goals exact memOk_of_headCheck h ‹_›

theorem memOk_of_takeHead {cell port : Nat} {x : TakeHead} (h : s.memOk = true) (e : takeHead s cell port = x) :
    x.left.memOk = true := e ▸ memOk_takeHead cell port h

@[simp] theorem memOk_tileGap (s : State) (tile port : Nat) (q : BitVec 22) : (tileGap s tile port q).memOk = s.memOk := by
  fun_cases tileGap <;> simp +zetaDelta

@[simp] theorem memOk_endJoin (s : State) (tile j p : Nat) : (endJoin s tile j p).memOk = s.memOk := by
  fun_cases endJoin <;> simp

theorem outOk_execStreamCommandAccept (h : s.memOk = true) : OutOk (execStreamCommandAccept s) := by
  fun_cases execStreamCommandAccept <;> simp +zetaDelta [h]
  all_goals
    have ht := memOk_of_takeHead h ‹_›
    exact ht

@[simp] theorem memOk_keepReads (s : State) (tile j : Nat) (at_ : Nat → Nat) (now : List ElemRead) :
    (keepReads s tile j at_ now).memOk = s.memOk := by
  simp [keepReads]

@[simp] theorem memOk_sendElems (s : State) (tile j : Nat) (c : StreamCmd) (m : Fmt) (elems : List (Nat × Int × Nat))
    (valid : BitVec 16) (adv : Nat) : (sendElems s tile j c m elems valid adv).memOk = s.memOk := by
  fun_cases sendElems <;> simp

theorem outOk_execStreamReadTokenSend (h : s.memOk = true) : OutOk (execStreamReadTokenSend s) := by
  fun_cases execStreamReadTokenSend <;> simp [h]

theorem outOk_execIndirectStreamGather (h : s.memOk = true) : OutOk (execIndirectStreamGather s) := by
  fun_cases execIndirectStreamGather <;> simp +zetaDelta [h]

@[simp] theorem memOk_pushToken (tile j k : Nat) (x : StreamSlot) (m : StreamCmd) (g : Fmt) (t : Token)
    (l : List (Nat × Nat × List Seg)) (h : s.memOk = true) : (pushToken s tile j k x m g t l).memOk = true := by
  fun_cases pushToken <;> simp +zetaDelta [memOk_applyWrites, h]

theorem outOk_execStreamPushTake (h : s.memOk = true) : OutOk (execStreamPushTake s) := by
  fun_cases execStreamPushTake <;> simp +zetaDelta [h]
  all_goals
    have ht := memOk_of_takeHead h ‹_›
    rw [TakeHead.left] at ht
    simp [ht]

@[simp] theorem memOk_joinSend (s : State) (tile j : Nat) (d : JoinSide) (x : JoinSource) (tk : Taken) (reads : List ElemRead) :
    (joinSend s tile j d x tk reads).memOk = s.memOk := by
  simp [joinSend]

@[simp] theorem memOk_readKeys (s : State) (tile j : Nat) (d : JoinSide) (n : Nat) : (readKeys s tile j d n).memOk = s.memOk := by
  simp [readKeys]

theorem outOk_execCoiterationStep (h : s.memOk = true) : OutOk (execCoiterationStep s) := by
  fun_cases execCoiterationStep <;> simp [h]

@[simp] theorem actOk_armStream {indirect : Bool} (h : s.memOk = true) : ActOk (armStream f indirect s u o) := by
  fun_cases armStream <;> simp [h]

@[simp] theorem memOk_popHead (s : State) (cell p : Nat) : (popHead s cell p).1.memOk = s.memOk := by
  fun_cases popHead <;> simp

/-- The state in which an instruction's head was checked. -/
theorem memOk_of_popHead {s t : State} {cell p : Nat} {x : HeadFound} (h : s.memOk = true) (e : popHead s cell p = (t, x)) :
    t.memOk = true := by
  have := memOk_popHead s cell p
  rw [e] at this
  exact this.trans h

@[simp] theorem actOk_bodySpop (h : s.memOk = true) : ActOk (bodySpop f s u o) := by
  fun_cases bodySpop <;> simp
  all_goals exact memOk_of_popHead h ‹_›

@[simp] theorem actOk_bodySpush (h : s.memOk = true) : ActOk (bodySpush f s u o) := by
  fun_cases bodySpush <;> simp [h]

@[simp] theorem actOk_bodySstat (h : s.memOk = true) : ActOk (bodySstat f s u o) := by
  fun_cases bodySstat <;> simp [h]

/-! ### Sets, bitmaps and hash tables -/

@[simp] theorem actOk_combine {rule : PairRule} (h : s.memOk = true) : ActOk (combine s o rule) := by
  fun_cases combine <;> simp [h]

@[simp] theorem actOk_bodyBmand (h : s.memOk = true) : ActOk (bodyBmand f s u o) := by
  fun_cases bodyBmand <;> simp [h]

@[simp] theorem actOk_bodyBmpfx (h : s.memOk = true) : ActOk (bodyBmpfx f s u o) := by
  fun_cases bodyBmpfx <;> simp [h]

theorem memOk_hashLanes (page base m : Nat) (insert : Bool) (a : Token) (l : List Nat) (s : State) (r : HashOut) (h : s.memOk = true) :
    (hashLanes page base m insert a l s r).1.memOk = true := by
  fun_induction hashLanes <;> simp_all [memOk_performWrite]

@[simp] theorem actOk_hashOp {insert : Bool} (h : s.memOk = true) :
    ActOk (hashOp insert f s u o) := by
  fun_cases hashOp <;> simp +zetaDelta [memOk_hashLanes, h]

/-! ### Contractions -/

theorem memOk_contractElem {s t : State} {u : Cur} {c : Contraction} {x : ContractPlan} {done : List Reading} (h : s.memOk = true)
    (e : contractElem s u c x done = some t) : t.memOk = true := by
  revert e
  fun_cases contractElem
  · simp
  · rintro ⟨⟩
    simp [memOk_performWrites, h]

theorem memOk_contractFrom (u : Cur) (p : Party) (c : Contraction) (outs rest : List Nat) (k n : Nat) (done : List Reading) (s : State)
    (h : s.memOk = true) : (contractFrom u p c outs rest k n done s).s.memOk = true := by
  fun_induction contractFrom with
  | case1 | case2 | case3 => exact h
  | case4 k n done s x hx t e ih => exact ih (memOk_contractElem h e)

theorem actOk_contractPiece (c : Contraction) (x : ContractPlan) (block : List (Byte × Bool)) (n total : Nat)
    (done : List Reading) (h : s.memOk = true) : ActOk (contractPiece s u c x block n total done) := by
  fun_cases contractPiece <;> simp [h]
  all_goals exact memOk_contractElem h ‹_›

theorem actOk_contractGo (p : Party) (base : Nat) (block : List (Byte × Bool)) (n : Nat) (done : List Reading)
    (h : s.memOk = true) : ActOk (contractGo s u p base block n done) := by
  fun_cases contractGo <;> simp +zetaDelta [actOk_contractPiece, memOk_contractFrom, h]

theorem actOk_contractBlock (p : Party) (b : Base) (d : PartAccess) (h : s.memOk = true) :
    ActOk (contractBlock s u p b d) := by
  fun_cases contractBlock <;> simp [actOk_contractGo, h]

@[simp] theorem actOk_bodyContract (h : s.memOk = true) : ActOk (bodyContract f s u o) := by
  fun_cases bodyContract <;> simp [actOk_contractBlock, actOk_contractGo, h]

/-! ### Pointers -/

@[simp] theorem actOk_bodyPsetb (h : s.memOk = true) : ActOk (bodyPsetb f s u o) := by
  fun_cases bodyPsetb <;> simp [h]

@[simp] theorem actOk_bodyPsetp (h : s.memOk = true) : ActOk (bodyPsetp f s u o) := by
  fun_cases bodyPsetp <;> simp [h]

@[simp] theorem actOk_bodyPadd (h : s.memOk = true) : ActOk (bodyPadd f s u o) := by
  fun_cases bodyPadd <;> simp [h]

@[simp] theorem actOk_bodyPchk (h : s.memOk = true) : ActOk (bodyPchk f s u o) := by
  fun_cases bodyPchk <;> simp [h]

@[simp] theorem actOk_bodyPget (h : s.memOk = true) : ActOk (bodyPget f s u o) := by
  fun_cases bodyPget <;> simp [h]

@[simp] theorem actOk_reseal {want new : Nat} (h : s.memOk = true) : ActOk (reseal f want new s u o) := by
  fun_cases reseal <;> simp [h]

@[simp] theorem actOk_bodyPmint (h : s.memOk = true) : ActOk (bodyPmint f s u o) := by
  fun_cases bodyPmint <;> simp [h]

/-! ### Tasks, groups and counters -/

@[simp] theorem actOk_bodyGrpid (h : s.memOk = true) : ActOk (bodyGrpid f s u o) := by
  simp [bodyGrpid, h]

@[simp] theorem actOk_bodyRole (h : s.memOk = true) : ActOk (bodyRole f s u o) := by
  fun_cases bodyRole <;> simp [h]

@[simp] theorem actOk_bodySpawn (h : s.memOk = true) : ActOk (bodySpawn f s u o) := by
  fun_cases bodySpawn <;> simp [h]

@[simp] theorem actOk_bodyTear (h : s.memOk = true) : ActOk (bodyTear f s u o) := by
  simp [bodyTear, h]

@[simp] theorem actOk_oneLong {v : BitVec 64} {valid : BitVec 16} (h : s.memOk = true) : ActOk (oneLong s v valid) := by
  simp [oneLong, h]

@[simp] theorem actOk_bodyBal (h : s.memOk = true) : ActOk (bodyBal f s u o) := by
  fun_cases bodyBal <;> simp [h]

@[simp] theorem actOk_bodyTime (h : s.memOk = true) : ActOk (bodyTime f s u o) := by
  simp [bodyTime, h]

@[simp] theorem actOk_bodyFirecnt (h : s.memOk = true) : ActOk (bodyFirecnt f s u o) := by
  simp [bodyFirecnt, h]

@[simp] theorem actOk_bodyEvt (h : s.memOk = true) : ActOk (bodyEvt f s u o) := by
  fun_cases bodyEvt <;> simp [h]

/-! ### Collectives and the sequencer -/

@[simp] theorem memOk_modNum (s : State) (n : BitVec 32) (g : LocalNum → LocalNum) : (modNum s n g).memOk = s.memOk := (rfl)

@[simp] theorem memOk_deliver (s : State) (l : Sent) : (deliver s l).memOk = s.memOk := (rfl)

@[simp] theorem memOk_dropRequest (s : State) (q : SeqReq) : (dropRequest s q).memOk = s.memOk := (rfl)

@[simp] theorem memOk_requestSent (s : State) (q : SeqReq) : (requestSent s q).memOk = s.memOk := by
  simp [requestSent]

@[simp] theorem memOk_primaryTakes (s : State) (q : SeqReq) : (primaryTakes s q).memOk = s.memOk := by
  fun_cases primaryTakes <;> simp +zetaDelta

@[simp] theorem memOk_standbyTakes (s : State) (q : SeqReq) : (standbyTakes s q).memOk = s.memOk := (rfl)

theorem outOk_seqEvent (k : ReqClass) (h : s.memOk = true) : OutOk (seqEvent k s) := by
  fun_cases seqEvent <;> simp [h]

@[simp] theorem memOk_noteColl (s : State) (cell : Nat) (o : CollOp) : (noteColl s cell o).memOk = s.memOk := by
  fun_cases noteColl <;> simp

@[simp] theorem memOk_lateColl (s : State) (cell : Nat) (o : CollOp) : (lateColl s cell o).memOk = s.memOk := by
  fun_cases lateColl <;> simp

@[simp] theorem memOk_giveAnswer (s : State) (cell task ins : Nat) (v : Option (BitVec 32)) :
    (giveAnswer s cell task ins v).memOk = s.memOk := by
  simp [giveAnswer]

@[simp] theorem memOk_answerFiring (s : State) (q : SeqReq) (v : Option (BitVec 32)) : (answerFiring s q v).memOk = s.memOk := by
  simp [answerFiring]

@[simp] theorem memOk_acceptRequest (s : State) (q : SeqReq) (v : BitVec 32) : (acceptRequest s q v).memOk = s.memOk := by
  unfold acceptRequest
  repeat' split
  all_goals simp +zetaDelta

@[simp] theorem memOk_takeMsg (s : State) (m : SeqMsg) : (takeMsg s m).memOk = s.memOk := by
  fun_cases takeMsg <;> simp

theorem outOk_execCollectiveAnnounce (h : s.memOk = true) : OutOk (execCollectiveAnnounce s) := by
  fun_cases execCollectiveAnnounce <;> simp [h]

theorem outOk_execCollectiveGo (h : s.memOk = true) : OutOk (execCollectiveGo s) := by
  fun_cases execCollectiveGo <;> simp [h]

theorem outOk_execCollectiveCancelNotice (h : s.memOk = true) : OutOk (execCollectiveCancelNotice s) := by
  simp [execCollectiveCancelNotice, h]

@[simp] theorem memOk_noticeGap (s : State) (h : BitVec 32) : (noticeGap s h).memOk = s.memOk := by
  simp [noticeGap]

@[simp] theorem memOk_sendAgain (s : State) : (sendAgain s).memOk = s.memOk := (rfl)

@[simp] theorem memOk_becomePrimary (s : State) : (becomePrimary s).memOk = s.memOk := by
  simp [becomePrimary]

theorem outOk_execStandbyTakeover (h : s.memOk = true) : OutOk (execStandbyTakeover s) := by
  simp [execStandbyTakeover, h]

theorem outOk_execTakeoverNotice (h : s.memOk = true) : OutOk (execTakeoverNotice s) := by
  fun_cases execTakeoverNotice <;> simp [h]

theorem outOk_execSequencerFailNoStandby (h : s.memOk = true) : OutOk (execSequencerFailNoStandby s) := by
  simp [execSequencerFailNoStandby, h]

theorem outOk_execMemberUnreachable (h : s.memOk = true) : OutOk (execMemberUnreachable s) := by
  simp [execMemberUnreachable, h]

theorem outOk_execReachLinkFail (h : s.memOk = true) : OutOk (execReachLinkFail s) := by
  simp [execReachLinkFail, h]

@[simp] theorem actOk_askSequencer (group : BitVec 12) (kind : SeqReqKind) (onAnswer : BitVec 32 → Act)
    (h : s.memOk = true) (ha : ∀ v, ActOk (onAnswer v)) : ActOk (askSequencer s u group kind onAnswer) := by
  fun_cases askSequencer <;> simp [ha, h]

@[simp] theorem actOk_collValue {v : BitVec 32} (h : s.memOk = true) : ActOk (collValue s v) := by
  simp [collValue, h]

@[simp] theorem memOk_dropReplay (s : State) (u : Cur) (o : CollOp) : (dropReplay s u o).memOk = s.memOk := by
  simp [dropReplay]

@[simp] theorem memOk_repeatColl (s : State) (u : Cur) (o : CollOp) : (repeatColl s u o).memOk = s.memOk := by
  simp [repeatColl]

@[simp] theorem actOk_bodyClnum (h : s.memOk = true) : ActOk (bodyClnum f s u o) := by
  fun_cases bodyClnum <;> simp [h]

@[simp] theorem actOk_bodyClpost (h : s.memOk = true) : ActOk (bodyClpost f s u o) := by
  fun_cases bodyClpost <;> simp [h]

@[simp] theorem actOk_bodyClcancel (h : s.memOk = true) : ActOk (bodyClcancel f s u o) := by
  fun_cases bodyClcancel <;> simp [h]

@[simp] theorem actOk_bodyClstat (h : s.memOk = true) : ActOk (bodyClstat f s u o) := by
  fun_cases bodyClstat <;> simp [h]

@[simp] theorem actOk_bodyCljoin (h : s.memOk = true) : ActOk (bodyCljoin f s u o) := by
  fun_cases bodyCljoin <;> simp [h]

@[simp] theorem actOk_bodyClleave (h : s.memOk = true) : ActOk (bodyClleave f s u o) := by
  simp [bodyClleave, h]

@[simp] theorem actOk_bodyClquery (h : s.memOk = true) : ActOk (bodyClquery f s u o) := by
  simp [bodyClquery, h]

/-! ### Traps, sluices and cuts as instructions -/

@[simp] theorem actOk_bodyTrap : ActOk (bodyTrap f s u o) := by
  simp [bodyTrap]

@[simp] theorem actOk_bodySluice (h : s.memOk = true) : ActOk (bodySluice f s u o) := by
  fun_cases bodySluice <;> simp [h]

@[simp] theorem actOk_fourLanes {l : List Nat} (h : s.memOk = true) : ActOk (fourLanes s l) := by
  simp [fourLanes, h]

@[simp] theorem actOk_bodyCutstat (h : s.memOk = true) : ActOk (bodyCutstat f s u o) := by
  simp [bodyCutstat, h]

@[simp] theorem actOk_bodyResumeq (h : s.memOk = true) : ActOk (bodyResumeq f s u o) := by
  simp [bodyResumeq, h]

/-! ### Blocks and the arbiter -/

@[simp] theorem memOk_movePoint (s : State) (asid : BitVec 8) (f key : Nat) : (movePoint s asid f key).memOk = s.memOk := (rfl)

@[simp] theorem memOk_setPointer (s : State) (cell level n : Nat) : (setPointer s cell level n).memOk = s.memOk := (rfl)

/-- The check of the heads that a firing would take changes no memory. -/
@[simp] theorem memOk_headsChecked (s : State) (cell : Nat) (l : List Nat) : (headsChecked s cell l).1.memOk = s.memOk := by
  fun_induction headsChecked with
  | case1 => rfl
  | case2 s p r e ih => exact ih
  | case3 s p r k a e t ht ih => rw [ih, ← memOk_headCheck s k, ht]
  | case4 s p r k a e t x hx ht => rw [← memOk_headCheck s k, ht]

@[simp] theorem memOk_reserveArcs (s : State) (cell : Nat) (c : Cell) (blk : Nat) (l : List Nat) :
    (reserveArcs s cell c blk l).1.memOk = s.memOk := by
  fun_induction reserveArcs <;> simp_all +zetaDelta

@[simp] theorem memOk_reserveOps (s : State) (cell : Nat) (l : List IWord) : (reserveOps s cell l).1.memOk = s.memOk := by
  fun_induction reserveOps <;> simp_all +zetaDelta

@[simp] theorem memOk_beginFiring (s : State) (cell task : Nat) (c : Cell) (t : Task) : (beginFiring s cell task c t).memOk = s.memOk := by
  simp only [beginFiring, memOk_touchCell, memOk_setTask, memOk_ite, memOk_acquireAt, ite_self]
  split <;> simp

@[simp] theorem memOk_takePending (s : State) (cell task : Nat) (t : Task) (x : TrapInfo × Nat) :
    (takePending s cell task t x).memOk = s.memOk := by
  fun_cases takePending <;> simp +zetaDelta

@[simp] theorem memOk_chooseTask (s : State) (cell : Nat) (c : Cell) (level n : Nat) (t : Task) :
    (chooseTask s cell c level n t).memOk = s.memOk := by
  rw [← memOk_headsChecked s cell (readPorts c t.block)]
  fun_cases chooseTask <;> simp_all +zetaDelta

@[simp] theorem memOk_arbiterChoice (s : State) (cell : Nat) (c : Cell) : (arbiterChoice s cell c).memOk = s.memOk := by
  fun_cases arbiterChoice <;> simp

theorem outOk_execArbiterChoice (h : s.memOk = true) : OutOk (execArbiterChoice s) := by
  fun_cases execArbiterChoice <;> simp [h]

/-! ### Ports, arcs and teardown -/

@[simp] theorem memOk_checkCounts (s : State) (cell : Nat) : (checkCounts s cell).memOk = s.memOk := by
  fun_cases checkCounts
  · rfl
  · refine memOk_foldl_same (fun z kt => ?_) _ _
    split
    · rfl
    · split <;> simp

@[simp] theorem memOk_rebind (s : State) (asid : BitVec 8) : (rebind s asid).memOk = s.memOk := (rfl)

@[simp] theorem memOk_modReplica (s : State) (inst : BitVec 32) (stage r : Nat) (g : Task → Task) :
    (modReplica s inst stage r g).memOk = s.memOk := (rfl)

@[simp] theorem memOk_activateReplica (s : State) (inst : BitVec 32) (stage r : Nat) :
    (activateReplica s inst stage r).memOk = s.memOk := by
  fun_cases activateReplica <;> simp +zetaDelta

@[simp] theorem memOk_activateConsumer (s : State) (a : Arc) : (activateConsumer s a).memOk = s.memOk := by
  fun_cases activateConsumer <;> simp

@[simp] theorem memOk_notePoison (s : State) (a : Arc) (before after : Item) : (notePoison s a before after).memOk = s.memOk := by
  fun_cases notePoison <;> simp

@[simp] theorem memOk_raiseGap (s : State) (cell port : Nat) (q : BitVec 22) : (raiseGap s cell port q).memOk = s.memOk := by
  fun_cases raiseGap <;> simp

@[simp] theorem memOk_dropTeardowns (s : State) (cell port : Nat) : (dropTeardowns s cell port).memOk = s.memOk := by
  simp [dropTeardowns]

@[simp] theorem memOk_settlePort (s : State) (cell port : Nat) : (settlePort s cell port).memOk = s.memOk := by
  fun_cases settlePort <;> simp

@[simp] theorem memOk_acknowledged (s : State) (arc : Nat) (a : Arc) (q : BitVec 22) : (acknowledged s arc a q).memOk = s.memOk := by
  fun_cases acknowledged <;> simp

@[simp] theorem memOk_acceptSlot (s : State) (arc : Nat) (a : Arc) (x : SlotTok) (it : Item) :
    (acceptSlot s arc a x it).memOk = s.memOk := by
  simp [acceptSlot]

@[simp] theorem memOk_noteRecovered (s : State) (a : Arc) : (noteRecovered s a).memOk = s.memOk := by
  simp [noteRecovered]

@[simp] theorem memOk_mendEntering (s : State) (arc : Nat) (a : Arc) (x : SlotTok) : (mendEntering s arc a x).1.memOk = s.memOk := by
  fun_cases mendEntering <;> simp

@[simp] theorem memOk_modSpill (s : State) (asid : BitVec 8) (q : Nat) (g : SpillQueue → SpillQueue) :
    (modSpill s asid q g).memOk = s.memOk := (rfl)

@[simp] theorem memOk_acceptSpill (s : State) (arc : Nat) (a : Arc) (asid : BitVec 8) (q : Nat) (extension : Bool) (x : SlotTok) (it : Item) :
    (acceptSpill s arc a asid q extension x it).memOk = s.memOk := by
  rw [← memOk_mendEntering s arc a { x with item := it }]
  fun_cases acceptSpill <;> simp_all +zetaDelta

@[simp] theorem memOk_orphan (s : State) (arc : Nat) (a : Arc) (it : Item) : (orphan s arc a it).memOk = s.memOk := by
  simp [orphan]

@[simp] theorem memOk_acceptNext (s : State) (arc : Nat) (a : Arc) (x : SlotTok) (it : Item) :
    (acceptNext s arc a x it).memOk = s.memOk := by
  fun_cases acceptNext <;> simp

@[simp] theorem memOk_fillHead (s : State) (arc : Nat) (a : Arc) (raw : Item) : (fillHead s arc a raw).memOk = s.memOk := by
  simp [fillHead]

theorem outOk_execTokenAccept (h : s.memOk = true) : OutOk (execTokenAccept s) := by
  fun_cases execTokenAccept <;> simp [h]

@[simp] theorem memOk_detachIfEmpty (s : State) (asid : BitVec 8) (q : Nat) (cell : Nat) :
    (detachIfEmpty s asid q cell).memOk = s.memOk := by
  fun_cases detachIfEmpty <;> simp +zetaDelta

@[simp] theorem memOk_passOne (s : State) (asid : BitVec 8) (q : Nat) : (passOne s asid q).memOk = s.memOk := by
  fun_cases passOne <;> simp +zetaDelta

theorem outOk_execSpillwayPass (h : s.memOk = true) : OutOk (execSpillwayPass s) := by
  fun_cases execSpillwayPass <;> simp [h]

theorem outOk_execReplaySend (h : s.memOk = true) : OutOk (execReplaySend s) := by
  fun_cases execReplaySend <;> simp +zetaDelta [h]

@[simp] theorem memOk_sendTeardown (s : State) (cell port : Nat) : (sendTeardown s cell port).memOk = s.memOk := by
  refine memOk_foldl_same (fun z ka => ?_) _ _
  split <;> simp

@[simp] theorem memOk_giveBanks (s : State) (k : Nat × Nat) (l : List (Nat × Nat)) : (giveBanks s k l).memOk = s.memOk := by
  obtain ⟨hp, hg, hi, -⟩ := giveBanks_same s k l
  exact (SameMemory.of_eq hp hg hi).memOk_eq

@[simp] theorem memOk_startDrain (s : State) (cell task : Nat) : (startDrain s cell task).memOk = s.memOk := by
  fun_cases startDrain <;> simp

@[simp] theorem memOk_becomeDrained (s : State) (cell task : Nat) : (becomeDrained s cell task).memOk = s.memOk := by
  fun_cases becomeDrained <;> simp +zetaDelta

@[simp] theorem memOk_drainOn (s : State) (cell task : Nat) (c : Cell) (t : Task) : (drainOn s cell task c t).memOk = s.memOk := by
  simp [drainOn]

theorem outOk_execTaskDrain (h : s.memOk = true) : OutOk (execTaskDrain s) := by
  fun_cases execTaskDrain <;> simp +zetaDelta [h]
  split <;> simp [h]

theorem outOk_execStreamSlotTeardown (h : s.memOk = true) : OutOk (execStreamSlotTeardown s) := by
  fun_cases execStreamSlotTeardown <;> simp +zetaDelta [h]

theorem memOk_spawnAct {s t : State} {r : SpawnReq} (h : s.memOk = true) (e : spawnAct s r = some t) : t.memOk = true := by
  revert e
  fun_cases spawnAct
  all_goals rintro ⟨⟩
  all_goals simp +zetaDelta [h]

theorem outOk_execSpawnArrive (h : s.memOk = true) : OutOk (execSpawnArrive s) := by
  fun_cases execSpawnArrive <;> simp [h]
  exact memOk_spawnAct h ‹_›

theorem outOk_execFlitCrcRetry (h : s.memOk = true) : OutOk (execFlitCrcRetry s) := by
  simp [execFlitCrcRetry, h]

@[simp] theorem memOk_leaveOut (s : State) (n e k : Nat) : (leaveOut s n e k).memOk = s.memOk := by
  fun_cases leaveOut <;> simp

theorem outOk_execUcieModuleExclude (h : s.memOk = true) : OutOk (execUcieModuleExclude s) := by
  fun_cases execUcieModuleExclude <;> simp [h]

/-! ### Retirement -/

@[simp] theorem memOk_performEntry (page : Nat) (e : Pending) (h : s.memOk = true) : (performEntry s page e).memOk = true := by
  fun_cases performEntry <;> simp [memOk_performWrite, memOk_atomicStep, h]

@[simp] theorem memOk_countCard (s : State) (card : Option Nat) : (countCard s card).memOk = s.memOk := by
  fun_cases countCard <;> simp

@[simp] theorem memOk_performOf (key : Nat × Nat) (e : Pending) (h : s.memOk = true) : (performOf s key e).memOk = true := by
  simp [performOf, h]

@[simp] theorem memOk_applyStanding (key : Nat × Nat) (t : Task) (k : Nat) (e : Pending) (h : s.memOk = true) :
    (applyStanding s key t k e).memOk = true := by
  fun_cases applyStanding <;> simp [h]

@[simp] theorem memOk_applyPending (key : Nat × Nat) (k : Nat) (atomics stays : Bool) (h : s.memOk = true) :
    (applyPending s key k atomics stays).memOk = true := by
  fun_cases applyPending <;> simp +zetaDelta [h]

theorem outOk_execAtomicApply (h : s.memOk = true) : OutOk (execAtomicApply s) := by
  simp [execAtomicApply, h]

theorem outOk_execRemoteOutboundSend (h : s.memOk = true) : OutOk (execRemoteOutboundSend s) := by
  fun_cases execRemoteOutboundSend <;> simp [h]

theorem outOk_execReleaseComplete (h : s.memOk = true) : OutOk (execReleaseComplete s) := by
  fun_cases execReleaseComplete <;> simp [h]

theorem outOk_execTranslationWalk (h : s.memOk = true) : OutOk (execTranslationWalk s) := by
  simp [execTranslationWalk, h]

theorem outOk_execTrapRecordWrite (h : s.memOk = true) : OutOk (execTrapRecordWrite s) := by
  fun_cases execTrapRecordWrite <;> simp [h]

@[simp] theorem memOk_modJob (s : State) (id n : Nat) (g : Job → Job) : (modJob s id n g).memOk = s.memOk := (rfl)

@[simp] theorem memOk_applyPush (s : State) (asid : BitVec 8) (f : Nat) (job : Option (Nat × Nat)) :
    (applyPush s asid f job).memOk = s.memOk := by
  fun_cases applyPush <;> simp +zetaDelta

@[simp] theorem memOk_pushWhenFree (s : State) (asid : BitVec 8) (f : Nat) (job : Option (Nat × Nat)) :
    (pushWhenFree s asid f job).memOk = s.memOk := by
  fun_cases pushWhenFree <;> simp

@[simp] theorem memOk_sendRequest (s : State) (cell task ins : Nat) (g : BitVec 12) (k : SeqReqKind) :
    (sendRequest s cell task ins g k).memOk = s.memOk := (rfl)

@[simp] theorem memOk_setPostPush (s : State) (asid : BitVec 8) (n : BitVec 32) (push : Bool) :
    (setPostPush s asid n push).memOk = s.memOk := (rfl)

@[simp] theorem memOk_postCard (s : State) (cell task ins : Nat) (inst : BitVec 32) (chain : Option Nat) (job : Nat)
    (lanes : Vector Lane 16) : (postCard s cell task ins inst chain job lanes).memOk = s.memOk := by
  simp [postCard]

@[simp] theorem memOk_setSluice (s : State) (inst : BitVec 32) (index : Nat) (arm : Bool) :
    (setSluice s inst index arm).memOk = s.memOk := by
  fun_cases setSluice <;> simp +zetaDelta

@[simp] theorem memOk_askCut (s : State) (inst : BitVec 32) : (askCut s inst).memOk = s.memOk := by
  refine memOk_modInst_same s inst _ fun i => ?_
  split <;> rfl

@[simp] theorem memOk_applyDeferred (cell task : Nat) (inst : BitVec 32) (book : Book) (level : Option Nat) (s : State) (d : Nat × Deferred) :
    (applyDeferred cell task inst book level s d).memOk = s.memOk := by
  obtain ⟨n, d⟩ := d
  cases d
  case releaseTile b n port toks => cases port <;> simp [applyDeferred]
  case giveBank k | yield => simp only [applyDeferred]; split <;> simp
  all_goals simp [applyDeferred]

@[simp] theorem memOk_leaveHead (s : State) (cell : Nat) (c : Cell) (replayed : Bool) (p : Nat) :
    (leaveHead s cell c replayed p).memOk = s.memOk := by
  fun_cases leaveHead <;> simp

@[simp] theorem memOk_sendOne (s : State) (cell task : Nat) (fr : Firing) (x : Nat × Outgoing) :
    (sendOne s cell task fr x).memOk = s.memOk := by
  fun_cases sendOne <;> simp

@[simp] theorem memOk_tearPort (s : State) (cell port : Nat) : (tearPort s cell port).memOk = s.memOk := by
  simp [tearPort]

@[simp] theorem memOk_takeExit (s : State) (cell task : Nat) (c : Cell) (fr : Firing) : (takeExit s cell task c fr).memOk = s.memOk := by
  fun_cases takeExit <;> simp

@[simp] theorem memOk_takeGap (s : State) (cell task : Nat) : (takeGap s cell task).memOk = s.memOk := by
  fun_cases takeGap <;> simp

@[simp] theorem memOk_retire (s : State) (cell task : Nat) (c : Cell) (t : Task) (fr : Firing) :
    (retire s cell task c t fr).memOk = s.memOk := by
  unfold retire
  repeat' split
  all_goals simp +zetaDelta

theorem outOk_execBlockRetire (h : s.memOk = true) : OutOk (execBlockRetire s) := by
  fun_cases execBlockRetire <;> simp [h]

/-! ### Freezes, errors, cuts and rollback -/

@[simp] theorem memOk_setFrame (s : State) (f : FrameId) (x : Frame) : (setFrame s f x).memOk = s.memOk := (rfl)

@[simp] theorem memOk_scrubFrame (s : State) (asid : BitVec 8) (f : FrameId) : (scrubFrame s asid f).memOk = s.memOk := (rfl)

@[simp] theorem memOk_raiseLevels (s : State) (page : Nat) : (raiseLevels s page).memOk = s.memOk := (rfl)

@[simp] theorem memOk_passAll (s : State) (asid : BitVec 8) (q n : Nat) : (passAll s asid q n).memOk = s.memOk := by
  induction n generalizing s with
  | zero => rfl
  | succ n ih => rw [passAll, ih, memOk_passOne]

@[simp] theorem memOk_passQueues (s : State) (page : Nat) (asid : BitVec 8) : (passQueues s page asid).memOk = s.memOk := by
  refine memOk_foldl_same (fun z q => ?_) _ _
  repeat' split
  all_goals simp

@[simp] theorem memOk_thawPage (page : Nat) (h : s.memOk = true) : (thawPage s page).memOk = true := by
  unfold thawPage
  split
  · exact h
  · next p hp =>
    simp [memOk_setPage_of_tget h hp]

@[simp] theorem memOk_movePage (page : Nat) (f : FrameId) (h : s.memOk = true) : (movePage s page f).memOk = true := by
  unfold movePage
  split
  · exact h
  · next p hp =>
    refine memOk_setPage _ page _ ?_ ?_
    · split <;> simp [h]
    · exact memsWf_of_tget h (p := p) hp

@[simp] theorem memOk_rewriteCells (s : State) (page : Nat) : (rewriteCells s page).memOk = s.memOk := (rfl)

@[simp] theorem memOk_transientAt (page unit index : Nat) (h : s.memOk = true) :
    (transientAt s page unit index).memOk = true := by
  unfold transientAt
  split
  · exact h
  · next p hp =>
    simp [memOk_setPage_of_tget h hp]

@[simp] theorem memOk_poisonedAt (s : State) (page unit index : Nat) : (poisonedAt s page unit index).memOk = s.memOk := by
  fun_cases poisonedAt <;> simp

@[simp] theorem memOk_pageError (lasting : Bool) (page unit index : Nat) (spoil : State → State) (h : s.memOk = true)
    (hs : (spoil s).memOk = true) : (pageError s lasting page unit index spoil).memOk = true := by
  cases lasting <;> simp [pageError, h, hs]

@[simp] theorem memOk_spoilWord (cell task : Nat) (w : TaskWord) (s : State) : (spoilWord cell task w s).memOk = s.memOk := (rfl)

@[simp] theorem memOk_poisonPlane (cell : Nat) (shadow : Bool) (s : State) : (poisonPlane cell shadow s).memOk = s.memOk := (rfl)

@[simp] theorem memOk_spoilItem (e : ErrorSite) (h : s.memOk = true) : (spoilItem s e).memOk = true := by
  fun_cases spoilItem
  case case3 p g =>
    exact memOk_modPage s p _ h fun x hx =>
      memsWf_window x _ hx (memWf_setPoison _ _ _ (Bool.and_eq_true_iff.mp hx).1)
  all_goals simp [h, Function.comp_def]

@[simp] theorem memOk_imageError (lasting : Bool) (e : ErrorSite) (h : s.memOk = true) :
    (imageError s lasting e).memOk = true := by
  fun_cases imageError <;> simp [h]

theorem memOk_storageError (asid : BitVec 8) (page : Nat) (lasting : Bool) (e : ErrorSite) (h : s.memOk = true) :
    (storageError s asid page lasting e).memOk = true := by
  have hm : ∀ g : Nat, partsOk (setPoison s.phys g true) s.pages s.instances = true := fun g => by
    obtain ⟨hp, hg, hi⟩ := (partsOk_iff ..).mp h
    exact (partsOk_iff ..).mpr ⟨memWf_setPoison _ _ _ hp, hg, hi⟩
  fun_cases storageError <;> simp +zetaDelta [h, hm]
  split <;> simp [h]

theorem outOk_execUncorrectableError (h : s.memOk = true) : OutOk (execUncorrectableError s) := by
  fun_cases execUncorrectableError <;> simp [memOk_storageError, h]

@[simp] theorem memOk_recordFault (s : State) (f : PageFault) : (recordFault s f).memOk = s.memOk := (rfl)

@[simp] theorem memOk_trapFault (s : State) (f : PageFault) : (trapFault s f).memOk = s.memOk := by
  simp [trapFault]

theorem outOk_execFaultyPageRelocate (h : s.memOk = true) : OutOk (execFaultyPageRelocate s) := by
  unfold execFaultyPageRelocate
  dsimp only
  split
  · simpa using h
  · next p hp =>
    have hs : (setPage s s.args.i { p with faults := [] }).memOk = true :=
      memOk_setPage_of_tget h hp rfl
    split
    · simpa using h
    · split <;> simp [hs]

@[simp] theorem memOk_endMailbox (s : State) (stat : BitVec 8) : (endMailbox s stat).memOk = s.memOk := by
  simp [endMailbox]

@[simp] theorem memOk_beginWaiting (l : List FreezeReq) :
    ∀ (s : State) (before : List FreezeReq), (beginWaiting s before l).memOk = s.memOk := by
  induction l with
  | nil => exact fun _ _ => rfl
  | cons r rest ih => exact fun s before => by simp [beginWaiting, ih]

theorem outOk_execFreezeComplete (h : s.memOk = true) : OutOk (execFreezeComplete s) := by
  unfold execFreezeComplete
  split
  · simpa using h
  · next n r e =>
    have hs : partsOk s.phys (tmap s.pages fun k p =>
        if r.pages.contains k then { p with freezing := false, frozen := true, lines := [] } else p) s.instances = true := by
      rw [partsOk_tmapPage]
      · exact h
      · intro k p
        split <;> rfl
    split <;> simpa using hs

@[simp] theorem memOk_savePage (page n : Nat) (h : s.memOk = true) : (savePage s page n).memOk = true := by
  unfold savePage
  split
  · exact h
  · next p hp =>
    have hs : (setPage s page { p with saved := n }).memOk = true := memOk_setPage_of_tget h hp rfl
    simp only [memOk_foldl_same, memOk_checkCounts, memOk_touchPage, implies_true]
    refine memOk_modPage _ _ _ ?_ fun q hq => ?_
    · simpa using hs
    · obtain ⟨hw, hi⟩ := (memsWf_mems_iff q).mp hq
      refine (memsWf_mems_iff _).mpr ⟨hw, fun g hg => ?_⟩
      rcases List.mem_cons.mp (List.mem_of_mem_take hg) with rfl | hg
      · exact hw
      · exact hi g hg

theorem outOk_execCutOrder (h : s.memOk = true) : OutOk (execCutOrder s) := by
  unfold execCutOrder
  dsimp only
  split
  · simpa using h
  · next i hi =>
    split
    · simpa using h
    · rw [outOk_next]
      refine memOk_foldl (fun z kp hz => ?_) _ (memOk_setInst_of_tget h hi rfl)
      split
      · exact memOk_savePage _ _ hz
      · exact hz

theorem outOk_execPageCutSave (h : s.memOk = true) : OutOk (execPageCutSave s) := by
  fun_cases execPageCutSave <;> simp +zetaDelta [h]
  next p hp i hi n hn hm k =>
  exact .inr (memOk_setPage_of_tget h hp rfl)

theorem outOk_execCutComplete (h : s.memOk = true) : OutOk (execCutComplete s) := by
  unfold execCutComplete
  dsimp only
  split
  · simpa using h
  · next i hi =>
    split
    · simpa using h
    · rw [outOk_next, memOk_mk]
      refine partsOk_tmap _ (memOk_setInst_of_tget h hi rfl) fun k p w => ?_
      split
      · obtain ⟨hw, hi⟩ := (memsWf_mems_iff p).mp w
        exact (memsWf_mems_iff _).mpr ⟨hw, fun g m => hi g (List.mem_of_mem_filter m)⟩
      · exact w

theorem memWf_undoWindow (m : Mem) (c : Nat) (l : List (Nat × Nat × List Byte × List Nat × Bool)) (h : memWf m = true) :
    memWf (undoWindow m c l) = true := by
  fun_induction undoWindow with
  | case1 => exact h
  | case2 m n g bytes tags bad r ih =>
    apply ih
    split
    · exact h
    · exact memWf_setPoison _ _ _ (List.foldlRecOn (motive := fun m => memWf m = true) _ _ (memWf_writeBytes _ _ _ h)
        fun z hz k _ => memWf_setTag z _ _ hz)

@[simp] theorem memOk_recount (s : State) (asid : BitVec 8) : (recount s asid).memOk = s.memOk := (rfl)

theorem memOk_restorePage (page c : Nat) (h : s.memOk = true) : (restorePage s page c).memOk = true := by
  unfold restorePage
  split
  · exact h
  · next p g hg =>
    obtain ⟨p', hp, hi⟩ := Option.bind_eq_some_iff.mp hg
    obtain ⟨g', hg', e⟩ := Option.map_eq_some_iff.mp hi
    cases e
    obtain ⟨hw, his⟩ := (memsWf_mems_iff p).mp (memsWf_of_tget h hp)
    have hgw := his g (List.mem_of_find?_eq_some hg')
    refine memOk_setPage _ page _ ?_ ((memsWf_mems_iff _).mpr ⟨?_, fun x hx => ?_⟩)
    · simp [h]
    · dsimp only
      split
      · exact hgw
      · exact memWf_undoWindow _ _ _ hw
    · cases List.mem_singleton.mp hx
      exact hgw

@[simp] theorem memOk_resumeAll (inst : BitVec 32) (h : s.memOk = true) : (resumeAll s inst).memOk = true := by
  refine memOk_foldl (fun z kp hz => ?_) _ h
  have hm : (modPage z kp.1 fun p => { p with faults := [] }).memOk = true := by simpa using hz
  repeat' split
  all_goals simp [hz, hm]

@[simp] theorem memOk_settleRows (s : State) (inst : BitVec 32) : (settleRows s inst).memOk = s.memOk := (rfl)

@[simp] theorem memOk_emptyQueues (s : State) (asid : BitVec 8) (arcs : List Nat) : (emptyQueues s asid arcs).memOk = s.memOk := by
  refine memOk_foldl_same (fun z q => ?_) _ _
  repeat' split
  all_goals simp

@[simp] theorem memOk_settleAsked (s : State) (inst : BitVec 32) : (settleAsked s inst).memOk = s.memOk := (rfl)

theorem memOk_rollBack (inst : BitVec 32) {i : Instance} (h : s.memOk = true) (hi : memWf i.symbols = true) :
    (rollBack s inst i).memOk = true := by
  simp only [rollBack, memOk_logEvent]
  refine memOk_resumeAll _ (memOk_setInst _ _ _ ?_ hi)
  refine (memOk_foldl_same (fun z o => by split <;> simp) _ _).trans ?_
  simpa using memOk_foldl (fun z kp hz => memOk_restorePage _ _ hz) _ (by simpa using h)

theorem memOk_rollbackFails (inst : BitVec 32) {i : Instance} (cause : Nat) (h : s.memOk = true)
    (hi : memWf i.symbols = true) : (rollbackFails s inst i cause).memOk = true := by
  simp [rollbackFails, memOk_setInst, h, hi]

theorem outOk_execRollback (h : s.memOk = true) : OutOk (execRollback s) := by
  unfold execRollback
  dsimp only
  split
  · simpa using h
  · next i hi =>
    have hw := memWf_of_tget h hi
    split
    · simpa using h
    · split
      · simpa using memOk_rollbackFails _ _ h hw
      · simp [memOk_rollBack, h, hw]

/-! ### Engine jobs -/

@[simp] theorem memOk_stopChain (s : State) (k : Nat) (ch : Chain) (n : Nat) (t : TrapInfo) : (stopChain s k ch n t).memOk = s.memOk := (rfl)

@[simp] theorem memOk_applyChunk (id n k : Nat) (reads : Bool) (h : s.memOk = true) : (applyChunk s id n k reads).memOk = true := by
  fun_cases applyChunk <;> simp +zetaDelta [memOk_engineWrites, h]

theorem outOk_execHomeAccessApply (h : s.memOk = true) : OutOk (execHomeAccessApply s) := by
  simp [execHomeAccessApply, h]

@[simp] theorem memOk_issueJob (s : State) (id : Nat) (ch : Chain) (card : Vector Lane 16) : (issueJob s id ch card).memOk = s.memOk := by
  simp [issueJob]

@[simp] theorem memOk_finishJob (s : State) (id n : Nat) (asid : BitVec 8) (c : Card) : (finishJob s id n asid c).memOk = s.memOk := by
  simp [finishJob]

@[simp] theorem memOk_issueCollective (s : State) (id : Nat) (ch : Chain) (card : Vector Lane 16) (c : Card) (inst : BitVec 32) :
    (issueCollective s id ch card c inst).memOk = s.memOk := by
  fun_cases issueCollective <;> simp +zetaDelta

theorem outOk_execChainJobIssue (h : s.memOk = true) : OutOk (execChainJobIssue s) := by
  fun_cases execChainJobIssue <;> simp +zetaDelta [h]

@[simp] theorem memOk_writeSequence (id : Nat) (ch : Chain) (h : s.memOk = true) : (writeSequence s id ch).memOk = true := by
  fun_cases writeSequence <;> simp [memOk_engineWrites, h]

theorem outOk_execEngineJobComplete (h : s.memOk = true) : OutOk (execEngineJobComplete s) := by
  fun_cases execEngineJobComplete <;> simp +zetaDelta [h]

theorem outOk_execFifoPendingPush (h : s.memOk = true) : OutOk (execFifoPendingPush s) := by
  fun_cases execFifoPendingPush <;> simp [h]

@[simp] theorem memOk_hereFault (s : State) (h : Here) (e : TrapCode × Nat) : (hereFault s h e).memOk = s.memOk := (rfl)

@[simp] theorem memOk_setNumState (s : State) (n : BitVec 32) (st : NumState) (fail : Bool) :
    (setNumState s n st fail).memOk = s.memOk := (rfl)

@[simp] theorem memOk_executeNumber (l : LocalNum) (good : List HereAt) (size : Nat) (h : s.memOk = true) :
    (executeNumber s l good size).memOk = true := by
  fun_cases executeNumber <;> simp +zetaDelta [memOk_engineWrites, h]

theorem outOk_execCollectiveExecute (h : s.memOk = true) : OutOk (execCollectiveExecute s) := by
  fun_cases execCollectiveExecute <;> simp [h]

@[simp] theorem memOk_finishPost (s : State) (asid : BitVec 8) (ok : Bool) (p : Post) : (finishPost s asid ok p).memOk = s.memOk := by
  fun_cases finishPost <;> simp

@[simp] theorem memOk_finishNumber (s : State) (l : LocalNum) (st : NumState) : (finishNumber s l st).memOk = s.memOk := by
  simp only [finishNumber, memOk_mk, partsOk_fields, memOk_setNumState]
  refine memOk_foldl_same (fun z a => ?_) _ _
  split <;> simp

/-! ### Mailbox commands and launch -/

@[simp] theorem memOk_mbSet (s : State) (g : Mailbox → Mailbox) : (mbSet s g).memOk = s.memOk := (rfl)

@[simp] theorem memOk_acceptAcquire (s : State) : (acceptAcquire s).memOk = s.memOk :=
  partsOk_tmapPage _ _ _ _ fun k p => by split <;> rfl

/-- A command ends in a state with every memory in form, where it ends in one. -/
def MbOk : MbRes → Prop
  | .done s | .ended s _ | .running s => s.memOk = true
  | .status _ => True

@[simp] theorem mbOk_done (s : State) : MbOk (.done s) ↔ s.memOk = true := .rfl
@[simp] theorem mbOk_ended (s : State) (k : BitVec 8) : MbOk (.ended s k) ↔ s.memOk = true := .rfl
@[simp] theorem mbOk_running (s : State) : MbOk (.running s) ↔ s.memOk = true := .rfl
@[simp] theorem mbOk_status (k : BitVec 8) : MbOk (.status k) := trivial
@[simp] theorem mbOk_ite (c : Prop) [Decidable c] (a b : MbRes) : MbOk (if c then a else b) ↔ if c then MbOk a else MbOk b := by
  split <;> rfl

/-- A command whose body keeps the form keeps it. -/
theorem outOk_mbRun {code : BitVec 8} {body : State → MbRes} (h : s.memOk = true)
    (hb : ∀ z : State, z.memOk = true → MbOk (body z)) : OutOk (mbRun code s body) := by
  unfold mbRun
  split
  · simpa using h
  · dsimp only
    split
    case h_2 => simpa using h
    all_goals
      next e =>
      have hz := e ▸ hb _ (by simpa using h)
      simpa using hz

theorem outOk_mbCtx {code : BitVec 8} {body : State → Context → MbRes} (h : s.memOk = true)
    (hb : ∀ (z : State) (x : Context), z.memOk = true → MbOk (body z x)) : OutOk (mbCtx code s body) :=
  outOk_mbRun h fun z hz => by
    split
    · exact hb z _ hz
    · trivial

@[simp] theorem memOk_putPages (p : Plan) (frames : List FrameId) (h : s.memOk = true) : (putPages s p frames).memOk = true := by
  simp only [putPages]
  refine (memOk_foldl_same (fun z x => by simp) _ _).trans ?_
  exact memOk_foldl (fun z x hz => memOk_setPage z _ _ hz rfl) _ h

@[simp] theorem memOk_putCells (s : State) (p : Plan) : (putCells s p).memOk = s.memOk := by
  refine memOk_foldl_same (fun z x => ?_) _ _
  split <;> simp

@[simp] theorem memOk_putTables (s : State) (p : Plan) (places : List Nat × List Nat) : (putTables s p places).memOk = s.memOk := (rfl)

@[simp] theorem memOk_putArcs (s : State) (p : Plan) : (putArcs s p).memOk = s.memOk := by
  simp [putArcs]

@[simp] theorem memOk_putTask (p : Plan) (s : State) (decl : Nat) (t : GTask) (q : Nat) : (putTask p s decl t q).memOk = s.memOk := by
  refine (memOk_foldl_same (fun z b => ?_) _ _).trans (by simp)
  split <;> simp

@[simp] theorem memOk_putTasks (s : State) (p : Plan) : (putTasks s p).memOk = s.memOk := by
  simp [putTasks]

@[simp] theorem memOk_loadBytes (p : Party) (v : Nat) (l : List Byte) (h : s.memOk = true) : (loadBytes s p v l).memOk = true := by
  fun_cases loadBytes <;> simp [memOk_engineWrites, h]

theorem memWf_symbolTable (g : Graph) (inst : Nat) : memWf (symbolTable g inst) = true := by
  refine List.foldlRecOn (motive := fun m => memWf m = true) _ _ memWf_empty fun m hm kx _ => ?_
  split
  · exact memWf_setTag _ _ _ (memWf_writeBytes _ _ _ hm)
  · exact hm

@[simp] theorem memOk_putSymbols (p : Plan) (h : s.memOk = true) : (putSymbols s p).memOk = true := by
  refine memOk_foldl (fun z kx hz => ?_) _ (by simpa using h)
  split
  · exact memOk_loadBytes _ _ _ (memOk_foldl (fun y b hy => memOk_loadBytes _ _ _ hy) _ hz)
  · exact memOk_loadBytes _ _ _ hz
  · exact hz

@[simp] theorem memOk_putHeaders (p : Plan) (h : s.memOk = true) : (putHeaders s p).memOk = true :=
  memOk_foldl (fun _ _ hz => memOk_loadBytes _ _ _ hz) _ h

@[simp] theorem memOk_putCutShape (s : State) (inst : BitVec 32) : (putCutShape s inst).memOk = s.memOk :=
  partsOk_tmapPage _ _ _ _ fun k p => by split <;> rfl

@[simp] theorem memOk_putInstance (p : Plan) (r : LaunchReq) (loader : Bool) (h : s.memOk = true) :
    (putInstance s p r loader).memOk = true := memOk_setInst _ _ _ h (memWf_symbolTable _ _)

@[simp] theorem memOk_putContext (s : State) (p : Plan) (r : LaunchReq) : (putContext s p r).memOk = s.memOk := (rfl)

@[simp] theorem memOk_purge (inst : BitVec 32) (h : s.memOk = true) : (purge s inst).memOk = true :=
  partsOk_filterPages _ h

@[simp] theorem memOk_placeGraph (p : Plan) (r : LaunchReq) (frames : List FrameId) (places : List Nat × List Nat) (loader : Bool)
    (h : s.memOk = true) : (placeGraph s p r frames places loader).memOk = true := by
  have hi : (putInstance (putCells (putPages s p frames) p) p r loader).memOk = true := by simp [h]
  have hs := memOk_putHeaders p (memOk_putSymbols p (s := putArcs (putTables _ p places) p) (by simpa using hi))
  simpa [placeGraph] using hs

@[simp] theorem mbOk_loadFails (e : LoadErr) (h : s.memOk = true) : MbOk (loadFails s e) := by
  simp [loadFails, h]

theorem mbOk_launchGraph (x : Context) (r : LaunchReq) (g : Graph) (loader : Bool) (sect : Nat) (h : s.memOk = true) :
    MbOk (launchGraph s x r g loader sect) := by
  fun_cases launchGraph <;> simp +zetaDelta [h]

theorem outOk_execMbLaunch (h : s.memOk = true) : OutOk (execMbLaunch s) :=
  outOk_mbCtx h fun z x hz => by
    extract_lets pa r img
    clear_value pa r img
    repeat' split
    all_goals simp [mbOk_launchGraph, hz]

/-! ### Silence, balance and ends -/

@[simp] theorem memOk_takeStuck (s : State) (asid : BitVec 8) (pages : List Nat) (first : Nat) (arcs : List (Nat × Arc)) :
    (takeStuck s asid pages first arcs).memOk = s.memOk := by
  simp [takeStuck]

theorem outOk_execContextSilent (h : s.memOk = true) : OutOk (execContextSilent s) := by
  fun_cases execContextSilent <;> simp [h]

@[simp] theorem memOk_extendEdge (s : State) (asid : BitVec 8) (q : Nat) (k : Nat) (a : Arc) :
    (extendEdge s asid q k a).memOk = s.memOk := by
  simp [extendEdge]

theorem outOk_execPageSilent (h : s.memOk = true) : OutOk (execPageSilent s) := by
  fun_cases execPageSilent <;> simp +zetaDelta [h]

@[simp] theorem memOk_modStage (s : State) (inst : BitVec 32) (stage : Nat) (g : StageState → StageState) :
    (modStage s inst stage g).memOk = s.memOk := by
  simp [modStage]

@[simp] theorem memOk_balance (s : State) (inst : BitVec 32) (i : Instance) (st : StageState) (t : Nat) :
    (balance s inst i st t).memOk = s.memOk := by
  fun_cases balance <;> simp +zetaDelta

theorem outOk_execBalancerInterval (h : s.memOk = true) : OutOk (execBalancerInterval s) := by
  fun_cases execBalancerInterval <;> simp +zetaDelta [h]

theorem outOk_execReplicaParked (h : s.memOk = true) : OutOk (execReplicaParked s) := by
  fun_cases execReplicaParked <;> simp +zetaDelta [h]

@[simp] theorem memOk_scrubCells (s : State) (page : Nat) : (scrubCells s page).memOk = s.memOk := (rfl)

@[simp] theorem memOk_returnPage (page : Nat) (h : s.memOk = true) : (returnPage s page).memOk = true := by
  unfold returnPage
  split
  · exact h
  · next p hp =>
    obtain ⟨-, hi⟩ := (memsWf_mems_iff p).mp (memsWf_of_tget h hp)
    simp only [memOk_rebind]
    refine memOk_setPage _ page _ ?_ ((memsWf_mems_iff _).mpr ⟨memWf_empty, hi⟩)
    split <;> simp [h]

theorem outOk_execPageReturn (h : s.memOk = true) : OutOk (execPageReturn s) := by
  fun_cases execPageReturn <;> simp [h]

@[simp] theorem memOk_freeGroups (s : State) (inst : BitVec 32) (i : Instance) : (freeGroups s inst i).memOk = s.memOk := by
  simp [freeGroups]

theorem memOk_returnPages (l : List Nat) (h : s.memOk = true) : (l.foldl returnPage s).memOk = true :=
  memOk_foldl (fun _ k hz => memOk_returnPage k hz) _ h

theorem outOk_execInstanceEnd (h : s.memOk = true) : OutOk (execInstanceEnd s) := by
  unfold execInstanceEnd
  dsimp only
  split
  · simpa using h
  · split
    · simpa using h
    · rw [outOk_next, memOk_mk, partsOk_fields]
      refine memOk_returnPages _ (memOk_modInst _ _ _ ?_ fun _ _ => memWf_empty)
      simp [h]

theorem outOk_execEndRecordWrite (h : s.memOk = true) : OutOk (execEndRecordWrite s) := by
  fun_cases execEndRecordWrite <;> simp [h]

@[simp] theorem memOk_endInstance (s : State) (inst : BitVec 32) (i : Instance) : (endInstance s inst i).memOk = s.memOk := by
  simpa [endInstance] using memOk_foldl_same (fun z kt => by rw [memOk_giveBanks]; split <;> simp) _ _

theorem outOk_execMbCreateContext (h : s.memOk = true) : OutOk (execMbCreateContext s) :=
  outOk_mbRun h fun z hz => by simp [hz]

@[simp] theorem memOk_dropContext (asid : BitVec 8) (h : s.memOk = true) : (dropContext s asid).memOk = true :=
  partsOk_filterPages _ (partsOk_filterInsts _ (memOk_returnPages _ h))

@[simp] theorem memOk_leaveGroups (s : State) (asid : BitVec 8) : (leaveGroups s asid).memOk = s.memOk := (rfl)

theorem outOk_execMbEndContext (h : s.memOk = true) : OutOk (execMbEndContext s) :=
  outOk_mbCtx h fun z x hz => by
    have hl : (leaveGroups z z.args.asid).memOk = true := by simpa using hz
    have hr := memOk_returnPages (contextPages (leaveGroups z z.args.asid) z.args.asid) hl
    dsimp only
    repeat' split
    all_goals simp [hl, hr]

theorem outOk_execMbEndInstance (h : s.memOk = true) : OutOk (execMbEndInstance s) :=
  outOk_mbCtx h fun z x hz => by split <;> simp [hz]

/-! ### Power -/

@[simp] theorem memOk_setCap (s : State) : (setCap s).memOk = s.memOk := (rfl)

@[simp] theorem memOk_lowerRegions (s : State) (m : BitVec 2) : (lowerRegions s m).memOk = s.memOk := (rfl)

@[simp] theorem memOk_easeRegions (s : State) : (easeRegions s).memOk = s.memOk := (rfl)

theorem outOk_execPowerCapControl (h : s.memOk = true) : OutOk (execPowerCapControl s) := by
  simp [execPowerCapControl, h]

theorem outOk_execPwrcapWrite (h : s.memOk = true) : OutOk (execPwrcapWrite s) := by
  simp [execPwrcapWrite, h]

theorem outOk_execScheduleEntryCommit (h : s.memOk = true) : OutOk (execScheduleEntryCommit s) := by
  fun_cases execScheduleEntryCommit <;> simp [h]

theorem outOk_execScheduleEntryDue (h : s.memOk = true) : OutOk (execScheduleEntryDue s) := by
  fun_cases execScheduleEntryDue <;> simp [h]

@[simp] theorem memOk_modDie (s : State) (n : Nat) (g : DieState → DieState) : (modDie s n g).memOk = s.memOk := by
  fun_cases modDie <;> simp

theorem outOk_writeMode (m : BitVec 2) (h : s.memOk = true) : OutOk (writeMode s m) := by
  simp [writeMode, h]

theorem outOk_execDiepwrFull (h : s.memOk = true) : OutOk (execDiepwrFull s) := outOk_writeMode _ h

theorem outOk_execDiepwrBalanced (h : s.memOk = true) : OutOk (execDiepwrBalanced s) := outOk_writeMode _ h

theorem outOk_execDiepwrNearThreshold (h : s.memOk = true) : OutOk (execDiepwrNearThreshold s) := outOk_writeMode _ h

theorem outOk_execDiepwrGate (h : s.memOk = true) : OutOk (execDiepwrGate s) := outOk_writeMode _ h

theorem outOk_execDiepwrRefClear (h : s.memOk = true) : OutOk (execDiepwrRefClear s) := by
  simp [execDiepwrRefClear, h]

theorem outOk_execDiepwrChangeDone (h : s.memOk = true) : OutOk (execDiepwrChangeDone s) := by
  fun_cases execDiepwrChangeDone <;> simp [h]

/-! ### The mailbox -/

theorem outOk_trapAction {code : BitVec 2} {allowed : TrapCode → Bool} {act : State → TrapRec → MbRes} (h : s.memOk = true)
    (ha : ∀ (z : State) (r : TrapRec), z.memOk = true → MbOk (act z r)) : OutOk (trapAction code s allowed act) := by
  unfold trapAction
  split
  · simpa using h
  · refine outOk_mbCtx h fun z x hz => ?_
    split <;> simp [ha, hz]

@[simp] theorem memOk_keepFrozen (s : State) (cell task : Nat) : (keepFrozen s cell task).memOk = s.memOk := (rfl)

@[simp] theorem memOk_retryStuck (r : TrapRec) (h : s.memOk = true) : (retryStuck s r).memOk = true :=
  memOk_foldl (fun _ k hz => memOk_thawPage k hz) _ h

theorem outOk_execMbTrapRetry (h : s.memOk = true) : OutOk (execMbTrapRetry s) :=
  outOk_trapAction h fun z r hz => by simp [hz]

theorem outOk_execMbTrapContinue (h : s.memOk = true) : OutOk (execMbTrapContinue s) :=
  outOk_trapAction h fun z r hz => by simp [hz]

theorem outOk_execMbTrapRollback (h : s.memOk = true) : OutOk (execMbTrapRollback s) :=
  outOk_trapAction h fun z r hz => by simp [hz]

theorem outOk_execMbTrapEnd (h : s.memOk = true) : OutOk (execMbTrapEnd s) :=
  outOk_trapAction h fun z r hz => by split <;> simp [hz]

theorem outOk_execMbInvalidateTranslation (h : s.memOk = true) : OutOk (execMbInvalidateTranslation s) :=
  outOk_mbCtx h fun z x hz => by simp [hz]

theorem outOk_execInvalidationComplete (h : s.memOk = true) : OutOk (execInvalidationComplete s) := by
  fun_cases execInvalidationComplete <;> simp [h]

theorem outOk_mbSluice (arm : Bool) (h : s.memOk = true) : OutOk (mbSluice arm s) := by
  unfold mbSluice
  split
  · simpa using h
  · refine outOk_mbCtx h fun z x hz => ?_
    dsimp only
    split <;> simp [hz]

theorem outOk_execMbSluiceArm (h : s.memOk = true) : OutOk (execMbSluiceArm s) := outOk_mbSluice true h

theorem outOk_execMbSluiceOpen (h : s.memOk = true) : OutOk (execMbSluiceOpen s) := outOk_mbSluice false h

theorem outOk_execMbCut (h : s.memOk = true) : OutOk (execMbCut s) :=
  outOk_mbCtx h fun z x hz => by split <;> simp [hz]

theorem outOk_execMbFreeze (h : s.memOk = true) : OutOk (execMbFreeze s) :=
  outOk_mbCtx h fun z x hz => by split <;> simp [hz]

@[simp] theorem memOk_resumePage (page : Nat) (f : FrameId) (h : s.memOk = true) : (resumePage s page f).memOk = true := by
  simp [resumePage, h]

theorem outOk_execMbResume (h : s.memOk = true) : OutOk (execMbResume s) :=
  outOk_mbCtx h fun z x hz => by
    split
    · trivial
    · next l _ =>
      have hr : ((l.zip (freeFrames z)).foldl (fun y q => resumePage y q.1 q.2) z).memOk = true :=
        memOk_foldl (fun _ _ hy => memOk_resumePage _ _ hy) _ hz
      simp [hr]

theorem outOk_execMbSetTime (h : s.memOk = true) : OutOk (execMbSetTime s) :=
  outOk_mbRun h fun z hz => by simp [hz]

@[simp] theorem memOk_firstDesignation (s : State) (p b : Nat) : (firstDesignation s p b).memOk = s.memOk := (rfl)

@[simp] theorem memOk_newStandby (s : State) (b : Nat) : (newStandby s b).memOk = s.memOk := by
  simp [newStandby]

theorem outOk_mbSequencer {force : Bool} {act : State → Nat → Nat → MbRes} (h : s.memOk = true)
    (ha : ∀ (z : State) (p b : Nat), z.memOk = true → MbOk (act z p b)) : OutOk (mbSequencer force s act) := by
  unfold mbSequencer
  split
  · simpa using h
  · refine outOk_mbRun h fun z hz => ?_
    dsimp only
    split
    · trivial
    · split <;> simp [ha, hz]

theorem outOk_execMbSequencerDesignate (h : s.memOk = true) : OutOk (execMbSequencerDesignate s) :=
  outOk_mbSequencer h fun z p b hz => by simp [hz]

theorem outOk_execMbSequencerTakeover (h : s.memOk = true) : OutOk (execMbSequencerTakeover s) :=
  outOk_mbSequencer h fun z p b hz => by simp [hz]

theorem outOk_execMbAddImageKey (h : s.memOk = true) : OutOk (execMbAddImageKey s) :=
  outOk_mbRun h fun z hz => by simp [hz]

theorem outOk_execMbFullService (h : s.memOk = true) : OutOk (execMbFullService s) :=
  outOk_mbRun h fun z hz => by simp [hz]

/-! ### Special functions -/

@[simp] theorem actOk_special {fn : FpCtx → Nat → Nat × LaneFlags} (h : s.memOk = true) : ActOk (special f s u o fn) := by
  simp [special, h]

/-! ### Registers, the host and boot -/

theorem outOk_execNotifyClear (h : s.memOk = true) : OutOk (execNotifyClear s) := by
  simp [execNotifyClear, h]

theorem outOk_execEndRingReadIndexWrite (h : s.memOk = true) : OutOk (execEndRingReadIndexWrite s) := by
  simp [execEndRingReadIndexWrite, h]

theorem outOk_execContextRingReadIndexWrite (h : s.memOk = true) : OutOk (execContextRingReadIndexWrite s) := by
  simp [execContextRingReadIndexWrite, h]

theorem outOk_startCommand (v : BitVec 64) (h : s.memOk = true) : OutOk (startCommand s v) := by
  have hz : State.memOk { s with args := { s.args with asid := v.setWidth 8 } } = true := h
  unfold startCommand
  dsimp only
  split
  · exact outOk_execMbCreateContext hz
  · exact outOk_execMbEndContext hz
  · exact outOk_execMbLaunch hz
  · exact outOk_execMbEndInstance hz
  · split
    · exact outOk_execMbTrapRetry hz
    · exact outOk_execMbTrapContinue hz
    · exact outOk_execMbTrapRollback hz
    · exact outOk_execMbTrapEnd hz
  · exact outOk_execMbInvalidateTranslation hz
  · split
    · exact outOk_execMbSluiceOpen hz
    · exact outOk_execMbSluiceArm hz
  · exact outOk_execMbFreeze hz
  · exact outOk_execMbResume hz
  · exact outOk_execMbCut hz
  · exact outOk_execMbSetTime hz
  · split
    · exact outOk_execMbSequencerTakeover hz
    · exact outOk_execMbSequencerDesignate hz
  · exact outOk_execMbAddImageKey hz
  · exact outOk_execMbFullService hz
  · exact outOk_mbRun hz fun _ _ => trivial

theorem outOk_execRegisterWrite (h : s.memOk = true) : OutOk (execRegisterWrite s) := by
  fun_cases execRegisterWrite <;> simp [outOk_startCommand, h]

@[simp] theorem memOk_hostReads (s : State) (l : List Byte) : (hostReads s l).memOk = s.memOk := (rfl)

theorem outOk_execHostMemoryAccess (h : s.memOk = true) : OutOk (execHostMemoryAccess s) := by
  fun_cases execHostMemoryAccess <;> simp +zetaDelta [memOk_applyAt, h]

theorem outOk_execPackageReset (h : s.memOk = true) : OutOk (execPackageReset s) := by
  obtain ⟨hp, -, -⟩ := (partsOk_iff ..).mp h
  rw [execPackageReset, outOk_next, memOk_mk, partsOk_iff]
  exact ⟨hp, rfl, rfl⟩

theorem outOk_execFrameSelfTestDone (h : s.memOk = true) : OutOk (execFrameSelfTestDone s) := by
  simp [execFrameSelfTestDone, h]

@[simp] theorem memOk_endScrubbed (asid : BitVec 8) (h : s.memOk = true) : (endScrubbed s asid).memOk = true := by
  simp [endScrubbed, h]

@[simp] theorem memOk_endPages (asid : BitVec 8) (h : s.memOk = true) : (endPages s asid).memOk = true := by
  simp [endPages, memOk_returnPages, h]

@[simp] theorem memOk_endPosted (h : s.memOk = true) : (endPosted s).memOk = true :=
  memOk_foldl (fun _ a hz => memOk_endPages a hz) _ h

theorem outOk_execCollectiveFinish (h : s.memOk = true) : OutOk (execCollectiveFinish s) := by
  fun_cases execCollectiveFinish <;> simp [h]

theorem outOk_execFrameScrubComplete (h : s.memOk = true) : OutOk (execFrameScrubComplete s) := by
  unfold execFrameScrubComplete
  dsimp only
  split
  · simpa using h
  · split
    · rw [outOk_next]
      refine memOk_endScrubbed _ ?_
      split <;> simp [h]
    · simpa using h

theorem outOk_execBootStageVerify (h : s.memOk = true) : OutOk (execBootStageVerify s) := by
  simp [execBootStageVerify, h]

theorem outOk_execFirmwareUpdate (h : s.memOk = true) : OutOk (execFirmwareUpdate s) := by
  simp [execFirmwareUpdate, h]

/-! ### Turns -/

@[simp] theorem memOk_focusOn (s : State) (cell task ins : Nat) (g : GuardHit) : (focusOn s cell task ins g).memOk = s.memOk := (rfl)

@[simp] theorem memOk_eventState (s : State) (a : Args) : (eventState s a).memOk = s.memOk := (rfl)

@[simp] theorem memOk_elapse (s : State) (ticks : Nat) : (elapse s ticks).memOk = s.memOk := (rfl)

end

/-! ### Every instruction, event and turn -/

/-- Every instruction, and every event of the part, keeps the memories in form. -/
theorem outOk_exec {s : State} (h : s.memOk = true) : (i : Instr) → OutOk (exec i s)
  | .rdp _ => outOk_runIns h fun hx => actOk_bodyRdp hx
  | .rds _ => outOk_runIns h fun hx => actOk_bodyRds hx
  | .rdk _ => outOk_runIns h fun hx => actOk_bodyRdk hx
  | .imm _ => outOk_runIns h fun hx => actOk_bodyImm hx
  | .wrp _ => outOk_runIns h fun hx => actOk_bodyWrp hx
  | .wrs _ => outOk_runIns h fun hx => actOk_bodyWrs hx
  | .sendt _ => outOk_runIns h fun hx => actOk_bodySendt hx
  | .mov _ => outOk_runIns h fun hx => actOk_bodyMov hx
  | .exit _ => outOk_runIns h fun hx => actOk_bodyExit hx
  | .steer _ => outOk_runIns h fun hx => actOk_bodyMov hx
  | .steerl _ => outOk_runIns h fun hx => actOk_bodySteerl hx
  | .merge _ => outOk_runIns h fun hx => actOk_bodyMerge hx
  | .carry _ => outOk_runIns h fun hx => actOk_bodyCarry hx
  | .invar _ => outOk_runIns h fun hx => actOk_bodyInvar hx
  | .nullt _ => outOk_runIns h fun hx => actOk_bodyNullt hx
  | .settag _ => outOk_runIns h fun hx => actOk_bodySettag hx
  | .sbget _ => outOk_runIns h fun hx => actOk_bodySbget hx
  | .nop _ => outOk_runIns h fun hx => actOk_bodyNop hx
  | .add _ => outOk_runIns h fun hx => actOk_binary hx
  | .sub _ => outOk_runIns h fun hx => actOk_binary hx
  | .mul _ => outOk_runIns h fun hx => actOk_binary hx
  | .mulh _ => outOk_runIns h fun hx => actOk_binary hx
  | .div _ => outOk_runIns h fun hx => actOk_binary hx
  | .rem _ => outOk_runIns h fun hx => actOk_binary hx
  | .neg _ => outOk_runIns h fun hx => actOk_unary hx
  | .abs _ => outOk_runIns h fun hx => actOk_unary hx
  | .min _ => outOk_runIns h fun hx => actOk_binary hx
  | .max _ => outOk_runIns h fun hx => actOk_binary hx
  | .and _ => outOk_runIns h fun hx => actOk_logic hx
  | .or _ => outOk_runIns h fun hx => actOk_logic hx
  | .xor _ => outOk_runIns h fun hx => actOk_logic hx
  | .not _ => outOk_runIns h fun hx => actOk_bodyNot hx
  | .andn _ => outOk_runIns h fun hx => actOk_logic hx
  | .shl _ => outOk_runIns h fun hx => actOk_binary hx
  | .shr _ => outOk_runIns h fun hx => actOk_binary hx
  | .sra _ => outOk_runIns h fun hx => actOk_binary hx
  | .rol _ => outOk_runIns h fun hx => actOk_binary hx
  | .ror _ => outOk_runIns h fun hx => actOk_binary hx
  | .clz _ => outOk_runIns h fun hx => actOk_unary hx
  | .popc _ => outOk_runIns h fun hx => actOk_unary hx
  | .brev _ => outOk_runIns h fun hx => actOk_unary hx
  | .cmpeq _ => outOk_runIns h fun hx => actOk_compare hx
  | .cmpne _ => outOk_runIns h fun hx => actOk_compare hx
  | .cmplt _ => outOk_runIns h fun hx => actOk_compare hx
  | .cmple _ => outOk_runIns h fun hx => actOk_compare hx
  | .cmpgt _ => outOk_runIns h fun hx => actOk_compare hx
  | .cmpge _ => outOk_runIns h fun hx => actOk_compare hx
  | .sel _ => outOk_runIns h fun hx => actOk_bodySel hx
  | .imad _ => outOk_runIns h fun hx => actOk_ternary hx
  | .sext _ => outOk_runIns h fun hx => actOk_unary hx
  | .zext _ => outOk_runIns h fun hx => actOk_unary hx
  | .bfx _ => outOk_runIns h fun hx => actOk_unary hx
  | .bfi _ => outOk_runIns h fun hx => by
    split
    · trivial
    · exact actOk_binary hx
  | .lea _ => outOk_runIns h fun hx => actOk_bodyLea hx
  | .laneid _ => outOk_runIns h fun hx => actOk_bodyLaneid hx
  | .vmask _ => outOk_runIns h fun hx => actOk_bodyVmask hx
  | .pfxsum _ => outOk_runIns h fun hx => actOk_bodyPfxsum hx
  | .pfxpop _ => outOk_runIns h fun hx => actOk_bodyPfxpop hx
  | .shuf _ => outOk_runIns h fun hx => actOk_permute2 hx
  | .lrot _ => outOk_runIns h fun hx => actOk_permute1 hx
  | .bcast _ => outOk_runIns h fun hx => actOk_permute1 hx
  | .compact _ => outOk_runIns h fun hx => actOk_permute2 hx
  | .expand _ => outOk_runIns h fun hx => actOk_permute2 hx
  | .redadd _ => outOk_runIns h fun hx => actOk_reduceInt hx
  | .redmin _ => outOk_runIns h fun hx => actOk_reduceInt hx
  | .redmax _ => outOk_runIns h fun hx => actOk_reduceInt hx
  | .redand _ => outOk_runIns h fun hx => actOk_reduceInt hx
  | .redor _ => outOk_runIns h fun hx => actOk_reduceInt hx
  | .redxor _ => outOk_runIns h fun hx => actOk_reduceInt hx
  | .pand _ => outOk_runIns h fun hx => actOk_predLogic hx
  | .por _ => outOk_runIns h fun hx => actOk_predLogic hx
  | .pxor _ => outOk_runIns h fun hx => actOk_predLogic hx
  | .pnot _ => outOk_runIns h fun hx => actOk_predUnary hx
  | .pany _ => outOk_runIns h fun hx => actOk_predUnary hx
  | .pall _ => outOk_runIns h fun hx => actOk_predUnary hx
  | .absd _ => outOk_runIns h fun hx => actOk_binary hx
  | .avg _ => outOk_runIns h fun hx => actOk_binary hx
  | .clamp _ => outOk_runIns h fun hx => actOk_ternary hx
  | .dot4 _ => outOk_runIns h fun hx => actOk_dotProduct hx
  | .dot2 _ => outOk_runIns h fun hx => actOk_dotProduct hx
  | .fadd _ => outOk_runIns h fun hx => actOk_fBinary hx
  | .fsub _ => outOk_runIns h fun hx => actOk_fBinary hx
  | .fmul _ => outOk_runIns h fun hx => actOk_fBinary hx
  | .fma _ => outOk_runIns h fun hx => actOk_fTernary hx
  | .fms _ => outOk_runIns h fun hx => actOk_fTernary hx
  | .fnma _ => outOk_runIns h fun hx => actOk_fTernary hx
  | .fnms _ => outOk_runIns h fun hx => actOk_fTernary hx
  | .fdiv _ => outOk_runIns h fun hx => actOk_fBinary hx
  | .fsqrt _ => outOk_runIns h fun hx => actOk_fUnary hx
  | .frcp _ => outOk_runIns h fun hx => actOk_fUnary hx
  | .frsq _ => outOk_runIns h fun hx => actOk_fUnary hx
  | .fmin _ => outOk_runIns h fun hx => actOk_fBinary hx
  | .fmax _ => outOk_runIns h fun hx => actOk_fBinary hx
  | .fabs _ => outOk_runIns h fun hx => actOk_fUnary hx
  | .fneg _ => outOk_runIns h fun hx => actOk_fUnary hx
  | .fcmpeq _ => outOk_runIns h fun hx => actOk_fCompare hx
  | .fcmplt _ => outOk_runIns h fun hx => actOk_fCompare hx
  | .fcmple _ => outOk_runIns h fun hx => actOk_fCompare hx
  | .fcmpun _ => outOk_runIns h fun hx => actOk_fCompare hx
  | .fclass _ => outOk_runIns h fun hx => actOk_bodyFclass hx
  | .fscale _ => outOk_runIns h fun hx => actOk_bodyFscale hx
  | .fexp2 _ => outOk_runIns h fun hx => actOk_special hx
  | .flog2 _ => outOk_runIns h fun hx => actOk_special hx
  | .fsin _ => outOk_runIns h fun hx => actOk_special hx
  | .fcos _ => outOk_runIns h fun hx => actOk_special hx
  | .ftanh _ => outOk_runIns h fun hx => actOk_special hx
  | .fsigm _ => outOk_runIns h fun hx => actOk_special hx
  | .fredadd _ => outOk_runIns h fun hx => actOk_fReduce hx
  | .fredmax _ => outOk_runIns h fun hx => actOk_fReduce hx
  | .fredmin _ => outOk_runIns h fun hx => actOk_fReduce hx
  | .faddx _ => outOk_runIns h fun hx => actOk_pairOp hx
  | .fsubx _ => outOk_runIns h fun hx => actOk_pairOp hx
  | .fmulx _ => outOk_runIns h fun hx => actOk_pairOp hx
  | .dwadd _ => outOk_runIns h fun hx => actOk_dwState hx
  | .dwsub _ => outOk_runIns h fun hx => actOk_dwState hx
  | .dwmul _ => outOk_runIns h fun hx => actOk_dwState hx
  | .dwfma _ => outOk_runIns h fun hx => actOk_dwState hx
  | .dwnorm _ => outOk_runIns h fun hx => actOk_bodyDwnorm hx
  | .dwred _ => outOk_runIns h fun hx => actOk_bodyDwred hx
  | .dwtof _ => outOk_runIns h fun hx => actOk_bodyDwtof hx
  | .fcvt _ => outOk_runIns h fun hx => actOk_bodyFcvt hx
  | .ftoi _ => outOk_runIns h fun hx => actOk_bodyFtoi hx
  | .itof _ => outOk_runIns h fun hx => actOk_bodyItof hx
  | .cbdec _ => outOk_runIns h fun hx => actOk_bodyCbdec hx
  | .cbenc _ => outOk_runIns h fun hx => actOk_bodyCbenc hx
  | .pack _ => outOk_runIns h fun hx => actOk_packing hx
  | .unpack _ => outOk_runIns h fun hx => actOk_packing hx
  | .bscl _ => outOk_runIns h fun hx => actOk_bodyBscl hx
  | .bscalc _ => outOk_runIns h fun hx => actOk_bodyBscalc hx
  | .setmode _ => outOk_runIns h fun hx => actOk_bodySetmode hx
  | .getflags _ => outOk_runIns h fun hx => actOk_bodyGetflags hx
  | .clrflags _ => outOk_runIns h fun hx => actOk_bodyClrflags hx
  | .frnd _ => outOk_runIns h fun hx => actOk_fUnary hx
  | .fcopysgn _ => outOk_runIns h fun hx => actOk_fBinary hx
  | .fdot2 _ => outOk_runIns h fun hx => actOk_bodyFdot2 hx
  | .getmode _ => outOk_runIns h fun hx => actOk_bodyGetmode hx
  | .fcmpne _ => outOk_runIns h fun hx => actOk_fCompare hx
  | .mlds _ => outOk_runIns h fun hx => actOk_bodyMlds hx
  | .mswap _ => outOk_runIns h fun hx => by simpa using hx
  | .mrow _ => outOk_runIns h fun hx => actOk_rowBody hx
  | .mrowc _ => outOk_runIns h fun hx => actOk_rowBody hx
  | .mcbl _ => outOk_runIns h fun hx => actOk_bodyMcbl hx
  | .acc _ => outOk_runIns h fun hx => actOk_accumulate hx
  | .accn _ => outOk_runIns h fun hx => actOk_accumulate hx
  | .eor _ => outOk_runIns h fun hx => actOk_bodyEor hx
  | .accrel _ => outOk_runIns h fun hx => actOk_bodyAccrel hx
  | .route _ => outOk_runIns h fun hx => actOk_bodyRoute hx
  | .mstat _ => outOk_runIns h fun hx => actOk_bodyMstat hx
  | .mclr _ => outOk_runIns h fun hx => by simpa using hx
  | .accrd _ => outOk_runIns h fun hx => actOk_bodyAccrd hx
  | .rtset _ => outOk_runIns h fun hx => actOk_bodyRtset hx
  | .ld _ => outOk_runIns h fun hx => actOk_loadOf hx
  | .st _ => outOk_runIns h fun hx => actOk_storeOf hx
  | .stm _ => outOk_runIns h fun hx => actOk_bodyStm hx
  | .lds _ => outOk_runIns h fun hx => actOk_bodyLds hx
  | .sts _ => outOk_runIns h fun hx => actOk_bodySts hx
  | .ldg _ => outOk_runIns h fun hx => actOk_bodyLdg hx
  | .stsc _ => outOk_runIns h fun hx => actOk_bodyStsc hx
  | .pref _ => outOk_runIns h fun hx => actOk_bodyPref hx
  | .aadd _ => outOk_runIns h fun hx => actOk_atomicOf hx
  | .amin _ => outOk_runIns h fun hx => actOk_atomicOf hx
  | .amax _ => outOk_runIns h fun hx => actOk_atomicOf hx
  | .aand _ => outOk_runIns h fun hx => actOk_atomicOf hx
  | .aor _ => outOk_runIns h fun hx => actOk_atomicOf hx
  | .axor _ => outOk_runIns h fun hx => actOk_atomicOf hx
  | .axchg _ => outOk_runIns h fun hx => actOk_atomicOf hx
  | .acas _ => outOk_runIns h fun hx => actOk_atomicOf hx
  | .atas _ => outOk_runIns h fun hx => actOk_atomicOf hx
  | .afadd _ => outOk_runIns h fun hx => actOk_atomicOf hx
  | .ainc _ => outOk_runIns h fun hx => actOk_atomicOf hx
  | .fence _ => outOk_runIns h fun hx => actOk_bodyFence hx
  | .acq _ => outOk_runIns h fun hx => actOk_bodyAcq hx
  | .rel _ => outOk_runIns h fun hx => actOk_bodyRel hx
  | .bktake _ => outOk_runIns h fun hx => actOk_bodyBktake hx
  | .bkgive _ => outOk_runIns h fun hx => actOk_bodyBkgive hx
  | .tfpush _ => outOk_runIns h fun hx => actOk_bodyTfpush hx
  | .tfpop _ => outOk_runIns h fun hx => actOk_bodyTfpop hx
  | .chapp _ => outOk_runIns h fun hx => actOk_bodyChapp hx
  | .chtail _ => outOk_runIns h fun hx => actOk_bodyChtail hx
  | .chseq _ => outOk_runIns h fun hx => actOk_bodyChseq hx
  | .adec _ => outOk_runIns h fun hx => actOk_atomicOf hx
  | .ldnt _ => outOk_runIns h fun hx => actOk_loadOf hx
  | .stnt _ => outOk_runIns h fun hx => actOk_storeOf hx
  | .ldb _ => outOk_runIns h fun hx => actOk_bodyLdb hx
  | .afmin _ => outOk_runIns h fun hx => actOk_atomicOf hx
  | .afmax _ => outOk_runIns h fun hx => actOk_atomicOf hx
  | .sset _ => outOk_runIns h fun hx => actOk_armStream hx
  | .sidx _ => outOk_runIns h fun hx => actOk_armStream hx
  | .spop _ => outOk_runIns h fun hx => actOk_bodySpop hx
  | .spush _ => outOk_runIns h fun hx => actOk_bodySpush hx
  | .sint _ => outOk_runIns h fun hx => actOk_combine hx
  | .suni _ => outOk_runIns h fun hx => actOk_combine hx
  | .ssub _ => outOk_runIns h fun hx => actOk_combine hx
  | .smadd _ => outOk_runIns h fun hx => actOk_combine hx
  | .bmand _ => outOk_runIns h fun hx => actOk_bodyBmand hx
  | .bmpfx _ => outOk_runIns h fun hx => actOk_bodyBmpfx hx
  | .hprobe _ => outOk_runIns h fun hx => actOk_hashOp hx
  | .hins _ => outOk_runIns h fun hx => actOk_hashOp hx
  | .contract _ => outOk_runIns h fun hx => actOk_bodyContract hx
  | .sstat _ => outOk_runIns h fun hx => actOk_bodySstat hx
  | .clnum _ => outOk_runIns h fun hx => actOk_bodyClnum hx
  | .clpost _ => outOk_runIns h fun hx => actOk_bodyClpost hx
  | .clcancel _ => outOk_runIns h fun hx => actOk_bodyClcancel hx
  | .clstat _ => outOk_runIns h fun hx => actOk_bodyClstat hx
  | .cljoin _ => outOk_runIns h fun hx => actOk_bodyCljoin hx
  | .clleave _ => outOk_runIns h fun hx => actOk_bodyClleave hx
  | .clquery _ => outOk_runIns h fun hx => actOk_bodyClquery hx
  | .grpid _ => outOk_runIns h fun hx => actOk_bodyGrpid hx
  | .role _ => outOk_runIns h fun hx => actOk_bodyRole hx
  | .spawn _ => outOk_runIns h fun hx => actOk_bodySpawn hx
  | .tear _ => outOk_runIns h fun hx => actOk_bodyTear hx
  | .bal _ => outOk_runIns h fun hx => actOk_bodyBal hx
  | .time _ => outOk_runIns h fun hx => actOk_bodyTime hx
  | .firecnt _ => outOk_runIns h fun hx => actOk_bodyFirecnt hx
  | .evt _ => outOk_runIns h fun hx => actOk_bodyEvt hx
  | .svcl _ => outOk_runIns h fun hx => by simpa using hx
  | .yield _ => outOk_runIns h fun hx => by simpa using hx
  | .prio _ => outOk_runIns h fun hx => by simpa using hx
  | .ctxid _ => outOk_runIns h fun hx => by simpa using hx
  | .psetb _ => outOk_runIns h fun hx => actOk_bodyPsetb hx
  | .psetp _ => outOk_runIns h fun hx => actOk_bodyPsetp hx
  | .padd _ => outOk_runIns h fun hx => actOk_bodyPadd hx
  | .pchk _ => outOk_runIns h fun hx => actOk_bodyPchk hx
  | .pget _ => outOk_runIns h fun hx => actOk_bodyPget hx
  | .pseal _ => outOk_runIns h fun hx => actOk_reseal hx
  | .punseal _ => outOk_runIns h fun hx => actOk_reseal hx
  | .pmint _ => outOk_runIns h fun hx => actOk_bodyPmint hx
  | .mark _ => outOk_runIns h fun hx => by simpa using hx
  | .trap _ => outOk_runIns h fun _ => actOk_bodyTrap
  | .brk _ => outOk_runIns h fun hx => by simpa using hx
  | .sluice _ => outOk_runIns h fun hx => actOk_bodySluice hx
  | .replay _ => outOk_runIns h fun hx => by simpa using hx
  | .guard _ => outOk_runIns h fun hx => by simpa using hx
  | .cutstat _ => outOk_runIns h fun hx => actOk_bodyCutstat hx
  | .resumeq _ => outOk_runIns h fun hx => actOk_bodyResumeq hx
  | .arbiterChoice => outOk_execArbiterChoice h
  | .blockRetire => outOk_execBlockRetire h
  | .tokenAccept => outOk_execTokenAccept h
  | .spillwayPass => outOk_execSpillwayPass h
  | .replaySend => outOk_execReplaySend h
  | .rowChainTake => outOk_execRowChainTake h
  | .rowOutputSend => outOk_execRowOutputSend h
  | .releaseQueueSend => outOk_execReleaseQueueSend h
  | .streamCommandAccept => outOk_execStreamCommandAccept h
  | .streamReadTokenSend => outOk_execStreamReadTokenSend h
  | .indirectStreamGather => outOk_execIndirectStreamGather h
  | .streamPushTake => outOk_execStreamPushTake h
  | .coiterationStep => outOk_execCoiterationStep h
  | .streamSlotTeardown => outOk_execStreamSlotTeardown h
  | .homeAccessApply => outOk_execHomeAccessApply h
  | .atomicApply => outOk_execAtomicApply h
  | .releaseComplete => outOk_execReleaseComplete h
  | .remoteOutboundSend => outOk_execRemoteOutboundSend h
  | .translationWalk => outOk_execTranslationWalk h
  | .chainJobIssue => outOk_execChainJobIssue h
  | .engineJobComplete => outOk_execEngineJobComplete h
  | .fifoPendingPush => outOk_execFifoPendingPush h
  | .collectiveAnnounce => outOk_execCollectiveAnnounce h
  | .collectiveGo => outOk_execCollectiveGo h
  | .collectiveExecute => outOk_execCollectiveExecute h
  | .collectiveFinish => outOk_execCollectiveFinish h
  | .collectiveCancelNotice => outOk_execCollectiveCancelNotice h
  | .seqNumberRequest => outOk_seqEvent _ h
  | .seqJoinRequest => outOk_seqEvent _ h
  | .seqLeaveRequest => outOk_seqEvent _ h
  | .seqCancelRequest => outOk_seqEvent _ h
  | .seqPostNotice => outOk_seqEvent _ h
  | .seqQueryRequest => outOk_seqEvent _ h
  | .standbyTakeover => outOk_execStandbyTakeover h
  | .takeoverNotice => outOk_execTakeoverNotice h
  | .memberUnreachable => outOk_execMemberUnreachable h
  | .reachLinkFail => outOk_execReachLinkFail h
  | .flitCrcRetry => outOk_execFlitCrcRetry h
  | .ucieModuleExclude => outOk_execUcieModuleExclude h
  | .contextSilent => outOk_execContextSilent h
  | .pageSilent => outOk_execPageSilent h
  | .balancerInterval => outOk_execBalancerInterval h
  | .replicaParked => outOk_execReplicaParked h
  | .taskDrain => outOk_execTaskDrain h
  | .spawnArrive => outOk_execSpawnArrive h
  | .pageReturn => outOk_execPageReturn h
  | .instanceEnd => outOk_execInstanceEnd h
  | .endRecordWrite => outOk_execEndRecordWrite h
  | .uncorrectableError => outOk_execUncorrectableError h
  | .faultyPageRelocate => outOk_execFaultyPageRelocate h
  | .rollback => outOk_execRollback h
  | .cutOrder => outOk_execCutOrder h
  | .pageCutSave => outOk_execPageCutSave h
  | .cutComplete => outOk_execCutComplete h
  | .freezeComplete => outOk_execFreezeComplete h
  | .trapRecordWrite => outOk_execTrapRecordWrite h
  | .invalidationComplete => outOk_execInvalidationComplete h
  | .mbCreateContext => outOk_execMbCreateContext h
  | .mbEndContext => outOk_execMbEndContext h
  | .mbLaunch => outOk_execMbLaunch h
  | .mbEndInstance => outOk_execMbEndInstance h
  | .mbTrapRetry => outOk_execMbTrapRetry h
  | .mbTrapContinue => outOk_execMbTrapContinue h
  | .mbTrapRollback => outOk_execMbTrapRollback h
  | .mbTrapEnd => outOk_execMbTrapEnd h
  | .mbInvalidateTranslation => outOk_execMbInvalidateTranslation h
  | .mbSluiceArm => outOk_execMbSluiceArm h
  | .mbSluiceOpen => outOk_execMbSluiceOpen h
  | .mbFreeze => outOk_execMbFreeze h
  | .mbResume => outOk_execMbResume h
  | .mbCut => outOk_execMbCut h
  | .mbSetTime => outOk_execMbSetTime h
  | .mbSequencerDesignate => outOk_execMbSequencerDesignate h
  | .mbSequencerTakeover => outOk_execMbSequencerTakeover h
  | .mbAddImageKey => outOk_execMbAddImageKey h
  | .mbFullService => outOk_execMbFullService h
  | .notifyClear => outOk_execNotifyClear h
  | .endRingReadIndexWrite => outOk_execEndRingReadIndexWrite h
  | .contextRingReadIndexWrite => outOk_execContextRingReadIndexWrite h
  | .pwrcapWrite => outOk_execPwrcapWrite h
  | .scheduleEntryCommit => outOk_execScheduleEntryCommit h
  | .scheduleEntryDue => outOk_execScheduleEntryDue h
  | .powerCapControl => outOk_execPowerCapControl h
  | .diepwrFull => outOk_execDiepwrFull h
  | .diepwrBalanced => outOk_execDiepwrBalanced h
  | .diepwrNearThreshold => outOk_execDiepwrNearThreshold h
  | .diepwrGate => outOk_execDiepwrGate h
  | .diepwrRefClear => outOk_execDiepwrRefClear h
  | .diepwrChangeDone => outOk_execDiepwrChangeDone h
  | .registerWrite => outOk_execRegisterWrite h
  | .hostMemoryAccess => outOk_execHostMemoryAccess h
  | .packageReset => outOk_execPackageReset h
  | .frameSelfTestDone => outOk_execFrameSelfTestDone h
  | .bootStageVerify => outOk_execBootStageVerify h
  | .firmwareUpdate => outOk_execFirmwareUpdate h
  | .sequencerFailNoStandby => outOk_execSequencerFailNoStandby h
  | .frameScrubComplete => outOk_execFrameScrubComplete h

@[simp] theorem memOk_takeTurn (s : State) : (takeTurn s).2.memOk = s.memOk := by
  fun_cases takeTurn <;> rfl

theorem outOk_fireTurn {s : State} (cell task ins : Nat) (g : GuardHit) (h : s.memOk = true) : OutOk (fireTurn s cell task ins g) := by
  unfold fireTurn
  split
  · simpa using h
  · split
    · exact outOk_exec (by simpa using h) _
    · simpa using h

theorem outOk_runTurn {s : State} (t : Turn) (h : s.memOk = true) : OutOk (runTurn t s) := by
  cases t with
  | fire cell task ins g => exact outOk_fireTurn cell task ins g h
  | event i a =>
    rw [runTurn]
    split
    · exact outOk_exec (by simpa using h) i
    · simpa using h
  | elapse n => simpa [runTurn] using h

theorem outOk_step {s : State} (h : s.memOk = true) : OutOk (step s) :=
  outOk_runTurn _ ((memOk_takeTurn s).trans h)

/-- Settles O5: a step keeps the form of the memories because each turn does, whichever instruction, event or time it runs. -/
theorem stepKeepsMemoryForm : Obligations.StepKeepsMemoryForm :=
  fun _ t h e => outOk_step h t e

end Sys2Proof.Machine

/-! ## Modes and flags (O31)

Rules shared by the instructions of this family: what `Checked` asks for, and how a token formed by `normal` reads. -/

namespace Sys2Proof.Machine

open Sys2Proof.Claims

/-! ### Checks and concluded bodies -/

/-- `Checked` from its two cases: the trap of the first failing check, and what holds where none fails. -/
theorem checked_intro {i : Instr} {s : State} {u : Cur} {checks : List (Option TrapInfo)} {p : Prop}
    (fails : ∀ e, checks.findSome? id = some e → exec i s = .next (trapped s u e))
    (passes : checks.findSome? id = none → p) : Checked i s u checks p := by
  unfold Checked
  split
  · next e he => exact fails e he
  · next hn => exact passes hn

/-! ### Lanes and sideband of an emitted token -/

@[simp] theorem normal_bhead (t : Token) : (normal t).bhead = t.bhead := rfl

/-- A lane of an emitted token, by its number. -/
theorem laneAt_normal (t : Token) {i : Nat} (h : i < 16) :
    laneAt (normal t) i = if (normal t).valid.getLsbD i then laneAt t i &&& spareMask t.fmt else 0 := by
  simpa [laneAt, h] using normal_lane t ⟨i, h⟩

/-- A valid lane of an emitted token, where the format has no spare bits or the lane has none set. -/
theorem laneAt_normal_valid {t : Token} {i : Nat} (h : i < 16) (hv : (normal t).valid.getLsbD i = true)
    (hm : laneAt t i &&& spareMask t.fmt = laneAt t i) : laneAt (normal t) i = laneAt t i := by
  rw [laneAt_normal t h, if_pos hv, hm]

/-- An emitted token of kind 000, with no `BHEAD` and no `SEQ`, is formed as 02 R38 gives. -/
theorem formedAs_normal {a t : Token} {m : Fmt} {v : BitVec 16} {po : Bool} {sc : BitVec 8} (kind : t.kind = 0) (fmt : t.fmt = m)
    (valid : pairValid m t.valid = v) (poison : t.poison = po) (scale : t.scale = sc) (tag : t.tag = a.tag) (seq : t.seq = 0)
    (bhead : t.bhead = false) : FormedAs a m v po sc (normal t) :=
  { kind := (normal_kind t).trans kind
    fmt := (normal_fmt t).trans fmt
    valid := by rw [normal_valid, fmt, valid]
    poison := (normal_poison t).trans poison
    scale := (normal_scale t).trans scale
    tag := (normal_tag t).trans tag
    seq := (normal_seq t).trans seq
    bhead := (normal_bhead t).trans bhead
    zero := fun i hi hv => by rw [laneAt_normal t hi, hv, if_neg Bool.false_ne_true] }

/-! ### Modes and flags (05 R164, R165) -/

section
variable {f : Fields} {s : State} {u : Cur} {scalar : Bool} {o : Opnds}

/-- SETMODE without operand A takes its mode from `IMM`. -/
theorem setmode_immediate (h : Executes 0x0B0 .any f s u scalar o) (ha : o.a = none) :
    Defers (.setmode f) f s u scalar (.setMode (f.imm.extractLsb' 0 3)) := by
  have e := runIns_executes h rfl (bodySetmode f)
  simp only [bodySetmode, ha] at e
  exact e

theorem setmode_poisoned {a : Token} (h : Executes 0x0B0 .any f s u scalar o) (ha : o.a = some a) (hp : a.poison = true) :
    exec (.setmode f) s = .next (controlUse s u) := by
  have e := runIns_executes h rfl (bodySetmode f)
  simp only [bodySetmode, ha, hp, if_true] at e
  exact e

theorem setmode_operand {a : Token} (h : Executes 0x0B0 .any f s u scalar o) (ha : o.a = some a) (hp : a.poison = false) :
    Checked (.setmode f) s u [wantIn 0 a fun g => g == Fmt.uint32 || g == Fmt.int32]
      (if a.valid.getLsbD 0 then Defers (.setmode f) f s u scalar (.setMode ((laneAt a 0).extractLsb' 0 3))
       else Does (.setmode f) f s u scalar s) := by
  have e := runIns_executes h rfl (bodySetmode f)
  simp only [bodySetmode, ha, hp, Bool.false_eq_true, if_false] at e
  cases hw : wantIn 0 a fun g => g == Fmt.uint32 || g == Fmt.int32 with
  | some x => rw [hw] at e; exact e
  | none =>
    rw [hw] at e
    cases hv : a.valid.getLsbD 0 with
    | true => simp only [validAt, hv, if_true] at e; exact e
    | false => simp only [validAt, hv, Bool.false_eq_true, if_false] at e; exact e

/-- CLRFLAGS without operand A takes its lanes and flags from `IMM`. -/
theorem clrflags_immediate (h : Executes 0x0B2 .any f s u scalar o) (ha : o.a = none) :
    Defers (.clrflags f) f s u scalar
      (.clearFlags (Vector.ofFn fun k => if f.imm.getLsbD (7 + k.val) then f.imm.extractLsb' 0 7 else 0)) := by
  have e := runIns_executes h rfl (bodyClrflags f)
  simp only [bodyClrflags, ha] at e
  exact e

theorem clrflags_poisoned {a : Token} (h : Executes 0x0B2 .any f s u scalar o) (ha : o.a = some a) (hp : a.poison = true) :
    exec (.clrflags f) s = .next (controlUse s u) := by
  have e := runIns_executes h rfl (bodyClrflags f)
  simp only [bodyClrflags, ha, hp, if_true] at e
  exact e

theorem clrflags_operand {a : Token} (h : Executes 0x0B2 .any f s u scalar o) (ha : o.a = some a) (hp : a.poison = false) :
    Checked (.clrflags f) s u [wantIn 0 a fun g => g == Fmt.uint32 || g == Fmt.int32]
      (Defers (.clrflags f) f s u scalar
        (.clearFlags (Vector.ofFn fun k => if a.valid.getLsbD k.val then (laneAt a k.val).extractLsb' 0 7 else 0))) := by
  have e := runIns_executes h rfl (bodyClrflags f)
  simp only [bodyClrflags, ha, hp, Bool.false_eq_true, if_false] at e
  cases hw : wantIn 0 a fun g => g == Fmt.uint32 || g == Fmt.int32 with
  | some x => rw [hw] at e; exact e
  | none =>
    have hl : ∀ k : Fin 16, laneAt a k.val = a.lanes[k] := fun k => by simp [laneAt]
    rw [hw] at e
    simp only [hl]
    exact e

/-- GETMODE gives the mode word in lane 0, poisoned where it reads poisoned. -/
theorem getmode_gives (h : Executes 0x0B6 .any f s u scalar o) :
    Gives (.getmode f) f s u scalar fun t fl =>
      Formed blankToken Fmt.uint32 1 (.mode ∈ u.t.spoilt) t ∧ fl = noFlags ∧ laneAt t 0 = u.t.mode.zeroExtend 32 := by
  refine ⟨_, _, runIns_executes h rfl (bodyGetmode f), ?_, rfl, ?_⟩
  · rw [← List.contains_eq_mem]
    exact formedAs_normal rfl rfl (show pairValid Fmt.uint32 1 = 1 by decide) rfl rfl rfl rfl rfl
  · have hv : (pairValid Fmt.uint32 1).getLsbD 0 = true := by decide
    have hm : spareMask Fmt.uint32 = BitVec.allOnes 32 := by decide
    rw [laneAt_normal _ (by decide), normal_valid, hv, if_pos rfl, hm, BitVec.and_allOnes]
    simp [laneAt]

/-- GETFLAGS gives each lane's flags, poisoned where the flag state reads poisoned. -/
theorem getflags_gives (h : Executes 0x0B1 .any f s u scalar o) :
    Gives (.getflags f) f s u scalar fun t fl =>
      Formed blankToken Fmt.uint32 0xFFFF (.flags ∈ u.t.spoilt) t ∧ fl = noFlags ∧
        Lanes t fun k => if h : k < 16 then u.t.flags[k].zeroExtend 32 else 0 := by
  refine ⟨_, _, runIns_executes h rfl (bodyGetflags f), ?_, rfl, ?_⟩
  · rw [← List.contains_eq_mem]
    exact formedAs_normal rfl rfl (show pairValid Fmt.uint32 0xFFFF = 0xFFFF by decide) rfl rfl rfl rfl rfl
  · intro k hk hv
    rw [laneAt_normal_valid hk hv BitVec.and_allOnes]
    simp [laneAt, hk]

end

/-- Settles O31: each instruction's body, concluded, case by case of its operand. -/
theorem modesAndFlags : Obligations.ModesAndFlags := by
  refine ⟨fun f s u scalar o _ h => ?_, fun f s u scalar o _ h => ?_, fun f s u scalar o _ h => getmode_gives h,
    fun f s u scalar o _ h => getflags_gives h⟩
  · split
    · next ha => exact setmode_immediate h ha
    · next a ha =>
      split
      · next hp => exact setmode_poisoned h ha hp
      · next hp => exact setmode_operand h ha (by simpa using hp)
  · split
    · next ha => exact clrflags_immediate h ha
    · next a ha =>
      split
      · next hp => exact clrflags_poisoned h ha hp
      · next hp => exact clrflags_operand h ha (by simpa using hp)

end Sys2Proof.Machine

/-! ## `RoundTo` of an exact value (O20)

The magnitude is counted in spacings 2^q and rounded to a whole count (`Splits`, `roundAt`); a magnitude code of a format stands
for a value that rises with the code (`magValue`); so overflow and underflow, which the procedure finds from the code, are those
of the rounded value. -/

namespace Sys2Proof.Machine

open Sys2Proof.Claims

/-! ### Values and their signs -/

/-- A sign as a factor. -/
def signFactor (neg : Bool) : ℚ := if neg then -1 else 1

@[simp] theorem abs_signFactor (neg : Bool) : |signFactor neg| = 1 := by cases neg <;> simp [signFactor]

theorem signFactor_ne_zero (neg : Bool) : signFactor neg ≠ 0 := by cases neg <;> simp [signFactor]

theorem real_fin (neg : Bool) (m : Nat) (e : Int) : real (.fin neg m e) = signFactor neg * (m * 2 ^ e) := by
  simp only [real, signFactor, mul_assoc]

@[simp] theorem abs_real_fin (neg : Bool) (m : Nat) (e : Int) : |real (.fin neg m e)| = m * 2 ^ e := by
  rw [real_fin, abs_mul, abs_signFactor, one_mul, abs_of_nonneg (by positivity)]

/-- The binary logarithm of a magnitude. -/
theorem log_magnitude {m : Nat} (hm : m ≠ 0) (e : Int) : Int.log 2 ((m : ℚ) * 2 ^ e) = Nat.log2 m + e := by
  have hlo : ((2 ^ Nat.log2 m : Nat) : ℚ) ≤ m := by exact_mod_cast Nat.log2_self_le hm
  have hhi : (m : ℚ) < ((2 ^ (Nat.log2 m + 1) : Nat) : ℚ) := by exact_mod_cast Nat.lt_log2_self
  have hp : (0 : ℚ) < 2 ^ e := by positivity
  have hr : (0 : ℚ) < m * 2 ^ e := by positivity
  apply le_antisymm
  · apply Int.lt_add_one_iff.mp
    rw [← Int.lt_zpow_iff_log_lt (by decide) hr]
    calc (m : ℚ) * 2 ^ e < ((2 ^ (Nat.log2 m + 1) : Nat) : ℚ) * 2 ^ e := by gcongr
      _ = ((2 : Nat) : ℚ) ^ ((Nat.log2 m : Int) + e + 1) := by
        push_cast
        rw [← zpow_natCast, ← zpow_add₀ two_ne_zero]
        congr 1; push_cast; ring
  · rw [← Int.zpow_le_iff_le_log (by decide) hr]
    calc ((2 : Nat) : ℚ) ^ ((Nat.log2 m : Int) + e) = ((2 ^ Nat.log2 m : Nat) : ℚ) * 2 ^ e := by
          push_cast
          rw [zpow_add₀ two_ne_zero, zpow_natCast]
      _ ≤ m * 2 ^ e := by gcongr

/-! ### Rounding to an integer -/

/-- 04 R108 in spacings: a value rounds to the multiple of its spacing whose count is the rounded count. -/
theorem roundedTo_eq_roundedInt (g : FpFmt) (mode : Rm) (x : ℚ) :
    roundedTo g mode x =
      roundedInt mode (x / 2 ^ (max (Int.log 2 |x|) (1 - g.bias) - g.mbits)) * 2 ^ (max (Int.log 2 |x|) (1 - g.bias) - g.mbits) := by
  unfold roundedTo roundedInt
  dsimp only
  generalize hq : (2 : ℚ) ^ (max (Int.log 2 |x|) (1 - g.bias) - g.mbits) = q
  have hp : 0 < q := by rw [← hq]; positivity
  obtain ⟨y, rfl⟩ : ∃ y, x = y * q := ⟨x / q, by field_simp⟩
  have hy : y * q / q = y := by field_simp
  have h1 : y * q = ⌊y⌋ * q ↔ y = ⌊y⌋ := mul_left_inj' hp.ne'
  have h2 : y * q - ⌊y⌋ * q < q / 2 ↔ y - ⌊y⌋ < 1 / 2 := by
    rw [← sub_mul, ← mul_lt_mul_iff_left₀ hp (b := y - ⌊y⌋)]; ring_nf
  have h3 : q / 2 < y * q - ⌊y⌋ * q ↔ 1 / 2 < y - ⌊y⌋ := by
    rw [← sub_mul, ← mul_lt_mul_iff_left₀ hp (c := y - ⌊y⌋)]; ring_nf
  have h4 : 0 < y * q ↔ 0 < y := mul_pos_iff_of_pos_right hp
  simp only [hy, h1, h2, h3, h4]
  cases mode <;> split_ifs <;> ring

/-- The rounded integer is the value's floor or, of a value that is no integer, the one above. -/
theorem roundedInt_cases (mode : Rm) (y : ℚ) : roundedInt mode y = ⌊y⌋ ∨ y ≠ ⌊y⌋ ∧ roundedInt mode y = ⌊y⌋ + 1 := by
  unfold roundedInt
  dsimp only
  split
  · next h => exact .inl h
  · next h => cases mode <;> grind

theorem roundedInt_near (mode : Rm) (y : ℚ) : |roundedInt mode y - y| < 1 := by
  have h0 := Int.floor_le y
  have h1 := Int.lt_floor_add_one y
  rw [abs_lt]
  rcases roundedInt_cases mode y with h | ⟨hne, h⟩ <;> rw [h]
  · constructor <;> linarith
  · have := lt_of_le_of_ne h0 hne.symm
    constructor <;> linarith

/-- A value rounds to itself exactly where it is an integer. -/
theorem roundedInt_eq_self_iff (mode : Rm) (y : ℚ) : roundedInt mode y = y ↔ ∃ n : ℤ, y = n := by
  constructor
  · intro h
    rcases roundedInt_cases mode y with hf | ⟨-, hf⟩
    · exact ⟨⌊y⌋, h.symm.trans hf⟩
    · exact ⟨⌊y⌋ + 1, by push_cast; exact h.symm.trans hf⟩
  · rintro ⟨n, rfl⟩
    simp [roundedInt]

/-- What `rem` of `den` parts tell of a magnitude `y` above the whole number `k`: the side of the half on which it lies, and
whether it lies above `k` at all. -/
structure Splits (y : ℚ) (k rem den : Nat) : Prop where
  lower : (k : ℚ) ≤ y
  upper : y < k + 1
  half : den < 2 * rem ↔ 1 / 2 < y - k
  tie : 2 * rem = den ↔ y - k = 1 / 2
  whole : rem = 0 ↔ y = k

/-- A quotient falls into its whole part and the remainder's share. -/
theorem splits_div (m den : Nat) (hd : 0 < den) : Splits ((m : ℚ) / den) (m / den) (m % den) den := by
  have hq : (0 : ℚ) < den := by exact_mod_cast hd
  have hm : (m : ℚ) / den - (m / den : Nat) = (m % den : Nat) / den := by
    have : (m : ℚ) = den * (m / den : Nat) + (m % den : Nat) := by exact_mod_cast (Nat.div_add_mod m den).symm
    rw [eq_div_iff hq.ne', sub_mul, div_mul_cancel₀ _ hq.ne']
    linarith
  have hr : ((m % den : Nat) : ℚ) / den < 1 := by
    rw [div_lt_one hq]
    exact_mod_cast Nat.mod_lt m hd
  have h0 : (0 : ℚ) ≤ ((m % den : Nat) : ℚ) / den := by positivity
  constructor
  · linarith
  · linarith
  · rw [hm, lt_div_iff₀ hq, div_mul_eq_mul_div, div_lt_iff₀ two_pos, one_mul, mul_comm]
    exact_mod_cast Iff.rfl
  · rw [hm, div_eq_iff hq.ne', div_mul_eq_mul_div, eq_div_iff two_ne_zero, one_mul, mul_comm]
    exact_mod_cast Iff.rfl
  · rw [← sub_eq_zero (a := (m : ℚ) / den), hm, div_eq_zero_iff, or_iff_left hq.ne']
    exact_mod_cast Iff.rfl

/-- One part of four stands for any magnitude below a half. -/
theorem splits_far {y : ℚ} (hpos : 0 < y) (hhalf : y < 1 / 2) : Splits y 0 1 4 := by
  constructor <;> norm_num <;> linarith

section
variable {y : ℚ} {k rem den : Nat} (h : Splits y k rem den) (mode : Rm)
include h

theorem roundsUp_of_whole (hy : y = k) (neg : Bool) : roundsUp mode neg k rem den false = false := by
  have hr : rem = 0 := h.whole.mpr hy
  have hd : den ≠ 0 := fun hd => by simpa [hr, hd, hy] using h.tie
  cases mode <;> simp [roundsUp, hr, hd.symm]

/-- To nearest even, by the three sides of the half. -/
theorem roundsUp_rne (neg : Bool) :
    roundsUp .rne neg k rem den false = if y - k < 1 / 2 then false else if 1 / 2 < y - k then true else decide (k % 2 = 1) := by
  rcases lt_trichotomy (y - k) (1 / 2) with hc | hc | hc
  · have h1 : ¬den < 2 * rem := fun e => hc.not_gt (h.half.mp e)
    have h2 : ¬2 * rem = den := fun e => hc.ne (h.tie.mp e)
    rw [if_pos hc]
    simp [roundsUp, h1, h2]
  · have h2 : 2 * rem = den := h.tie.mpr hc
    rw [if_neg hc.not_lt, if_neg hc.not_gt]
    simp [roundsUp, h2, beq_eq_decide]
  · rw [if_neg hc.not_gt, if_pos hc]
    simp [roundsUp, h.half.mpr hc]

/-- A magnitude strictly between two whole numbers, with a positive sign. -/
theorem roundedInt_pos (hy : y ≠ k) : roundedInt mode y = ((k + (roundsUp mode false k rem den false).toNat : Nat) : ℚ) := by
  have hf : ⌊y⌋ = k := Int.floor_eq_iff.mpr ⟨by exact_mod_cast h.lower, by exact_mod_cast h.upper⟩
  have hk : 0 < y := lt_of_le_of_lt (Nat.cast_nonneg k) (lt_of_le_of_ne h.lower hy.symm)
  have hr : rem ≠ 0 := mt h.whole.mp hy
  unfold roundedInt
  simp only [hf, Int.cast_natCast, if_neg hy]
  cases mode with
  | rne =>
    rw [roundsUp_rne h]
    have hpar : (k : ℤ) % 2 = 0 ↔ ¬k % 2 = 1 := by omega
    simp only [hpar]
    split_ifs <;> simp [*]
  | rtz => simp [roundsUp, hk]
  | rup => simp [roundsUp, bne_iff_ne.mpr hr]
  | rdn => simp [roundsUp]

/-- With a negative sign the floor is the greater magnitude. -/
theorem roundedInt_neg (hy : y ≠ k) : roundedInt mode (-y) = -((k + (roundsUp mode true k rem den false).toNat : Nat) : ℚ) := by
  have hlt : (k : ℚ) < y := lt_of_le_of_ne h.lower hy.symm
  have hf : ⌊-y⌋ = -((k : ℤ) + 1) := by
    refine Int.floor_eq_iff.mpr ⟨?_, ?_⟩ <;> push_cast
    · linarith [h.upper]
    · linarith
  have hk : ¬0 < -y := by have := Nat.cast_nonneg (α := ℚ) k; linarith
  have hr : rem ≠ 0 := mt h.whole.mp hy
  have hne : -y ≠ -((k : ℚ) + 1) := by have := h.upper; intro e; linarith
  unfold roundedInt
  simp only [hf, Int.cast_neg, Int.cast_add, Int.cast_natCast, Int.cast_one, if_neg hne]
  cases mode with
  | rne =>
    rw [roundsUp_rne h]
    have hpar : -((k : ℤ) + 1) % 2 = 0 ↔ k % 2 = 1 := by omega
    have h1 : -y - -((k : ℚ) + 1) < 1 / 2 ↔ 1 / 2 < y - k := by constructor <;> intro <;> linarith
    have h2 : 1 / 2 < -y - -((k : ℚ) + 1) ↔ y - k < 1 / 2 := by constructor <;> intro <;> linarith
    simp only [hpar, h1, h2]
    rcases lt_trichotomy (y - k) (1 / 2) with hc | hc | hc
    · rw [if_neg hc.not_gt, if_pos hc, if_pos hc]
      simp
    · rw [if_neg hc.not_gt, if_neg hc.not_lt, if_neg hc.not_lt, if_neg hc.not_gt]
      by_cases hp : k % 2 = 1 <;> simp [hp]
    · rw [if_pos hc, if_neg hc.not_gt, if_pos hc]
      simp
  | rtz => simp [roundsUp, hk]
  | rup => simp [roundsUp]
  | rdn => simp [roundsUp, bne_iff_ne.mpr hr]

/-- The signed magnitude rounds, as the spec rounds a value, to `k` or, where `roundsUp` says so, to `k` + 1. -/
theorem roundedInt_of_splits (neg : Bool) :
    roundedInt mode (signFactor neg * y) = signFactor neg * ((k + (roundsUp mode neg k rem den false).toNat : Nat) : ℚ) := by
  by_cases hy : y = k
  · rw [roundsUp_of_whole h mode hy neg, hy]
    refine (roundedInt_eq_self_iff mode _).mpr ⟨(if neg then -1 else 1) * k, ?_⟩
    cases neg <;> simp [signFactor]
  · cases neg with
    | false => simpa [signFactor] using roundedInt_pos h mode hy
    | true => simpa [signFactor] using roundedInt_neg h mode hy

end

/-- A magnitude counted in spacings 2^`q` falls into a whole count and parts, which is what `roundAt` rounds. -/
theorem roundAt_splits {m : Nat} (hm : m ≠ 0) (mode : Rm) (neg : Bool) (e q : Int) :
    ∃ k rem den, Splits ((m : ℚ) * 2 ^ (e - q)) k rem den ∧
      roundAt mode neg m e false q = (k + (roundsUp mode neg k rem den false).toNat, rem != 0) := by
  unfold roundAt
  split
  · next hq =>
    refine ⟨m * 2 ^ (e - q).toNat, 0, 1, ?_, by simp⟩
    have : (m : ℚ) * 2 ^ (e - q) = ((m * 2 ^ (e - q).toNat : Nat) : ℚ) := by
      push_cast
      rw [← zpow_natCast, Int.toNat_of_nonneg (by omega)]
    rw [this]
    constructor <;> simp
  · next hq =>
    split
    · next hfar =>
      refine ⟨0, 1, 4, ?_, by simp⟩
      have hpos : (0 : ℚ) < m * 2 ^ (e - q) := by positivity
      have hhalf : (m : ℚ) * 2 ^ (e - q) < 1 / 2 := by
        have : Int.log 2 ((m : ℚ) * 2 ^ (e - q)) < -1 := by rw [log_magnitude hm]; omega
        rw [← Int.lt_zpow_iff_log_lt (by decide) hpos] at this
        simpa using this
      exact splits_far hpos hhalf
    · have hd : (0 : ℚ) < ((2 ^ (q - e).toNat : Nat) : ℚ) := by positivity
      have hval : (m : ℚ) * 2 ^ (e - q) = m / ((2 ^ (q - e).toNat : Nat) : ℚ) := by
        push_cast
        rw [← zpow_natCast, Int.toNat_of_nonneg (by omega), div_eq_mul_inv, ← zpow_neg, neg_sub]
      refine ⟨m / 2 ^ (q - e).toNat, m % 2 ^ (q - e).toNat, 2 ^ (q - e).toNat, ?_, by simp⟩
      rw [hval]
      exact splits_div m (2 ^ (q - e).toNat) (by positivity)

/-- `roundAt` gives the count that the spec's rounding gives, and finds it inexact exactly where it differs. -/
theorem roundAt_rounds {m : Nat} (hm : m ≠ 0) (mode : Rm) (neg : Bool) (e q : Int) :
    roundedInt mode (signFactor neg * (m * 2 ^ (e - q))) = signFactor neg * ((roundAt mode neg m e false q).1 : ℚ) ∧
      ((roundAt mode neg m e false q).2 = true ↔
        signFactor neg * ((roundAt mode neg m e false q).1 : ℚ) ≠ signFactor neg * (m * 2 ^ (e - q))) := by
  obtain ⟨k, rem, den, hs, hr⟩ := roundAt_splits hm mode neg e q
  generalize (m : ℚ) * 2 ^ (e - q) = y at hs
  have hround := roundedInt_of_splits hs mode neg
  rw [hr]
  refine ⟨hround, ?_⟩
  rw [bne_iff_ne, not_iff_not, ← hround, hs.whole]
  constructor
  · intro hy
    rw [hround, roundsUp_of_whole hs mode hy, hy]
    simp
  · intro hself
    rw [hround, mul_right_inj' (signFactor_ne_zero neg)] at hself
    have h1 := hs.lower
    have h2 := hs.upper
    rw [← hself] at h1 h2 ⊢
    norm_cast at h1 h2 ⊢
    omega

/-! ### The formats of 04 R90 -/

theorem isFormat_cases {g : FpFmt} (h : isFormat g) : g = .fp32 ∨ g = .bf16 ∨ g = .fp16 ∨ g = .e4m3 ∨ g = .e5m2 ∨ g = .e3m2 ∨
    g = .e2m3 ∨ g = .e2m1 := by
  obtain ⟨m, hm⟩ := h
  unfold fpFmt at hm
  split at hm <;> simp_all

/-- What the formats have in common: the largest finite code stands below the sign bit, above the subnormal codes, and below E4M3's
NaN. -/
structure FormatBounds (g : FpFmt) : Prop where
  width : 0 < g.width
  sign : g.maxFin < 2 ^ (g.width - 1)
  normal : 2 ^ g.mbits ≤ g.maxFin
  nan : g.style = .e4m3 → g.maxFin < 0x7F

theorem formatBounds {g : FpFmt} (h : isFormat g) : FormatBounds g := by
  rcases isFormat_cases h with rfl | rfl | rfl | rfl | rfl | rfl | rfl | rfl <;> constructor <;> decide

/-! ### What a magnitude code stands for -/

/-- The value of a magnitude code, by its exponent and fraction fields (04 R90). -/
def magValue (g : FpFmt) (mag : Nat) : ℚ :=
  if mag / 2 ^ g.mbits = 0 then (mag % 2 ^ g.mbits : Nat) * 2 ^ (1 - g.bias - g.mbits)
  else (2 ^ g.mbits + mag % 2 ^ g.mbits : Nat) * 2 ^ (((mag / 2 ^ g.mbits : Nat) : Int) - g.bias - g.mbits)

/-- A finite element's bits are a sign and a magnitude code. -/
theorem decodeNum_signBit {g : FpFmt} (h : isFormat g) (neg : Bool) {mag : Nat} (hmag : mag ≤ g.maxFin) :
    real (decodeNum g (signBit g neg + mag)) = signFactor neg * magValue g mag := by
  obtain ⟨hw, hsign, -, hnan⟩ := formatBounds h
  have hlt : mag < 2 ^ (g.width - 1) := lt_of_le_of_lt hmag hsign
  have hbit : (signBit g neg + mag).testBit (g.width - 1) = neg := by
    rw [signBit, mul_comm, Nat.testBit_two_pow_mul_add _ hlt]
    cases neg <;> simp
  have hmod : (signBit g neg + mag) % 2 ^ (g.width - 1) = mag := by
    rw [signBit, mul_comm, Nat.mul_add_mod, Nat.mod_eq_of_lt hlt]
  have h1 : ¬(g.style = .e4m3 ∧ mag = 0x7F) := fun ⟨hs, he⟩ => by have := hnan hs; omega
  have h2 : mag ≠ g.maxFin + 1 := by omega
  have h3 : ¬g.maxFin + 1 < mag := by omega
  unfold decodeNum
  simp only [hbit, hmod, Bool.and_eq_true, decide_eq_true_eq, beq_iff_eq, h1, h2, h3, and_false, if_false]
  unfold magValue
  split <;> rw [real_fin]

theorem signBit_add_lt {g : FpFmt} (h : isFormat g) (neg : Bool) {mag : Nat} (hmag : mag ≤ g.maxFin) :
    signBit g neg + mag < 2 ^ g.width := by
  obtain ⟨hw, hsign, -, -⟩ := formatBounds h
  have hp : 2 ^ g.width = 2 * 2 ^ (g.width - 1) := by rw [← pow_succ', Nat.sub_add_cancel hw]
  have hs : signBit g neg ≤ 2 ^ (g.width - 1) := by cases neg <;> simp [signBit]
  omega

/-- The largest finite value. -/
theorem real_maxFin {g : FpFmt} (h : isFormat g) : real (decodeNum g g.maxFin) = magValue g g.maxFin := by
  simpa [signBit, signFactor] using decodeNum_signBit h false le_rfl

theorem magValue_subnormal (g : FpFmt) {c : Nat} (hc : c < 2 ^ g.mbits) :
    magValue g c = c * 2 ^ (1 - g.bias - g.mbits) := by
  rw [magValue, if_pos (Nat.div_eq_of_lt hc), Nat.mod_eq_of_lt hc]

theorem magValue_normal (g : FpFmt) (n : Nat) {d : Nat} (hd : d < 2 ^ g.mbits) :
    magValue g ((n + 1) * 2 ^ g.mbits + d) = (2 ^ g.mbits + d : Nat) * 2 ^ (((n + 1 : Nat) : Int) - g.bias - g.mbits) := by
  have hdiv : ((n + 1) * 2 ^ g.mbits + d) / 2 ^ g.mbits = n + 1 := by
    rw [mul_comm, Nat.mul_add_div (by positivity), Nat.div_eq_of_lt hd, add_zero]
  have hmod : ((n + 1) * 2 ^ g.mbits + d) % 2 ^ g.mbits = d := by
    rw [mul_comm, Nat.mul_add_mod, Nat.mod_eq_of_lt hd]
  rw [magValue, hdiv, hmod, if_neg n.succ_ne_zero]

/-- A code counts spacings: `c` of those of the exponent field `n` + 1, or of the least ones where `n` = 0. -/
theorem magValue_count (g : FpFmt) {n c : Nat} (hn : n = 0 ∨ 2 ^ g.mbits ≤ c) (hc : c ≤ 2 * 2 ^ g.mbits) :
    magValue g (n * 2 ^ g.mbits + c) = c * 2 ^ (((n + 1 : Nat) : Int) - g.bias - g.mbits) := by
  rcases Nat.lt_or_ge c (2 ^ g.mbits) with hlt | hge
  · obtain rfl : n = 0 := by omega
    simpa using magValue_subnormal g hlt
  · obtain ⟨d, rfl⟩ := Nat.exists_eq_add_of_le hge
    rcases Nat.lt_or_ge d (2 ^ g.mbits) with hd | hd
    · rw [← magValue_normal g n hd]
      congr 1
      ring
    · obtain rfl : d = 2 ^ g.mbits := by omega
      have hz := magValue_normal g (n + 1) (d := 0) (by positivity)
      have he : ((n + 1 + 1 : Nat) : Int) - g.bias - g.mbits = (((n + 1 : Nat) : Int) - g.bias - g.mbits) + 1 := by push_cast; ring
      rw [he, zpow_add_one₀ two_ne_zero, add_zero] at hz
      rw [show n * 2 ^ g.mbits + (2 ^ g.mbits + 2 ^ g.mbits) = (n + 1 + 1) * 2 ^ g.mbits by ring]
      rw [add_zero] at hz
      rw [hz]
      push_cast
      ring

/-- Every code is such a count. -/
theorem exists_count (g : FpFmt) (mag : Nat) :
    ∃ n c, mag = n * 2 ^ g.mbits + c ∧ (n = 0 ∨ 2 ^ g.mbits ≤ c) ∧ c < 2 * 2 ^ g.mbits := by
  have hp : 0 < 2 ^ g.mbits := by positivity
  have hm := Nat.mod_lt mag hp
  have hd := Nat.div_add_mod' mag (2 ^ g.mbits)
  cases hn : mag / 2 ^ g.mbits with
  | zero => exact ⟨0, mag, by omega, .inl rfl, by rw [hn] at hd; omega⟩
  | succ n =>
    refine ⟨n, 2 ^ g.mbits + mag % 2 ^ g.mbits, ?_, .inr (by omega), by omega⟩
    rw [hn, Nat.succ_mul] at hd
    omega

/-- A greater code stands for a greater value. -/
theorem magValue_strictMono (g : FpFmt) : StrictMono (magValue g) := by
  refine strictMono_nat_of_lt_succ fun mag => ?_
  obtain ⟨n, c, rfl, hn, hc⟩ := exists_count g mag
  rw [add_assoc, magValue_count g hn hc.le, magValue_count g (hn.imp_right (by omega)) hc]
  gcongr
  exact_mod_cast Nat.lt_succ_self c

/-- The smallest normal. -/
theorem magValue_normal_least (g : FpFmt) : magValue g (2 ^ g.mbits) = 2 ^ (1 - g.bias) := by
  have h := magValue_count g (n := 0) (c := 2 ^ g.mbits) (.inl rfl) (by omega)
  rw [zero_mul, zero_add] at h
  rw [h]
  push_cast
  rw [← zpow_natCast, ← zpow_add₀ two_ne_zero]
  congr 1
  ring

@[simp] theorem magValue_zero (g : FpFmt) : magValue g 0 = 0 := by simp [magValue]

theorem magValue_nonneg (g : FpFmt) (mag : Nat) : 0 ≤ magValue g mag := by
  rw [← magValue_zero g]
  exact (magValue_strictMono g).monotone (Nat.zero_le mag)

/-! ### The procedure -/

/-- The exponent in whose spacings a value is counted. -/
def spacingExp (g : FpFmt) (m : Nat) (e : Int) : Int := max ((Nat.log2 m : Int) + e) (1 - g.bias)

/-- A magnitude's count of spacings after rounding, and whether it is inexact. -/
def roundedCount (g : FpFmt) (mode : Rm) (neg : Bool) (m : Nat) (e : Int) : Nat × Bool :=
  roundAt mode neg m e false (spacingExp g m e - g.mbits)

/-- The magnitude code that `roundFin` forms before it looks for overflow. -/
def roundedMag (g : FpFmt) (mode : Rm) (neg : Bool) (m : Nat) (e : Int) : Nat :=
  (spacingExp g m e + g.bias).toNat * 2 ^ g.mbits + (roundedCount g mode neg m e).1 - 2 ^ g.mbits

section
variable {g : FpFmt} {m : Nat} (hm : m ≠ 0) (mode : Rm) (neg : Bool) (e : Int)
include hm

/-- The spec's rounded value, from the count; inexact exactly where it differs. -/
theorem roundedCount_rounds :
    roundedTo g mode (real (.fin neg m e)) =
        signFactor neg * ((roundedCount g mode neg m e).1 * 2 ^ (spacingExp g m e - g.mbits)) ∧
      ((roundedCount g mode neg m e).2 = true ↔ roundedTo g mode (real (.fin neg m e)) ≠ real (.fin neg m e)) := by
  obtain ⟨hround, hinexact⟩ := roundAt_rounds hm mode neg e (spacingExp g m e - g.mbits)
  have hp : (2 : ℚ) ^ (spacingExp g m e - g.mbits) ≠ 0 := by positivity
  have hx : real (.fin neg m e) =
      signFactor neg * (m * 2 ^ (e - (spacingExp g m e - g.mbits))) * 2 ^ (spacingExp g m e - g.mbits) := by
    rw [real_fin, mul_assoc, mul_assoc, ← zpow_add₀ two_ne_zero, sub_add_cancel]
  have hv : roundedTo g mode (real (.fin neg m e)) =
      signFactor neg * (roundedCount g mode neg m e).1 * 2 ^ (spacingExp g m e - g.mbits) := by
    rw [roundedTo_eq_roundedInt, abs_real_fin, log_magnitude hm, ← spacingExp, hx, mul_div_cancel_right₀ _ hp, hround]
    rfl
  refine ⟨hv.trans (mul_assoc ..), hinexact.trans (not_congr ?_)⟩
  rw [hv, hx, mul_left_inj' hp]
  rfl

/-- The count differs from the magnitude by less than one spacing. -/
theorem roundedCount_near :
    |((roundedCount g mode neg m e).1 : ℚ) - m * 2 ^ (e - (spacingExp g m e - g.mbits))| < 1 := by
  obtain ⟨hround, -⟩ := roundAt_rounds hm mode neg e (spacingExp g m e - g.mbits)
  have h := roundedInt_near mode (signFactor neg * (m * 2 ^ (e - (spacingExp g m e - g.mbits))))
  rwa [hround, ← mul_sub, abs_mul, abs_signFactor, one_mul] at h

/-- At most as many spacings as the exponent's binade has, and one. -/
theorem roundedCount_le : (roundedCount g mode neg m e).1 ≤ 2 * 2 ^ g.mbits := by
  have hnear := abs_lt.mp (roundedCount_near (g := g) hm mode neg e)
  have hlt : (m : ℚ) * 2 ^ (e - (spacingExp g m e - g.mbits)) < ((2 * 2 ^ g.mbits : Nat) : ℚ) := by
    have hle : (Nat.log2 m : Int) + e ≤ spacingExp g m e := le_max_left ..
    have h := (Int.lt_zpow_iff_log_lt (b := 2) (by decide) (x := g.mbits + 1)
      (r := (m : ℚ) * 2 ^ (e - (spacingExp g m e - g.mbits))) (by positivity)).mpr (by rw [log_magnitude hm]; omega)
    rw [zpow_add_one₀ (by norm_num), zpow_natCast] at h
    push_cast at h ⊢
    linarith
  have : ((roundedCount g mode neg m e).1 : ℚ) < ((2 * 2 ^ g.mbits : Nat) : ℚ) + 1 := by linarith
  exact Nat.lt_succ_iff.mp (by exact_mod_cast this)

/-- A value that is no smaller than the smallest normal fills its binade's first half at least. -/
theorem le_roundedCount (hn : 1 - g.bias ≤ (Nat.log2 m : Int) + e) : 2 ^ g.mbits ≤ (roundedCount g mode neg m e).1 := by
  have hnear := abs_lt.mp (roundedCount_near (g := g) hm mode neg e)
  have hle : ((2 ^ g.mbits : Nat) : ℚ) ≤ (m : ℚ) * 2 ^ (e - (spacingExp g m e - g.mbits)) := by
    have heq : spacingExp g m e = (Nat.log2 m : Int) + e := max_eq_left hn
    have h := (Int.zpow_le_iff_le_log (b := 2) (by decide) (x := g.mbits)
      (r := (m : ℚ) * 2 ^ (e - (spacingExp g m e - g.mbits))) (by positivity)).mpr (by rw [log_magnitude hm]; omega)
    rw [zpow_natCast] at h
    exact_mod_cast h
  have : ((2 ^ g.mbits : Nat) : ℚ) < (roundedCount g mode neg m e).1 + 1 := by linarith
  exact Nat.lt_succ_iff.mp (by exact_mod_cast this)

/-- The code formed, as a count of spacings. -/
theorem exists_roundedMag_eq : ∃ n : Nat, spacingExp g m e + g.bias = (n + 1 : Nat) ∧
    (n = 0 ∨ 2 ^ g.mbits ≤ (roundedCount g mode neg m e).1) ∧
    roundedMag g mode neg m e = n * 2 ^ g.mbits + (roundedCount g mode neg m e).1 := by
  have hge : 1 - g.bias ≤ spacingExp g m e := le_max_right ..
  refine ⟨(spacingExp g m e + g.bias).toNat - 1, by omega, ?_, ?_⟩
  · rcases le_total (1 - g.bias) ((Nat.log2 m : Int) + e) with h | h
    · exact .inr (le_roundedCount hm mode neg e h)
    · have : spacingExp g m e = 1 - g.bias := max_eq_right h
      exact .inl (by omega)
  · obtain ⟨n, hn⟩ := Nat.exists_eq_succ_of_ne_zero (n := (spacingExp g m e + g.bias).toNat) (by omega)
    rw [roundedMag, hn, Nat.succ_mul, Nat.succ_sub_one]
    omega

/-- The code formed stands for the spec's rounded value. -/
theorem signFactor_mul_magValue_roundedMag :
    signFactor neg * magValue g (roundedMag g mode neg m e) = roundedTo g mode (real (.fin neg m e)) := by
  obtain ⟨n, hexp, hn, hmag⟩ := exists_roundedMag_eq (g := g) hm mode neg e
  rw [hmag, magValue_count g hn (roundedCount_le hm mode neg e), (roundedCount_rounds hm mode neg e).1, ← hexp]
  congr 4
  ring

theorem magValue_roundedMag : magValue g (roundedMag g mode neg m e) = |roundedTo g mode (real (.fin neg m e))| := by
  rw [← signFactor_mul_magValue_roundedMag hm mode neg e, abs_mul, abs_signFactor, one_mul, abs_of_nonneg (magValue_nonneg g _)]

/-- An exponent beyond that of the largest finite value gives a code beyond its. -/
theorem maxFin_lt_roundedMag (h : ((g.maxFin / 2 ^ g.mbits : Nat) : Int) - g.bias < (Nat.log2 m : Int) + e)
    (hn : 2 ^ g.mbits ≤ g.maxFin) : g.maxFin < roundedMag g mode neg m e := by
  have hfield : 0 < g.maxFin / 2 ^ g.mbits := Nat.div_pos hn (by positivity)
  have hc := le_roundedCount (g := g) hm mode neg e (by omega)
  obtain ⟨n, hexp, -, hmag⟩ := exists_roundedMag_eq (g := g) hm mode neg e
  have hle : (Nat.log2 m : Int) + e ≤ spacingExp g m e := le_max_left ..
  have hlt : g.maxFin < (g.maxFin / 2 ^ g.mbits + 1) * 2 ^ g.mbits :=
    Nat.lt_mul_of_div_lt (Nat.lt_succ_self _) (by positivity)
  have hmul : (g.maxFin / 2 ^ g.mbits + 1) * 2 ^ g.mbits ≤ (n + 1) * 2 ^ g.mbits := Nat.mul_le_mul_right _ (by omega)
  rw [hmag]
  rw [Nat.succ_mul n] at hmul
  omega

/-- `roundFin`, from the code formed. -/
theorem roundFin_eq (hn : 2 ^ g.mbits ≤ g.maxFin) (sat : Bool) :
    roundFin g mode sat neg m e false =
      if g.maxFin < roundedMag g mode neg m e then
        ⟨(overflowBits g mode sat neg).1, LaneFlags.ovf ||| LaneFlags.inx ||| (overflowBits g mode sat neg).2, true⟩
      else
        ⟨signBit g neg + roundedMag g mode neg m e,
          (if (roundedCount g mode neg m e).2 then LaneFlags.inx else 0) |||
            (if (roundedCount g mode neg m e).2 && roundedMag g mode neg m e < 2 ^ g.mbits then LaneFlags.unf else 0), false⟩ := by
  unfold roundFin
  dsimp only
  split
  · next h => rw [if_pos (maxFin_lt_roundedMag hm mode neg e h hn)]
  · rfl

end

/-- Settles O20: the code that the procedure forms stands for the rounded value, and codes rise with their values. -/
theorem roundToFollowsProcedure : Obligations.RoundToFollowsProcedure := by
  intro g mode sat neg m e hg hm x v r
  obtain ⟨-, hsign, hnormal, -⟩ := formatBounds hg
  have hr : r = _ := roundFin_eq hm mode neg e hnormal sat
  have habs : magValue g (roundedMag g mode neg m e) = |v| := magValue_roundedMag hm mode neg e
  have hover : real (decodeNum g g.maxFin) < |v| ↔ g.maxFin < roundedMag g mode neg m e := by
    rw [real_maxFin hg, ← habs, (magValue_strictMono g).lt_iff_lt]
  split
  · next ho => rw [hr, if_pos (hover.mp ho)]; exact ⟨rfl, rfl, rfl⟩
  · next ho =>
    have hmag := not_lt.mp (mt hover.mpr ho)
    have hunder : |v| < 2 ^ (1 - g.bias) ↔ roundedMag g mode neg m e < 2 ^ g.mbits := by
      rw [← magValue_normal_least, ← habs, (magValue_strictMono g).lt_iff_lt]
    have hinexact : (roundedCount g mode neg m e).2 = true ↔ v ≠ x := (roundedCount_rounds hm mode neg e).2
    rw [hr, if_neg hmag.not_gt]
    refine ⟨rfl, ?_, ?_, ?_, ?_⟩
    · exact signBit_add_lt hg neg hmag
    · exact (decodeNum_signBit hg neg hmag).trans (signFactor_mul_magValue_roundedMag hm mode neg e)
    · intro hv
      have h0 : roundedMag g mode neg m e = 0 :=
        (magValue_strictMono g).injective (by rw [habs, hv, abs_zero, magValue_zero])
      rw [h0, add_zero]
    · simp only [hunder, ← hinexact, Bool.and_eq_true, decide_eq_true_eq]

end Sys2Proof.Machine

/-! ## Codebook decoding, packing and burst scales (O30) -/

namespace Sys2Proof.Machine

open Sys2Proof.Claims

/-! ### A body that checks, then acts -/

/-- A body that traps where a check fails and acts as `act` where none does meets `Checked`. -/
theorem checked_of_body {i : Instr} {s : State} {u : Cur} {f : Fields} {scalar : Bool} {checks : List (Option TrapInfo)} {act : Act}
    {p : Prop} (e : exec i s = conclude s u f scalar ((checks.findSome? id).elim act .trap))
    (passes : checks.findSome? id = none → exec i s = conclude s u f scalar act → p) : Checked i s u checks p :=
  checked_intro (fun x hx => by rw [e, hx]; rfl) fun hn => passes hn (by rw [e, hn]; rfl)

/-- What the fields of a well-formed instruction meet (03 R84, checks 3 to 6). -/
theorem classes_of_wellFormed {i : Instr} {c : Nat} {f : Fields} {r : OpRow} (hw : wellFormed i = true)
    (hi : opcodeOf i = some (c, f)) (hr : rowOf c = some r) :
    prOk r.pr f.pr = true ∧ ftOk r.ft f.ft = true ∧ modOk r.md f.mod = true ∧ layoutOk r.layout r.code f = true := by
  simp only [wellFormed, hi, hr, fieldCheck, beq_iff_eq] at hw
  grind

/-! ### Lanes that keep the spare bits zero -/

/-- A format has no spare bits, or its lane has thirty others. -/
theorem spareMask_cases (m : Fmt) :
    spareMask m = BitVec.allOnes 32 ∨ spareMask m = BitVec.ofNat 32 (2 ^ 30 - 1) ∧ denseWidth m * perLane m = 30 := by
  revert m; decide

/-- A lane whose sub-elements fit it has no spare bit set. -/
theorem ofNat_and_spareMask {m : Fmt} {x : Nat} (h : x < 2 ^ (denseWidth m * perLane m)) :
    BitVec.ofNat 32 x &&& spareMask m = BitVec.ofNat 32 x := by
  rcases spareMask_cases m with hm | ⟨hm, hw⟩
  · rw [hm, BitVec.and_allOnes]
  · rw [hm, ← BitVec.ofNat_and, Nat.and_two_pow_sub_one_eq_mod, Nat.mod_eq_of_lt (hw ▸ h)]

/-! ### Element-by-element results -/

theorem denseWidth_eq {m : Fmt} (h : m ≠ Fmt.bitmap) : denseWidth m = fmtWidth m := by simp [denseWidth, h]

/-- Only the sub-elements that the format has matter. -/
theorem elemWise_congr {m : Fmt} (v : BitVec 16) {op g : Nat → Nat → Nat × LaneFlags} (h : ∀ i j, j < perLane m → op i j = g i j) :
    elemWise m v op = elemWise m v g := by
  have hl : ∀ i, (List.range (perLane m)).map (op i) = (List.range (perLane m)).map (g i) := fun i =>
    List.map_congr_left fun j hj => h i j (List.mem_range.mp hj)
  simp only [elemWise, h _ 0 (perLane_pos m), hl]

/-- The flags of an element-by-element result, by lane. -/
theorem flagsOf_elemWise {m : Fmt} (hp : isPair m = false) (v : BitVec 16) (op : Nat → Nat → Nat × LaneFlags) {i : Nat} (hi : i < 16) :
    (flagsOf (elemWise m v op))[i] =
      if v.getLsbD i then (List.range (perLane m)).foldl (fun x j => x ||| (op i j).2) 0 else 0 := by
  simp only [flagsOf, elemWise, Fin.getElem_fin, Vector.getElem_ofFn, hp, Bool.false_eq_true, if_false, Bool.not_eq_true']
  cases v.getLsbD i <;> simp [List.foldl_map]

/-- The lanes of an element-by-element result have no spare bit set. -/
theorem elemWise_and_spareMask {m : Fmt} (hp : isPair m = false) (hb : m ≠ Fmt.bitmap) (v : BitVec 16)
    (op : Nat → Nat → Nat × LaneFlags) (i : Fin 16) :
    (lanesOf (elemWise m v op))[i] &&& spareMask m = (lanesOf (elemWise m v op))[i] := by
  cases hv : v.getLsbD i.val with
  | false =>
    have h0 : (lanesOf (elemWise m v op))[i] = 0 := by
      simpa [lanesOf] using congrArg Prod.fst (elemWise_invalid m v op i hv)
    rw [h0]
    exact BitVec.zero_and
  | true =>
    simp only [lanesOf, elemWise, Fin.getElem_fin, Vector.getElem_ofFn, hv, hp, Bool.not_true, Bool.false_eq_true, if_false]
    apply ofNat_and_spareMask
    simpa [denseWidth_eq hb, Function.comp_def] using packSubs_lt (fmtWidth m) ((List.range (perLane m)).map fun j => (op i.val j).1)

/-- An emitted element-by-element result, in a format with one element or more to a lane. -/
theorem elements_normal {t : Token} {m : Fmt} {v : BitVec 16} {op : Nat → Nat → Nat × LaneFlags} (hp : isPair m = false)
    (hb : m ≠ Fmt.bitmap) (fmt : t.fmt = m) (lanes : t.lanes = lanesOf (elemWise m v op)) (valid : pairValid m t.valid = v) :
    Elements m v (normal t) (flagsOf (elemWise m v op)) op where
  element i j hi hv hj := by
    have hl : laneAt t i = (lanesOf (elemWise m v op))[(⟨i, hi⟩ : Fin 16)] := by simp [laneAt, hi, lanes]
    rw [elemAt, hp, if_neg Bool.false_ne_true, laneAt_normal_valid hi (by rw [normal_valid, fmt, valid, hv])
      (by rw [hl, fmt]; exact elemWise_and_spareMask hp hb v op _), hl]
    exact subAt_elemWise m v op ⟨i, hi⟩ j hp hb hv hj
  flag i hi := flagsOf_elemWise hp v op hi

/-! ### What a passed check says -/

theorem wantIn_eq_none_iff {slot : Nat} {t : Token} {ok : Fmt → Bool} :
    wantIn slot t ok = none ↔ t.kind = 0 ∧ (ok t.fmt = true ∨ t.fmt = Fmt.ptr) := by
  simp only [wantIn, ite_eq_left_iff, reduceCtorEq, imp_false, not_not, Bool.and_eq_true, Bool.or_eq_true, beq_iff_eq]

theorem convSrc_eq_tagOr (t : Token) (g : Fmt) : convSrc t g = tagOr t g := by
  simp only [convSrc, tagOr, beq_iff_eq]

/-- The format that a checked operand is read in is one that the check takes. -/
theorem tagOr_of_wantIn {slot : Nat} {t : Token} {ok : Fmt → Bool} {g : Fmt} (h : wantIn slot t ok = none) (hg : ok g = true) :
    ok (tagOr t g) = true := by
  obtain ⟨-, ht⟩ := wantIn_eq_none_iff.mp h
  unfold tagOr
  split
  · exact hg
  · next hp => exact ht.resolve_right hp

/-! ### CBDEC (04 R105) -/

section
variable {f : Fields} {s : State} {u : Cur} {scalar : Bool} {o : Opnds} {a b : Token}

theorem partOk_eq_partInRange (ws wd p : Nat) : partOk ws wd p = partInRange ws wd p := rfl

/-- One element decoded, as 04 R105 gives it. -/
theorem decodeCode_eq (src : Fmt) (sc : BitVec 8) (code : Nat) :
    decodeCode src sc b code =
      if src = Fmt.cb4 then (bookEntry b code, 0)
      else store ⟨.bf16, .rne, false, false⟩
        (if sc = 0xFF then .nan true else (decodeNum .bf16 (bookEntry b code)).scale ((sc.toNat : Int) - 127)) := by
  simp only [decodeCode, beq_iff_eq, scalePow]

/-- What CBDEC answers once its checks have passed, its source format being `src`. -/
def cbdecAct (f : Fields) (s : State) (a b : Token) (src : Fmt) : Act :=
  let r := convLanes 8 2 (immN f) Fmt.bf16 a.valid fun i j => decodeCode src a.scale b (subAt src (laneAt a i) j)
  .done s (.one (.data (convResult a Fmt.bf16 0x7F (lanesOf r) a.valid (a.poison || b.poison)))) (flagsOf r)

theorem bodyCbdec_eq (ha : o.a = some a) (hb : o.b = some b) :
    let src := tagOr a (if b.fmt = Fmt.cb4s then Fmt.cb4s else Fmt.cb4)
    bodyCbdec f s u o =
      ([wantIn 0 a isCbFmt, wantBook 1 b src, if partInRange 8 2 (immN f) then none else some illop].findSome? id).elim
        (cbdecAct f s a b src) .trap := by
  intro src
  have hsrc : convSrc a (if b.fmt == Fmt.cb4s then Fmt.cb4s else Fmt.cb4) = src := by
    simp only [convSrc_eq_tagOr, beq_iff_eq]; rfl
  simp only [bodyCbdec, ha, hb, hsrc, partOk_eq_partInRange]
  cases wantIn 0 a isCbFmt with
  | some e => rfl
  | none =>
    cases wantBook 1 b src with
    | some e => rfl
    | none => cases partInRange 8 2 (immN f) <;> rfl

/-- The elements of a part that lies in its range are converted one by one. -/
theorem convLanes_narrowing {ws wd p : Nat} {tag : Fmt} (v : BitVec 16) (conv : Nat → Nat → Nat × LaneFlags) (hw : perLane tag = wd)
    (h : p * wd + wd ≤ ws) : convLanes ws wd p tag v conv = elemWise tag v fun i j => conv i (p * wd + j) := by
  refine elemWise_congr v fun i j hj => ?_
  rw [if_pos (by omega), if_pos (by omega)]

/-- 04 R105: element `j` of lane `k` of a decoded part. -/
def decodedElement (a b : Token) (src : Fmt) (p k j : Nat) : Nat × LaneFlags :=
  let entry := bookEntry b (elemAt src a k (p * 2 + j))
  if src = Fmt.cb4 then (entry, 0)
  else store ⟨.bf16, .rne, false, false⟩
    (if a.scale = 0xFF then .nan true else (decodeNum .bf16 entry).scale ((a.scale.toNat : Int) - 127))

theorem cbdecAct_eq {src : Fmt} (hp : partInRange 8 2 (immN f) = true) (hsrc : isPair src = false) :
    cbdecAct f s a b src =
      let r := elemWise Fmt.bf16 a.valid (decodedElement a b src (immN f))
      .done s (.one (.data (convResult a Fmt.bf16 0x7F (lanesOf r) a.valid (a.poison || b.poison)))) (flagsOf r) := by
  have hlt : immN f * 2 < 8 := of_decide_eq_true hp
  have hr : convLanes 8 2 (immN f) Fmt.bf16 a.valid (fun i j => decodeCode src a.scale b (subAt src (laneAt a i) j)) =
      elemWise Fmt.bf16 a.valid (decodedElement a b src (immN f)) := by
    refine (convLanes_narrowing (wd := 2) a.valid _ rfl (by omega)).trans ?_
    refine elemWise_congr a.valid fun i j _ => ?_
    simp only [decodedElement, decodeCode_eq, elemAt, hsrc, Bool.false_eq_true, if_false]
  rw [cbdecAct, hr]

/-- CBDEC: operand A's codes of part `IMM`, decoded against the codebook. -/
theorem cbdec_gives (h : Executes 0x0AA .any f s u scalar o) (ha : o.a = some a) (hb : o.b = some b) :
    let src := tagOr a (if b.fmt = Fmt.cb4s then Fmt.cb4s else Fmt.cb4)
    Checked (.cbdec f) s u [wantIn 0 a isCbFmt, wantBook 1 b src, if partInRange 8 2 (immN f) then none else some illop]
      (Gives (.cbdec f) f s u scalar fun t fl =>
        FormedAs a Fmt.bf16 a.valid (a.poison || b.poison) 0x7F t ∧
          Elements Fmt.bf16 a.valid t fl (decodedElement a b src (immN f))) := by
  intro src
  have e : exec (.cbdec f) s = _ := runIns_executes h rfl (bodyCbdec f)
  rw [bodyCbdec_eq ha hb] at e
  refine checked_of_body e fun hpass hact => ?_
  simp only [List.findSome?_eq_none_iff, List.forall_mem_cons, id] at hpass
  obtain ⟨hA, -, hpart, -⟩ := hpass
  have hsrc : isCbFmt src = true := tagOr_of_wantIn hA (by split <;> rfl)
  have hpair : ∀ m, isCbFmt m = true → isPair m = false := by decide
  rw [cbdecAct_eq (by simpa using hpart) (hpair _ hsrc)] at hact
  exact ⟨_, _, hact, formedAs_normal rfl rfl rfl rfl rfl rfl rfl rfl,
    elements_normal (by decide) (by decide) rfl rfl rfl⟩

end

/-! ### PACK and UNPACK (05 R163) -/

section
variable {f : Fields} {s : State} {u : Cur} {scalar : Bool} {o : Opnds} {a : Token}

theorem denseSub_lt (m : Fmt) (x : Lane) (j : Nat) : denseSub m x j < 2 ^ denseWidth m := Nat.mod_lt _ (by positivity)

theorem denseWidth_le (m : Fmt) : denseWidth m ≤ denseWidth m * perLane m := Nat.le_mul_of_pos_right _ (perLane_pos m)

/-- The format that PACK and UNPACK work in. -/
def packFmt (f : Fields) (a : Token) : Fmt := if f.ft = Fmt.fromOperand then a.fmt else f.ft

/-- What PACK and UNPACK answer once their checks have passed, `lane` giving each lane and its validity. -/
def packAct (s : State) (a : Token) (m : Fmt) (p : Nat) (lane : Fmt → Token → Nat → Nat → Lane × Bool) : Act :=
  .done s (.one (.data (convResult a m a.scale (Vector.ofFn fun i => (lane m a p i.val).1)
    (BitVec.ofFnLE fun i => (lane m a p i.val).2) a.poison))) noFlags

/-- The checks of PACK and UNPACK, in order. -/
abbrev packChecks (f : Fields) (a : Token) : List (Option TrapInfo) :=
  [unless_ (!(f.ft == Fmt.fromOperand && (a.fmt == Fmt.int64 || a.fmt == Fmt.ptr))) 0 a, wantA f a someFormat,
    if f.imm.toNat < perLane (packFmt f a) then none else some illop]

theorem packing_eq (ha : o.a = some a) (lane : Fmt → Token → Nat → Nat → Lane × Bool) :
    packing f s o lane =
      ((packChecks f a).findSome? id).elim (packAct s a (packFmt f a) f.imm.toNat lane) .trap := by
  have hm : (if f.ft == Fmt.fromOperand then a.fmt else f.ft) = packFmt f a := by simp only [packFmt, beq_iff_eq]
  have hk : wantA f a knownFmt = wantA f a someFormat := rfl
  simp only [packing, ha, hm, hk, packChecks, unless_, immN]
  cases f.ft == Fmt.fromOperand && (a.fmt == Fmt.int64 || a.fmt == Fmt.ptr) with
  | true => rfl
  | false =>
    cases wantA f a someFormat with
    | some e => rfl
    | none =>
      by_cases hp : f.imm.toNat < perLane (packFmt f a)
      · simp [hp, not_le.mpr hp, packAct]
      · simp [hp, not_lt.mp hp]

/-- Neither works in a two-lane format. -/
theorem isPair_packFmt {i : Instr} {c : Nat} {r : OpRow} (hw : wellFormed i = true) (hi : opcodeOf i = some (c, f))
    (hr : rowOf c = some r) (hl : r.layout = .pack) (hchecks : (packChecks f a).findSome? id = none) : isPair (packFmt f a) = false := by
  obtain ⟨-, -, -, hlayout⟩ := classes_of_wellFormed hw hi hr
  simp only [hl, layoutOk, Bool.and_eq_true, bne_iff_ne] at hlayout
  simp only [List.findSome?_eq_none_iff, List.forall_mem_cons, id, unless_] at hchecks
  obtain ⟨hfrom, -⟩ := hchecks
  unfold packFmt
  split
  · next h => simpa [h, isPair] using hfrom
  · simp only [isPair, Bool.or_eq_false_iff, beq_eq_false_iff_ne]
    exact ⟨hlayout.1.1.2, hlayout.1.2⟩

/-- The sideband of a packed or unpacked token. -/
theorem packAct_gives {i : Instr} {m : Fmt} {p : Nat} {lane : Fmt → Token → Nat → Nat → Lane × Bool} {q : Token → Prop}
    (e : exec i s = conclude s u f scalar (packAct s a m p lane))
    (hq : ∀ t, t.valid = pairValid m (BitVec.ofFnLE fun k : Fin 16 => (lane m a p k.val).2) →
      (∀ k, k < 16 → t.valid.getLsbD k = true → laneAt t k = (lane m a p k).1 &&& spareMask m) → q t) :
    Gives i f s u scalar fun t fl =>
      t.kind = 0 ∧ t.fmt = m ∧ t.poison = a.poison ∧ t.scale = a.scale ∧ t.tag = a.tag ∧ t.seq = 0 ∧ t.bhead = false ∧
        fl = noFlags ∧ q t := by
  refine ⟨_, _, e, normal_kind _, normal_fmt _, normal_poison _, normal_scale _, normal_tag _, normal_seq _, normal_bhead _, rfl,
    hq _ (normal_valid _) fun k hk hv => ?_⟩
  refine (laneAt_normal _ hk).trans ((if_pos hv).trans ?_)
  simp [laneAt, hk]

/-- UNPACK's lane `k` is dense element 16p + `k`. -/
theorem unpackLane_and_spareMask (m : Fmt) (a : Token) (p k : Nat) :
    (unpackLane m a p k).1 &&& spareMask m = (unpackLane m a p k).1 :=
  ofNat_and_spareMask ((denseSub_lt ..).trans_le (Nat.pow_le_pow_right two_pos (denseWidth_le m)))

theorem dense_fits {m : Fmt} (h : isPair m = false) : denseWidth m * perLane m ≤ 32 := by revert h; revert m; decide

/-- Sub-element `j` of PACK's lane `l`: element 0 of the lane that supplies dense element `l`·w + `j`, zero where none does. -/
def packedSub (m : Fmt) (a : Token) (p l j : Nat) : Nat :=
  if 16 * p ≤ l * perLane m + j ∧ l * perLane m + j < 16 * p + 16 then denseSub m (laneAt a (l * perLane m + j - 16 * p)) 0 else 0

theorem packLane_fst (m : Fmt) (a : Token) (p l : Nat) :
    (packLane m a p l).1 = BitVec.ofNat 32 (packSubs (denseWidth m) ((List.range (perLane m)).map (packedSub m a p l))) := by
  simp only [packLane]
  congr 3
  funext j
  simp only [packedSub, Bool.and_eq_true, decide_eq_true_eq]
  split_ifs <;> rfl

theorem packedSubs_lt (m : Fmt) (a : Token) (p l : Nat) :
    packSubs (denseWidth m) ((List.range (perLane m)).map (packedSub m a p l)) < 2 ^ (denseWidth m * perLane m) := by
  simpa using packSubs_lt (denseWidth m) ((List.range (perLane m)).map (packedSub m a p l))

theorem packLane_and_spareMask (m : Fmt) (a : Token) (p l : Nat) :
    (packLane m a p l).1 &&& spareMask m = (packLane m a p l).1 := by
  rw [packLane_fst]
  exact ofNat_and_spareMask (packedSubs_lt m a p l)

/-- What stands in a packed lane reads back. -/
theorem denseSub_packLane {m : Fmt} (hp : isPair m = false) (a : Token) (p l : Nat) {j : Nat} (hj : j < perLane m) :
    denseSub m (packLane m a p l).1 j = packedSub m a p l j := by
  have hfit := (packedSubs_lt m a p l).trans_le (Nat.pow_le_pow_right two_pos (dense_fits hp))
  rw [packLane_fst, denseSub, BitVec.toNat_ofNat, Nat.mod_eq_of_lt hfit, packSubs_sub _ _ j (by simpa using hj),
    List.getElem_map, List.getElem_range]
  unfold packedSub
  split
  · exact Nat.mod_eq_of_lt (denseSub_lt ..)
  · exact Nat.zero_mod _

/-- A packed lane is valid where every lane that supplies it is. -/
theorem packLane_valid (m : Fmt) (a : Token) (p k : Nat) :
    (packLane m a p k).2 = (List.range 16).all fun n => decide ((16 * p + n) / perLane m ≠ k) || validAt a n := by
  have hw := perLane_pos m
  rw [Bool.eq_iff_iff]
  simp only [packLane, List.all_eq_true, List.mem_range, Bool.or_eq_true, decide_eq_true_eq]
  constructor
  · intro h n hn
    by_cases hk : (16 * p + n) / perLane m = k
    · right
      have hdm := Nat.div_add_mod' (16 * p + n) (perLane m)
      have := h _ (Nat.mod_lt (16 * p + n) hw)
      rw [hk] at hdm
      rw [hdm] at this
      simpa [hn] using this
    · exact .inl hk
  · intro h j hj
    split
    · next i hi =>
      simp only [Option.ite_none_right_eq_some, Bool.and_eq_true, decide_eq_true_eq, Option.some.injEq] at hi
      obtain ⟨⟨h1, h2⟩, rfl⟩ := hi
      refine (h _ (by omega)).resolve_left (not_not.mpr ?_)
      rw [Nat.add_sub_cancel' h1, mul_comm, Nat.mul_add_div hw, Nat.div_eq_of_lt hj, add_zero]
    · rfl

/-- UNPACK: dense elements 16p to 16p + 15, one to a lane. -/
theorem unpack_gives (h : Executes 0x0AD .any f s u scalar o) (ha : o.a = some a) :
    let m := packFmt f a
    let p := f.imm.toNat
    Checked (.unpack f) s u (packChecks f a)
      (Gives (.unpack f) f s u scalar fun t fl =>
        t.kind = 0 ∧ t.fmt = m ∧ t.poison = a.poison ∧ t.scale = a.scale ∧ t.tag = a.tag ∧ t.seq = 0 ∧ t.bhead = false ∧
          fl = noFlags ∧
          t.valid = pairValid m (BitVec.ofFnLE fun k : Fin 16 => validAt a ((16 * p + k.val) / perLane m)) ∧
            Lanes t fun k => BitVec.ofNat 32 (denseSub m (laneAt a ((16 * p + k) / perLane m)) ((16 * p + k) % perLane m))) := by
  intro m p
  have e : exec (.unpack f) s = _ := runIns_executes h rfl fun s _ o => packing f s o unpackLane
  rw [packing_eq ha] at e
  refine checked_of_body e fun _ hact => packAct_gives hact fun t hvalid hlanes => ⟨hvalid, fun k hk hv => ?_⟩
  rw [hlanes k hk hv, unpackLane_and_spareMask]
  rfl

/-- PACK: element 0 of each lane, at dense elements 16p to 16p + 15. -/
theorem pack_gives (hw : wellFormed (.pack f) = true) (h : Executes 0x0AC .any f s u scalar o) (ha : o.a = some a) :
    let m := packFmt f a
    let p := f.imm.toNat
    let w := perLane m
    Checked (.pack f) s u (packChecks f a)
      (Gives (.pack f) f s u scalar fun t fl =>
        t.kind = 0 ∧ t.fmt = m ∧ t.poison = a.poison ∧ t.scale = a.scale ∧ t.tag = a.tag ∧ t.seq = 0 ∧ t.bhead = false ∧
          fl = noFlags ∧
          t.valid = pairValid m (BitVec.ofFnLE fun k : Fin 16 =>
            (List.range 16).all fun n => decide ((16 * p + n) / w ≠ k.val) || validAt a n) ∧
          (∀ n, n < 16 → t.valid.getLsbD ((16 * p + n) / w) = true → (16 * p + n) / w < 16 →
            denseSub m (laneAt t ((16 * p + n) / w)) ((16 * p + n) % w) = denseSub m (laneAt a n) 0) ∧
          ∀ k j, k < 16 → j < w → t.valid.getLsbD k = true → (k * w + j < 16 * p ∨ 16 * p + 16 ≤ k * w + j) →
            denseSub m (laneAt t k) j = 0) := by
  intro m p w
  have e : exec (.pack f) s = _ := runIns_executes h rfl fun s _ o => packing f s o packLane
  rw [packing_eq ha] at e
  refine checked_of_body e fun hpass hact => packAct_gives hact fun t hvalid hlanes => ⟨?_, ?_, ?_⟩
  · simpa only [packLane_valid] using hvalid
  all_goals
    have hpair : isPair m = false := isPair_packFmt hw rfl rfl rfl hpass
    have hsub : ∀ k j, k < 16 → j < w → t.valid.getLsbD k = true → denseSub m (laneAt t k) j = packedSub m a p k j := by
      intro k j hk hj hv
      rw [hlanes k hk hv, packLane_and_spareMask]
      exact denseSub_packLane hpair a p k hj
  · intro n hn hv hk
    rw [hsub _ _ hk (Nat.mod_lt _ (perLane_pos m)) hv, packedSub, Nat.div_add_mod', if_pos (by omega), Nat.add_sub_cancel_left]
  · intro k j hk hj hv hout
    rw [hsub k j hk hj hv, packedSub, if_neg fun h => hout.elim h.1.not_gt h.2.not_ge]

end

/-! ### The order of finite values -/

/-- The least exponent of a list is no greater than that of any of its numbers but zero. -/
theorem leastExp_le {l : List Num} {s : Bool} {m : Nat} {e : Int} (hx : Num.fin s m e ∈ l) (hm : m ≠ 0) :
    ∃ q, leastExp l = some q ∧ q ≤ e := by
  induction l with
  | nil => simp at hx
  | cons y r ih =>
    rcases List.mem_cons.mp hx with rfl | hr
    · cases hl : leastExp r with
      | none => exact ⟨e, by simp [leastExp, hm, hl], le_rfl⟩
      | some d => exact ⟨min e d, by simp [leastExp, hm, hl], min_le_left ..⟩
    · obtain ⟨d, hd, hle⟩ := ih hr
      cases y with
      | nan i => exact ⟨d, by simpa [leastExp] using hd, hle⟩
      | inf i => exact ⟨d, by simpa [leastExp] using hd, hle⟩
      | fin t n k =>
        by_cases hn : n = 0
        · exact ⟨d, by simpa [leastExp, hn] using hd, hle⟩
        · exact ⟨min k d, by simp [leastExp, hn, hd], (min_le_right ..).trans hle⟩

/-- A number counted in units 2^`q`. -/
theorem real_eq_signedAt {s : Bool} {m : Nat} {e q : Int} (h : m ≠ 0 → q ≤ e) :
    real (.fin s m e) = signedAt q (.fin s m e) * 2 ^ q := by
  rw [real_fin]
  by_cases hm : m = 0
  · simp [signedAt, hm]
  · have hp : (2 : ℚ) ^ (e - q).toNat * 2 ^ q = 2 ^ e := by
      rw [← zpow_natCast, Int.toNat_of_nonneg (sub_nonneg.mpr (h hm)), ← zpow_add₀ two_ne_zero, sub_add_cancel]
    rw [← hp]
    cases s <;> simp [signedAt, hm, signFactor, mul_assoc]

/-- Finite values are ordered as the numbers that they are. -/
theorem ltNum_fin_iff (s t : Bool) (m n : Nat) (e d : Int) :
    ltNum (.fin s m e) (.fin t n d) = true ↔ real (.fin s m e) < real (.fin t n d) := by
  simp only [ltNum]
  split
  · next hnone =>
    have hzero : ∀ {b k j}, Num.fin b k j ∈ [Num.fin s m e, .fin t n d] → k = 0 := fun {b k j} hx => by
      by_contra hk
      obtain ⟨q, hq, -⟩ := leastExp_le hx hk
      simp [hnone] at hq
    obtain rfl : m = 0 := hzero (b := s) (j := e) (by simp)
    obtain rfl : n = 0 := hzero (b := t) (j := d) (by simp)
    simp [real]
  · next q hq =>
    have hle : ∀ {b k j}, Num.fin b k j ∈ [Num.fin s m e, .fin t n d] → k ≠ 0 → q ≤ j := fun hx hk => by
      obtain ⟨q', hq', hle⟩ := leastExp_le hx hk
      rw [hq] at hq'
      exact Option.some.inj hq' ▸ hle
    rw [real_eq_signedAt (hle (b := s) (by simp)), real_eq_signedAt (hle (b := t) (by simp)), decide_eq_true_eq,
      mul_lt_mul_iff_left₀ (by positivity)]
    exact_mod_cast Iff.rfl

/-! ### The greatest magnitude -/

/-- A finite number that is not below zero. -/
def IsMagnitude (x : Num) : Prop := ∃ m e, x = .fin false m e

theorem real_magnitude (m : Nat) (e : Int) : real (.fin false m e) = m * 2 ^ e := by rw [real_fin, signFactor]; simp

theorem IsMagnitude.nonneg {x : Num} (h : IsMagnitude x) : 0 ≤ real x := by
  obtain ⟨m, e, rfl⟩ := h
  rw [real_magnitude]
  positivity

theorem IsMagnitude.isZero_iff {x : Num} (h : IsMagnitude x) : x.isZero = true ↔ real x = 0 := by
  obtain ⟨m, e, rfl⟩ := h
  rw [real_magnitude]
  cases m with
  | zero => simp [Num.isZero]
  | succ n => exact iff_of_false (by simp [Num.isZero]) (ne_of_gt (by positivity))

theorem IsMagnitude.ltNum_iff {x y : Num} (hx : IsMagnitude x) (hy : IsMagnitude y) : ltNum x y = true ↔ real x < real y := by
  obtain ⟨m, e, rfl⟩ := hx
  obtain ⟨n, d, rfl⟩ := hy
  exact ltNum_fin_iff ..

theorem IsMagnitude.scale {x : Num} (h : IsMagnitude x) (k : Int) : IsMagnitude (x.scale k) ∧ real (x.scale k) = real x * 2 ^ k := by
  obtain ⟨m, e, rfl⟩ := h
  refine ⟨⟨m, e + k, rfl⟩, ?_⟩
  rw [Num.scale, real_magnitude, real_magnitude, zpow_add₀ two_ne_zero, mul_assoc]

/-- The binary logarithm of a magnitude, rounded down. -/
theorem IsMagnitude.floorLog2_eq {x : Num} (h : IsMagnitude x) (h0 : real x ≠ 0) : floorLog2 x = Int.log 2 (real x) := by
  obtain ⟨m, e, rfl⟩ := h
  rw [real_magnitude] at h0 ⊢
  rw [log_magnitude (fun hm => h0 (by simp [hm])), floorLog2]

theorem greatest_cons (x : Num) (r : List Num) : greatest (x :: r) = max |real x| (greatest r) := by
  simp only [greatest, List.foldl_eq_foldr, List.map_cons, List.foldr_cons]

theorem isFinite_cases {x : Num} (h : x.isNan = false) (h' : x.isInf = false) : ∃ s m e, x = .fin s m e := by
  cases x with
  | nan i => simp [Num.isNan] at h
  | inf s => simp [Num.isInf] at h'
  | fin s m e => exact ⟨s, m, e, rfl⟩

/-- Of finite values `maxAbs` gives the greatest magnitude. -/
theorem maxAbs_spec {l : List Num} (h : ∀ x ∈ l, x.isNan = false ∧ x.isInf = false) :
    IsMagnitude (maxAbs l) ∧ real (maxAbs l) = greatest l := by
  induction l with
  | nil => exact ⟨⟨0, 0, rfl⟩, by simp [maxAbs, real, greatest]⟩
  | cons x r ih =>
    obtain ⟨hmag, hreal⟩ := ih fun y hy => h y (List.mem_cons_of_mem _ hy)
    obtain ⟨hn, hi⟩ := h x List.mem_cons_self
    obtain ⟨s, m, e, rfl⟩ := isFinite_cases hn hi
    have hx : IsMagnitude (absNum (.fin s m e)) := ⟨m, e, rfl⟩
    have habs : real (absNum (.fin s m e)) = |real (.fin s m e)| := by rw [abs_real_fin, absNum, real_magnitude]
    rw [greatest_cons, ← hreal, ← habs, maxAbs]
    simp only [hmag.ltNum_iff hx]
    split
    · next hlt => exact ⟨hx, (max_eq_left hlt.le).symm⟩
    · next hlt => exact ⟨hmag, (max_eq_right (not_lt.mp hlt)).symm⟩

/-- The largest magnitude of a target is a number. -/
theorem targetMax_isMagnitude (m : Fmt) (bk : Option Token) : IsMagnitude (targetMax m bk) := by
  unfold targetMax
  split
  · next g hg =>
    rcases isFormat_cases ⟨m, hg⟩ with rfl | rfl | rfl | rfl | rfl | rfl | rfl | rfl <;> exact ⟨_, _, rfl⟩
  · split
    · refine (maxAbs_spec fun x hx => ?_).1
      simpa [finiteEntries] using (List.mem_filter.mp hx).2
    · exact ⟨127, 0, rfl⟩

/-! ### Choosing the scale (05 R162) -/

/-- The scale `n` keeps `amax` within `top`. -/
def ScaleKeeps (amax top : ℚ) (n : Nat) : Prop := amax / 2 ^ ((n : Int) - 127) ≤ top

/-- `leastScale` from `n`, with fuel up to 0xFE: the first scale that keeps `amax` within the maximum, 0xFE where none does. -/
theorem leastScale_spec {amax mx : Num} (ha : IsMagnitude amax) (hm : IsMagnitude mx) (k n : Nat) (h : n + k = 255) :
    leastScale amax mx k n ≤ 0xFE ∧
      (ScaleKeeps (real amax) (real mx) (leastScale amax mx k n) ∨ leastScale amax mx k n = 0xFE) ∧
      ∀ j, n ≤ j → j < leastScale amax mx k n → ¬ScaleKeeps (real amax) (real mx) j := by
  induction k generalizing n with
  | zero => exact ⟨le_rfl, .inr rfl, fun j hj hlt => by simp only [leastScale] at hlt; omega⟩
  | succ k ih =>
    have hkeeps : (!ltNum (mx.scale ((n : Int) - 127)) amax) = true ↔ ScaleKeeps (real amax) (real mx) n := by
      obtain ⟨hs, hr⟩ := hm.scale ((n : Int) - 127)
      rw [Bool.not_eq_true', Bool.eq_false_iff, ne_eq, hs.ltNum_iff ha, hr, not_lt, ScaleKeeps, div_le_iff₀ (by positivity)]
    rw [leastScale]
    split
    · next hk => exact ⟨by omega, .inl (hkeeps.mp hk), fun j hj hlt => absurd hlt hj.not_gt⟩
    · next hk =>
      obtain ⟨h1, h2, h3⟩ := ih (n + 1) (by omega)
      refine ⟨h1, h2, fun j hj hlt => ?_⟩
      rcases hj.eq_or_lt with rfl | hlt'
      · exact mt hkeeps.mpr hk
      · exact h3 j hlt' hlt

theorem clampScale_eq (v : Int) : (clampScale v : Int) = max 0 (min 0xFE v) := by
  unfold clampScale
  split_ifs <;> omega

theorem openScale_le {x : Num} (h : IsMagnitude x) : openScale x ≤ 0xFE := by
  obtain ⟨m, e, rfl⟩ := h
  exact min_le_left ..

/-- The scale that R162 gives for elements `xs` and a target format, with its codebook where it has one. -/
def IsScale (f : Fields) (xs : List Num) (bk : Option Token) (sc : Nat) : Prop :=
  let amax := greatest xs
  let top := real (targetMax f.ft bk)
  if xs.any (fun x => x.isNan || x.isInf) then sc = 0xFF
  else if amax = 0 then sc = 127
  else if (f.ft = Fmt.cb4 ∨ f.ft = Fmt.cb4s) ∧ (bookEntries bk).all (fun x => x.2.isNan || x.2.isInf) then sc ≤ 0xFE
  else if top = 0 then sc = 127
  else if f.mod = 0 then
    sc ≤ 0xFE ∧ (ScaleKeeps amax top sc ∨ sc = 0xFE) ∧ ∀ n : Nat, n < sc → ¬ScaleKeeps amax top n
  else (sc : Int) = max 0 (min 0xFE (127 + Int.log 2 amax - Int.log 2 top))

/-- The scale that `BSCALC` computes. -/
def burstScale (f : Fields) (xs : List Num) (bk : Option Token) : Nat :=
  let amax := maxAbs (xs.filter (!·.isNan))
  let mx := targetMax f.ft bk
  if xs.any (fun n => n.isNan || n.isInf) then 0xFF
  else if amax.isZero then 127
  else if isCbFmt f.ft && (finiteEntries bk).isEmpty then openScale amax
  else if mx.isZero then 127
  else if f.mod == 0 then leastScale amax mx 255 0
  else clampScale (127 + floorLog2 amax - floorLog2 mx)

theorem finiteEntries_isEmpty (bk : Option Token) :
    (finiteEntries bk).isEmpty = (bookEntries bk).all (fun x => x.2.isNan || x.2.isInf) := by
  rw [Bool.eq_iff_iff]
  simp only [finiteEntries, List.isEmpty_iff, List.filter_eq_nil_iff, List.mem_map, List.all_eq_true]
  grind

theorem isCbFmt_iff (m : Fmt) : isCbFmt m = true ↔ m = Fmt.cb4 ∨ m = Fmt.cb4s := by simp [isCbFmt]

/-- What BSCALC computes is the scale of R162. -/
theorem burstScale_isScale (f : Fields) (xs : List Num) (bk : Option Token) : IsScale f xs bk (burstScale f xs bk) := by
  generalize hsc : burstScale f xs bk = sc
  unfold burstScale at hsc
  unfold IsScale
  dsimp only at hsc ⊢
  by_cases hfin : xs.any (fun x => x.isNan || x.isInf) = true
  · rw [if_pos hfin] at hsc ⊢
    exact hsc.symm
  have hall : ∀ x ∈ xs, x.isNan = false ∧ x.isInf = false := by simpa using hfin
  have hself : xs.filter (!·.isNan) = xs := List.filter_eq_self.mpr fun x hx => by simp [(hall x hx).1]
  obtain ⟨hmag, hamax⟩ := maxAbs_spec hall
  have htop := targetMax_isMagnitude f.ft bk
  rw [if_neg hfin] at hsc ⊢
  simp only [hself, hmag.isZero_iff, htop.isZero_iff, Bool.and_eq_true, isCbFmt_iff, finiteEntries_isEmpty, beq_iff_eq] at hsc
  rw [← hamax]
  split_ifs at hsc ⊢ with h0 hopen ht hmod
  · exact hsc.symm
  · exact hsc ▸ openScale_le hmag
  · exact hsc.symm
  · obtain ⟨h1, h2, h3⟩ := leastScale_spec hmag htop 255 0 rfl
    rw [hsc] at h1 h2 h3
    exact ⟨h1, h2, fun n hn => h3 n n.zero_le hn⟩
  · rw [← hsc, clampScale_eq, hmag.floorLog2_eq h0, htop.floorLog2_eq ht]

/-! ### BSCALC (05 R162) -/

/-- The codebook operand, checked (05 R160). -/
theorem bookOf_eq (f : Fields) (slot : Nat) (b : Option Token) :
    bookOf f slot b = (bookCheck f slot b).elim (.ok (book f b)) .error := by
  unfold bookOf bookCheck book
  simp only [isCbFmt_iff]
  by_cases h : f.ft = Fmt.cb4 ∨ f.ft = Fmt.cb4s
  · rw [if_pos h, if_pos h, if_pos h]
    cases b with
    | none => rfl
    | some t => cases hw : wantBook slot t f.ft <;> simp [hw]
  · rw [if_neg h, if_neg h, if_neg h]
    rfl

/-- The valid elements in dense order, as the model and as the statements list them. -/
theorem filterMap_denseAt {m : Fmt} (hp : isPair m = false) (t : Token) (v : BitVec 16) (n : Nat) :
    (List.range (n * perLane m)).filterMap (denseAt m t v) =
      ((List.range n).filter fun k => v.getLsbD k).flatMap fun k => (List.range (perLane m)).map fun j => elemAt m t k j := by
  have hw := perLane_pos m
  induction n with
  | zero => simp
  | succ n ih =>
    rw [Nat.succ_mul, List.range_add, List.filterMap_append, ih, List.range_succ, List.filter_append, List.flatMap_append]
    congr 1
    rw [List.filterMap_map]
    have hlane : ∀ j ∈ List.range (perLane m),
        (denseAt m t v ∘ (n * perLane m + ·)) j = if v.getLsbD n then some (elemAt m t n j) else none := by
      intro j hj
      have hj := List.mem_range.mp hj
      have hd : (n * perLane m + j) / perLane m = n := by rw [mul_comm, Nat.mul_add_div hw, Nat.div_eq_of_lt hj, add_zero]
      have hm : (n * perLane m + j) % perLane m = j := by rw [mul_comm, Nat.mul_add_mod, Nat.mod_eq_of_lt hj]
      simp [denseAt, laneOfElem, elemAt, hp, hd, hm]
    rw [List.filterMap_congr hlane]
    cases hv : v.getLsbD n <;> simp [hv]

section
variable {f : Fields} {s : State} {u : Cur} {scalar : Bool} {o : Opnds} {a : Token}

/-- The values of operand A's valid elements, as BSCALC reads them. -/
def burstValues (u : Cur) (a : Token) (src : Fmt) : List Num :=
  (Claims.elementsOf src a a.valid).map fun x => sourceNum (taskFtz u) src a.scale x.2

theorem burstValues_eq {src : Fmt} (hp : isPair src = false) :
    ((List.range (elemCount src)).filterMap fun n => (denseAt src a a.valid n).map (sourceNum (taskFtz u) src a.scale)) =
      burstValues u a src := by
  have h := congrArg (List.map (sourceNum (taskFtz u) src a.scale)) (filterMap_denseAt hp a a.valid 16)
  rw [List.map_filterMap] at h
  simp only [elemCount, hp, Bool.false_eq_true, if_false, h, burstValues, Claims.elementsOf, List.map_flatMap, List.map_map,
    Function.comp_def]

/-- What BSCALC answers once its checks have passed. -/
def bscalcAct (f : Fields) (s : State) (u : Cur) (a : Token) (bk : Option Token) : Act :=
  .done s (.one (.data (convResult a Fmt.uint32 0x7F
    (broadcast (BitVec.ofNat 32 (burstScale f (burstValues u a (tagOr a Fmt.fp32)) bk))) 0xFFFF (a.poison || isPoisoned bk)))) noFlags

theorem bodyBscalc_eq (ha : o.a = some a) :
    bodyBscalc f s u o =
      ([wantIn 0 a isFloat3, bookCheck f 1 o.b].findSome? id).elim (bscalcAct f s u a (book f o.b)) .trap := by
  simp only [bodyBscalc, ha, bookOf_eq]
  cases hA : wantIn 0 a isFloat3 with
  | some e => rfl
  | none =>
    have hpair : ∀ m, isFloat3 m = true → isPair m = false := by decide
    have hsrc := hpair _ (tagOr_of_wantIn (g := Fmt.fp32) hA (by decide))
    cases bookCheck f 1 o.b with
    | some e => rfl
    | none =>
      simp only [Option.elim, convSrc_eq_tagOr, burstValues_eq hsrc, List.findSome?_cons, List.findSome?_nil, id]
      rfl

/-- BSCALC: the scale of operand A's valid elements, in every lane. -/
theorem bscalc_gives (h : Executes 0x0AF .any f s u scalar o) (ha : o.a = some a) :
    Checked (.bscalc f) s u [wantIn 0 a isFloat3, bookCheck f 1 o.b]
      (Gives (.bscalc f) f s u scalar fun t fl =>
        ∃ sc, FormedAs a Fmt.uint32 0xFFFF (a.poison || isPoisoned (book f o.b)) 0x7F t ∧ fl = noFlags ∧
          (Lanes t fun _ => BitVec.ofNat 32 sc) ∧ IsScale f (burstValues u a (tagOr a Fmt.fp32)) (book f o.b) sc) := by
  have e : exec (.bscalc f) s = _ := runIns_executes h rfl (bodyBscalc f)
  rw [bodyBscalc_eq ha] at e
  refine checked_of_body e fun _ hact => ⟨_, _, hact, _, formedAs_normal rfl rfl rfl rfl rfl rfl rfl rfl, rfl, ?_,
    burstScale_isScale f _ _⟩
  intro k hk hv
  refine (laneAt_normal_valid hk hv BitVec.and_allOnes).trans ?_
  simp [laneAt, hk, broadcast]

end

/-- Settles O30: CBDEC, PACK, UNPACK and BSCALC, each by what it gives once its checks have passed. -/
theorem codebooksPackingAndScales : Obligations.CodebooksPackingAndScales := by
  refine ⟨fun f s u scalar o a b _ h ha hb => cbdec_gives h ha hb, fun i f unpack hi hw s u scalar o a h ha => ?_,
    fun f s u scalar o a _ h ha => ?_⟩
  · rcases hi with ⟨rfl, rfl⟩ | ⟨rfl, rfl⟩
    · exact unpack_gives h ha
    · exact pack_gives hw h ha
  · have := bscalc_gives h ha
    simp only [IsScale, ScaleKeeps, not_le] at this
    exact this

end Sys2Proof.Machine
